-- ==== Sys2Proof/Word.lean ====
section
/-! DEFINITION. The word types of the Cithixel ZC4K and their plainest forms (R5 of 00_scope.md: bit 0 is the
least significant bit, multi-byte fields are little-endian). Everything a test could show wrong (field
extraction, byte order, rounding) stands in Sys2Proof/Machine/. -/
namespace Sys2Proof

/-- One byte. -/
abbrev Byte := BitVec 8

/-- A handle as a command names it (R341). -/
abbrev Handle := BitVec 32

/-- A point of the device's time scale in units of 2^-16 ns since the plane epoch (00_scope.md, Full time). -/
abbrev Ticks := Nat

end Sys2Proof
end

