-- ==== Sys2Proof/Syntax.lean ====
section
/-! DEFINITION. The commands of the block: one constructor of `Instr` per row of spec/opcode_table.json, in the
table's order, and the operand types they carry. An operand is what the environment supplies with the event
(bytes that arrive on a pin, the result of a test, which lane or port); everything the device decides itself
is computed by the meanings from the state. -/
namespace Sys2Proof

/-- Where a command packet comes from (R324). -/
inductive Source where
  | ring
  | spi
  | fabric (port : Nat)
  deriving DecidableEq, Repr, Inhabited

/-- A 66-bit block: sync header and payload (R61). -/
structure Block where
  sh : BitVec 2
  payload : BitVec 64
  deriving DecidableEq, Repr

/-- What a fabric port's receiver takes: the blocks of one packet alone, or a stretch of whole columns as its lanes bring
them, one list for each lane 8n to 8n + w − 1, scrambled, without markers (R61, R90). -/
inductive Arrival where
  | packet (bytes : List Byte)
  | stretch (lanes : List (List Block))
  deriving DecidableEq, Repr

/-- What a read of memory outside the device returned (R330, R499). -/
inductive ReadResult where
  | ok (data : List Byte)
  | poisoned
  | failed
  deriving DecidableEq, Repr

/-- A write of the host to BAR0: offset, size in bytes, value (R500). -/
structure BarWrite where
  off : Nat
  size : Nat
  value : BitVec 64
  deriving DecidableEq, Repr

/-- What the 10 ms measurement of TKREF found (R416). -/
inductive TkrefMeasure where
  | absent | mhz10 | mhz100
  deriving DecidableEq, Repr

/-- What the SPD of a module says (R307): a DDR5 RDIMM with ECC of two 40-bit subchannels, x4 devices, their density in Gbit, ranks, the
rating in MT/s, data bytes, manufacturer code, refresh management. -/
structure Spd where
  rdimm : Bool
  x4 : Bool
  density : Nat
  ranks : Nat
  rating : Nat
  capacity : Nat
  vendor : BitVec 32
  rfm : Bool
  deriving DecidableEq, Repr

/-- What a Reserve channel finds in its socket: nothing, or a module and whether training it succeeds (R308). -/
inductive Training where
  | empty
  | module (m : Spd) (ok : Bool)
  deriving DecidableEq, Repr

/-- A unit by class and number (Table — Unit classes, R41). -/
structure UnitRef where
  cls : Nat
  num : Nat
  deriving DecidableEq, Repr

/-- Which outstanding read of the device a PCIe completion answers (R499). -/
inductive DeviceRead where
  | ringEntry
  | indirect
  | dma (ch : Nat)
  deriving DecidableEq, Repr

/-- A master of the bus matrix (R468). -/
inductive Master where
  | teller
  | hostPort
  | dma (engine : Nat)
  deriving DecidableEq, Repr

/-- A burst at the matrix (R470, R471): a read of `len` bytes or a write with byte strobes, which completes when its ports have granted
it, or which only comes to wait at them (R469); the next piece of the descriptor that a DMA channel runs, or its read of NEXT; and a pulse
lost at a crossing. -/
inductive Burst where
  | waitRead (m : Master) (addr : BitVec 64) (len : Nat) (host : ReadResult)
  | waitWrite (m : Master) (addr : BitVec 64) (data : List Byte) (strobes : List Bool) (hostAccepts : Bool)
  | read (m : Master) (addr : BitVec 64) (len : Nat) (host : ReadResult)
  | write (m : Master) (addr : BitVec 64) (data : List Byte) (strobes : List Bool) (hostAccepts : Bool)
  | dmaPiece (ch : Nat) (host : ReadResult) (hostAccepts : Bool)
  | dmaNext (ch : Nat) (host : ReadResult)
  | overrun (source dest lost : Nat)
  deriving DecidableEq, Repr

/-- Why a Teller channel fails its diagnosis or a vote breaks (R439, R440). -/
inductive ChannelFault where
  | correctable (offset : Nat)
  | uncorrectable
  | outvoted
  | mismatch
  deriving DecidableEq, Repr

/-- Which engine of the kernel machinery an event concerns. -/
inductive Engine where
  | vx (ctx : Nat)
  | clerk (n : Nat)
  deriving DecidableEq, Repr

/-- A slot of a vector bundle (R256). -/
inductive Slot where
  | l | f | i | x
  deriving DecidableEq, Repr

/-- A vector instruction word without its OP field, which the constructor stands for (R256). -/
structure VxWord where
  stage : BitVec 3
  pred : BitVec 3
  d : BitVec 7
  a : BitVec 7
  b : BitVec 7
  imm7 : BitVec 7
  deriving DecidableEq, Repr

/-- A clerk instruction word without its OP field (R275). -/
structure ClerkWord where
  dst : BitVec 4
  s1 : BitVec 4
  s2 : BitVec 4
  imm : BitVec 12
  mx : BitVec 16
  my : BitVec 16
  deriving DecidableEq, Repr

/-- What an F-engine parity error strikes (R170). -/
inductive ParityTarget where
  | data
  | fir (set : Nat)
  | pfb (set : Nat)
  deriving DecidableEq, Repr

/-- The pass of R188 that ends: product, grid sub-integration and piece (0 the first or only piece, 1 the second
piece of a cut), channel, strip, brick, and the tile position within the brick (R189). -/
structure Pass where
  handle : Handle
  subint : Nat
  piece : Nat
  chan : Nat
  strip : Nat
  brick : Nat
  rank : Nat
  col : Nat
  deriving DecidableEq, Repr

/-- The sweep of R220 that ends: product, span, channel, round and double-group octet g. -/
structure Sweep where
  handle : Handle
  span : Nat
  chan : Nat
  round : Nat
  g : Nat
  deriving DecidableEq, Repr

/-- Which memory a natural error strikes is left to the injections of R320; a patrol read or DRAM burst reports
this (R317). -/
inductive BurstRead where
  | clean
  | corrected (device : Nat)
  | uncorrectable
  deriving DecidableEq, Repr

/-- An exact partial that a co-owner sends to a shared region (R208): its grid sub-integration, the record and the
512 values, with its tally. -/
structure CoAdd where
  owner : Handle
  subint : Nat
  pair : Nat
  chan : Nat
  values : List Int
  tally : Nat
  deriving DecidableEq, Repr

/-- The detection that fires a BEAM rule (R238): input index n of the sample at which it fires. -/
structure Detection where
  handle : Handle
  index : Nat
  /-- samples of inputs that follow their last released ones: the trigger path takes them first (R241) -/
  early : List (Nat × List Int) := []
  deriving DecidableEq, Repr

/-- The commands. -/
inductive Instr where
  -- power, boot and resets
  /-- R520 -/
  | supplyVddAoUp
  /-- R520, R506: the straps as sampled -/
  | resetNRelease (bootMode : BitVec 2) (hpDisable testMode : Bool)
  /-- R416 -/
  | tkrefSelect (m : TkrefMeasure)
  /-- R507: the two image regions as the boot ROM reads them -/
  | bootImageLoad (imgA imgB : List Byte)
  /-- R507 -/
  | bootFallbackTimeout
  /-- R308: one result per channel 0-7 -/
  | reserveTrainingDone (results : List Training)
  /-- R459: the units whose BIST failed -/
  | firstLedgerRewrite (failed : List UnitRef)
  /-- R461 -/
  | pinReset
  /-- R461: the value written to RESET_CTRL -/
  | tellerRestart (v : BitVec 32)
  /-- R461: the value written to RESET_CTRL -/
  | deviceReset (v : BitVec 32)
  -- PCIe and the host port
  /-- R497 -/
  | perstAssert
  /-- R498 -/
  | functionLevelReset
  /-- R498 -/
  | d3hotEntry
  /-- R333 -/
  | pcieLinkDown
  /-- R333 -/
  | busMasterClear
  /-- R499 -/
  | pcieCompletion (rd : DeviceRead) (res : ReadResult)
  /-- R327 -/
  | baseWrite (w : BarWrite)
  /-- R326: the value written to RING_CTRL -/
  | ringEnable (v : BitVec 32)
  /-- R326 -/
  | ringDisable (v : BitVec 32)
  /-- R330 -/
  | ringHold (v : BitVec 32)
  /-- R327: the value written -/
  | cmdDoorbell (v : BitVec 32)
  /-- R327: the value written -/
  | rplDoorbell (v : BitVec 32)
  /-- R328: what the reads of the entry and of indirect parameters return -/
  | commandFetch (entry params : ReadResult)
  /-- R500 -/
  | registerWrite (w : BarWrite)
  /-- R503 -/
  | bar2Read (off len : Nat)
  /-- R503 -/
  | bar2Write (off : Nat) (data : List Byte)
  -- the SPI management port
  /-- R335: the bytes after the first byte 0x01 -/
  | spiWrite (frame : List Byte)
  /-- R335: how many bytes after the first are clocked -/
  | spiReadReply (clocked : Nat)
  /-- R334 -/
  | spiReadStatus
  /-- R334 -/
  | spiReadData (offset count : Nat)
  /-- R335 -/
  | spiUnknownFrame (first : Byte)
  -- forwarding and the Teller opcodes; the operand is the source whose turn it is (R324)
  /-- R336 -/
  | forward (src : Source)
  /-- R337: which open forward, counted from the oldest -/
  | forwardTimeout (n : Nat)
  /-- R48 -/
  | badOpcode (src : Source)
  /-- R361 -/
  | nop (src : Source)
  /-- R362 -/
  | identify (src : Source)
  /-- R363; wr: the write to the destination succeeds (R357), here and below -/
  | ledgerRead (src : Source) (wr : Bool)
  /-- R364 -/
  | keyLoad (src : Source)
  /-- R365 -/
  | lock (src : Source)
  /-- R366 -/
  | resetUnit (src : Source)
  /-- R366: the units whose BIST failed, and what retraining found on Reserve channels -/
  | resetUnitComplete (failed : List Nat) (training : List (Nat × Training))
  /-- R368 -/
  | laneSet (src : Source)
  /-- R369 -/
  | laneStatus (src : Source) (wr : Bool)
  /-- R370 -/
  | laneTest (src : Source)
  /-- R72: the lane and the four step counts -/
  | eyeScanComplete (lane : Nat) (left right up down : Byte)
  /-- R371 -/
  | portBind (src : Source)
  /-- R372 -/
  | egressSet (src : Source)
  /-- R373 -/
  | planeJoin (src : Source)
  /-- R118 -/
  | planeLeave (src : Source)
  /-- R374 -/
  | planeMap (src : Source)
  /-- R376 -/
  | inputMap (src : Source)
  /-- R377 -/
  | feSet (src : Source)
  /-- R378 -/
  | coeffLoad (src : Source) (wr : Bool)
  /-- R379 -/
  | delaySet (src : Source)
  /-- R380 -/
  | gainSet (src : Source)
  /-- R381 -/
  | detectRead (src : Source) (wr : Bool)
  /-- R383 -/
  | xprodCreate (src : Source)
  /-- R384 -/
  | xprodStart (src : Source)
  /-- R385 -/
  | xprodStop (src : Source)
  /-- R386 -/
  | beamCreate (src : Source)
  /-- R387 -/
  | beamWeights (src : Source)
  /-- R388 -/
  | destroy (src : Source)
  /-- R390 -/
  | trigRuleCreate (src : Source)
  /-- R391 -/
  | captureCreate (src : Source)
  /-- R392 -/
  | captureArm (src : Source)
  /-- R393 -/
  | captureFreeze (src : Source)
  /-- R394 -/
  | captureRead (src : Source)
  /-- R394: what reading each burst of the window from the DIMMs found; wr: the host accepted the data -/
  | captureReadComplete (h : Handle) (bad : List Nat) (wr : Bool)
  /-- R396: what the read of the image returns -/
  | kernelLoad (src : Source) (image : ReadResult)
  /-- R397 -/
  | kernelRun (src : Source)
  /-- R399 -/
  | timeSet (src : Source)
  /-- R399 -/
  | timeSetTimeout
  /-- R400 -/
  | timeAdjust (src : Source)
  /-- R401 -/
  | timeStatus (src : Source) (wr : Bool)
  /-- R402 -/
  | schedule (src : Source)
  /-- R404 -/
  | healthRead (src : Source) (wr : Bool)
  /-- R405 -/
  | logRead (src : Source) (wr : Bool)
  /-- R302 -/
  | retire (src : Source)
  /-- R407 -/
  | scrubSet (src : Source)
  /-- R408 -/
  | monitorSet (src : Source)
  /-- R354 -/
  | abort (src : Source)
  /-- R411 -/
  | query (src : Source) (wr : Bool)
  /-- R412 -/
  | fence (src : Source)
  /-- R35 -/
  | ledgerRewrite
  /-- R462: whether the flash write succeeds -/
  | serviceRecordWrite (ok : Bool)
  -- DMA and the bus matrix; channel numbers are engine × 16 + channel
  /-- R484 -/
  | dmaHead (ch : Nat) (addr : BitVec 64)
  /-- R484: what a read of NEXT in host memory returns -/
  | kick (ch : Nat) (host : ReadResult)
  /-- R483 -/
  | arm (ch : Nat)
  /-- R489 -/
  | stop (ch : Nat)
  /-- R482: what the fetch of a descriptor in host memory returns -/
  | descriptorStart (ch : Nat) (host : ReadResult)
  /-- R487: what the reads of NEXT in host memory return, and whether the DONE write succeeds -/
  | descriptorComplete (ch : Nat) (host : ReadResult) (doneOk : Bool)
  /-- R471 -/
  | matrixBurst (b : Burst)
  /-- R474: the engine channel whose burst ran past its bound, by address and direction -/
  | matrixTimeout (m : Master) (ch : Nat) (addr : BitVec 64) (write : Bool)
  -- lanes
  /-- R56: whether the group before has locked; else its 25 µs have passed -/
  | pllGroupStart (locked : Bool)
  /-- R54 -/
  | pllLockTimeout (octet : Nat)
  /-- R67: the direction, and for RX STANDBY whether the held position still locks -/
  | lanePowerResume (lane : Nat) (tx held : Bool)
  /-- R63: the recovered bits, the earliest lowest -/
  | blockLock (lane stream : Nat)
  /-- R63: the invalid headers of a window of 64 blocks -/
  | lockLoss (lane : Nat) (invalid : Nat)
  /-- R62: whether the re-centring repeats a block; else it discards one -/
  | elasticSlip (lane : Nat) (again : Bool)
  /-- R75: the 64-bit payload, the parity of the payloads that arrived since the last marker, and the skew in blocks against
  the port's first lane -/
  | markerReceive (lane : Nat) (payload : BitVec 64) (parity : BitVec 8) (skew : Nat)
  /-- R76 -/
  | markerPeriodTimeout (lane : Nat)
  /-- R71 -/
  | injectStrike (lane : Nat)
  /-- R527: remote fault or local fault -/
  | egressFaultReceive (lane : Nat) (remote : Bool)
  /-- R89: the frame with its frame check sequence -/
  | egressFrameReceive (lane : Nat) (frame : List Byte)
  /-- R83: for each converter its lane words in order; for each multiblock whether every lane's CRC-12 was good; whether
  all had arrived -/
  | multiblockRelease (link : Nat) (words : List (List (BitVec 16))) (crcOk : List Bool) (whole : Bool)
  /-- R430 -/
  | sysrefEdge
  -- fabric
  /-- R106 -/
  | creditBlockReceive (port : Nat) (released compl : BitVec 16)
  /-- R106 -/
  | creditSend (port : Nat)
  /-- R120 -/
  | dataReceive (port : Nat) (a : Arrival)
  /-- R136 -/
  | partialReceive (port : Nat) (a : Arrival)
  /-- R100 -/
  | helloReceive (port : Nat) (a : Arrival)
  /-- R101 -/
  | healthReceive (port : Nat) (a : Arrival)
  /-- R425: with the arrival stamp in ticks -/
  | timeReceive (port : Nat) (a : Arrival) (arrival : Nat)
  /-- R124 -/
  | cmdReceive (port : Nat) (a : Arrival)
  /-- R244 -/
  | trigReceive (port : Nat) (a : Arrival)
  /-- R100 -/
  | helloSend (port : Nat)
  /-- R101 -/
  | healthSend (port : Nat)
  /-- R424: the departure stamp in ticks -/
  | timeSend (port : Nat) (depart : Nat)
  /-- R115 -/
  | helloTimeout (port : Nat)
  /-- R111 -/
  | creditStall (port : Nat)
  /-- R115 -/
  | quarantineEnd (port : Nat)
  /-- R110 -/
  | dataTransmit (port : Nat)
  /-- R135: the product whose next record of state leaves -/
  | partialSend (h : Handle)
  /-- R133 -/
  | mapTakeEffect (stream : Nat)
  -- F-engine
  /-- R148 -/
  | frameBoundary (input : Nat)
  /-- R171 -/
  | slotPack (stream : Nat) (slot : Nat)
  /-- R161: the values of D0 and DR the kernel supplied, in 2^-24 ns, if any -/
  | delaySegment (input : Nat) (values : Option (Int × Int))
  /-- R166 -/
  | detectorPublish (input : Nat)
  /-- R170 -/
  | parityError (input : Nat) (t : ParityTarget)
  /-- R170: whether the reload read clean words -/
  | coeffReload (t : ParityTarget)
  -- triggers
  /-- R238 -/
  | trigRuleFire (d : Detection)
  /-- R240: the pin and how long the edge stays high, ns -/
  | trigInEdge (pin : Nat) (highNs : Nat)
  /-- R239 -/
  | trigOutPulseEnd (pin : Nat)
  -- products
  /-- R187 -/
  | productStartBoundary (h : Handle)
  /-- R183 -/
  | slotStart (stream : Nat) (slot : Nat)
  /-- R192 -/
  | subintReady (h : Handle) (subint piece : Nat)
  /-- R188: with whether the residues of the tile disagree (R209) -/
  | passEnd (p : Pass) (residueBad : Bool)
  /-- R201: the oldest drain waiting at the adders is applied -/
  | drain
  /-- R208 -/
  | coOwnerAdd (a : CoAdd)
  /-- R268 -/
  | recordPost
  /-- R87 -/
  | datagramCloseTimeout (lane : Nat) (h : Handle)
  /-- R204 -/
  | stopBoundary (h : Handle)
  /-- R354 -/
  | productComplete (h : Handle)
  /-- R210 -/
  | spareMap (tile : Nat) (bist : Bool)
  /-- R220 -/
  | sweepEnd (sw : Sweep)
  /-- R223 -/
  | weightSwap (h : Handle)
  /-- R227 -/
  | powerSpanAdd (h : Handle)
  -- captures and the Reserve
  /-- R392 -/
  | captureWriteStart (h : Handle)
  /-- R247: the capture whose next block is whole -/
  | captureBlockWrite (h : Handle)
  /-- R312 -/
  | refreshDue (ch rank : Nat)
  /-- R314 -/
  | refreshWindowClear (ch : Nat)
  /-- R315: 1/16 °C -/
  | moduleTempRead (ch : Nat) (temp : Int)
  /-- R315 -/
  | reserveSensorTimeout (ch : Nat)
  /-- R317: the block and what each burst read found -/
  | patrol (ch : Nat) (block : Nat) (bursts : List (Nat × BurstRead))
  /-- R318 -/
  | powerDownIdle (ch rank : Nat)
  -- Vault
  /-- R296 -/
  | auditorVisit (die bank : Nat)
  /-- R303 -/
  | pageRelocate (page : Nat)
  -- Teller channels and health
  /-- R440 -/
  | tellerWatchdogExpiry (ch : Nat)
  /-- R440 -/
  | tellerChannelFail (ch : Nat) (cause : ChannelFault)
  /-- R444 -/
  | rejoinBistDone (ch : Nat) (pass : Bool)
  /-- R444 -/
  | rejoinTransferDone (ch : Nat)
  /-- R445 -/
  | failedBistRetry (ch : Nat) (pass : Bool)
  /-- R448 -/
  | statementRewrite
  /-- R447 -/
  | safeCopyRefresh
  /-- R451 -/
  | healthRecordPost (lane : Nat)
  /-- R453: the 72 readings in SENSORS order -/
  | monitorSample (readings : List Int)
  /-- R454 -/
  | throttleFall
  -- kernels
  /-- R285: true for the formatter -/
  | systemKernelReload (formatter : Bool) (served : Handle)
  /-- R284 -/
  | kernelStopTimeout (h : Handle)
  /-- R282 -/
  | maxCyclesExceeded (e : Engine)
  /-- R279 -/
  | waitResume (e : Engine)
  /-- R257, R276 -/
  | illegalInstruction (e : Engine)
  -- vector engine (R257); the context, then the word
  | vxNop (ctx : Nat) (slot : Slot) (w : VxWord)
  | vld (ctx : Nat) (w : VxWord)
  | vldp (ctx : Nat) (w : VxWord)
  | vst (ctx : Nat) (w : VxWord)
  | vstp (ctx : Nat) (w : VxWord)
  | vlds (ctx : Nat) (w : VxWord)
  | vgath (ctx : Nat) (w : VxWord)
  | vscat (ctx : Nat) (w : VxWord)
  | xld (ctx : Nat) (w : VxWord)
  | xst (ctx : Nat) (w : VxWord)
  | vfadd (ctx : Nat) (w : VxWord)
  | vfsub (ctx : Nat) (w : VxWord)
  | vfmul (ctx : Nat) (w : VxWord)
  | vfma (ctx : Nat) (w : VxWord)
  | vfmin (ctx : Nat) (w : VxWord)
  | vfmax (ctx : Nat) (w : VxWord)
  | vfcmp (ctx : Nat) (w : VxWord)
  | vcvtIf (ctx : Nat) (w : VxWord)
  | vcvtFi (ctx : Nat) (w : VxWord)
  | vcvtHf (ctx : Nat) (w : VxWord)
  | vcvtFh (ctx : Nat) (w : VxWord)
  | vfabs (ctx : Nat) (w : VxWord)
  | vadd (ctx : Nat) (w : VxWord)
  | vsub (ctx : Nat) (w : VxWord)
  | vmul (ctx : Nat) (w : VxWord)
  | vmulh (ctx : Nat) (w : VxWord)
  | vadd64 (ctx : Nat) (w : VxWord)
  | vsub64 (ctx : Nat) (w : VxWord)
  | vand (ctx : Nat) (w : VxWord)
  | vor (ctx : Nat) (w : VxWord)
  | vxor (ctx : Nat) (w : VxWord)
  | vsh (ctx : Nat) (w : VxWord)
  | vsel (ctx : Nat) (w : VxWord)
  | vperm (ctx : Nat) (w : VxWord)
  | vbcast (ctx : Nat) (w : VxWord)
  | vmovi (ctx : Nat) (w : VxWord)
  | vcmp (ctx : Nat) (w : VxWord)
  | vpack (ctx : Nat) (w : VxWord)
  | vcrc (ctx : Nat) (w : VxWord)
  | mop (ctx : Nat) (w : VxWord)
  | xclr (ctx : Nat) (w : VxWord)
  | xaddf (ctx : Nat) (w : VxWord)
  | xsubf (ctx : Nat) (w : VxWord)
  | xaddi (ctx : Nat) (w : VxWord)
  | xaddu (ctx : Nat) (w : VxWord)
  | xaddx (ctx : Nat) (w : VxWord)
  | xrnd (ctx : Nat) (w : VxWord)
  | xrndl (ctx : Nat) (w : VxWord)
  | xflag (ctx : Nat) (w : VxWord)
  | vxBr (ctx : Nat) (w : VxWord)
  | brany (ctx : Nat) (w : VxWord)
  | brall (ctx : Nat) (w : VxWord)
  | pcyc (ctx : Nat) (w : VxWord)
  | setc (ctx : Nat) (w : VxWord)
  | getc (ctx : Nat) (w : VxWord)
  | vxWait (ctx : Nat) (w : VxWord)
  | vxHalt (ctx : Nat) (w : VxWord)
  -- clerks (R276); the clerk, then the word
  | clerkNop (n : Nat) (w : ClerkWord)
  | mac (n : Nat) (w : ClerkWord)
  | mpy (n : Nat) (w : ClerkWord)
  | cmac (n : Nat) (w : ClerkWord)
  | rnd (n : Nat) (w : ClerkWord)
  | mva (n : Nat) (w : ClerkWord)
  | adda (n : Nat) (w : ClerkWord)
  | suba (n : Nat) (w : ClerkWord)
  | asha (n : Nat) (w : ClerkWord)
  | clr (n : Nat) (w : ClerkWord)
  | clerkAdd (n : Nat) (w : ClerkWord)
  | clerkSub (n : Nat) (w : ClerkWord)
  | logic (n : Nat) (w : ClerkWord)
  | sh (n : Nat) (w : ClerkWord)
  | ldi (n : Nat) (w : ClerkWord)
  | ldh (n : Nat) (w : ClerkWord)
  | mvp (n : Nat) (w : ClerkWord)
  | cmp (n : Nat) (w : ClerkWord)
  | norm (n : Nat) (w : ClerkWord)
  | neg (n : Nat) (w : ClerkWord)
  | rep (n : Nat) (w : ClerkWord)
  | clerkBr (n : Nat) (w : ClerkWord)
  | clerkWait (n : Nat) (w : ClerkWord)
  | clerkHalt (n : Nat) (w : ClerkWord)
  -- time and schedule
  /-- R415: what the three counters hold, in 2^-64 ns, when one of them differs -/
  | tkResync (held : List Nat)
  /-- R418: the stamp in ticks and how long it stays high, ns -/
  | ppsInEdge (stamp : Nat) (highNs : Nat)
  /-- R418 -/
  | ppsValidExpiry
  /-- R421 -/
  | disciplineSecond
  /-- R416 -/
  | tkrefLoss
  /-- R417 -/
  | ppsOutSecond
  /-- R417 -/
  | ppsOutEnd
  /-- R433 -/
  | scheduleFire (slot : Nat)
  /-- R434 -/
  | scheduledCommand (slot : Nat)
  /-- R431 -/
  | syncOutPulseEnd (pin : Nat)
  -- the rest of the table
  /-- R495: the island's INDEX and, for a crossing, the other's -/
  | cdcStall (island : Nat) (other : Option Nat)
  /-- R70: the received bits, the earliest lowest: those that seed the checker and the 128 after them -/
  | prbsCheckerLock (lane stream : Nat)
  /-- R70: the bits and errors counted since the last lock event -/
  | prbsCheckerLoss (lane : Nat) (bits errors : Nat)
  /-- R527 -/
  | egressFaultClear (lane : Nat)
  /-- R422 -/
  | slewEnd
  /-- R501 -/
  | msixUnmask (vector : Nat)
  /-- R498 -/
  | d3hotExit
  /-- R497 -/
  | perstDeassert
  /-- R497: negotiated width and speed code -/
  | pcieLinkUp (width speed : Nat)
  /-- R332: vector 0 or 2 -/
  | msixHoldoffEnd (vector : Nat)
  /-- R459: which of A, B, C pass -/
  | bootBistDone (a b c : Bool)
  /-- R520 -/
  | supplyLoss
  /-- R510: TMS and TDI at a TCK rising edge, or a TRST_N pulse -/
  | tapClock (trst tms tdi : Bool)
  /-- R231 -/
  | spanReady (h : Handle) (span : Nat)
  /-- R310 -/
  | tillBlockWritten (ch : Nat)
  /-- R474 -/
  | pcieCompletionTimeout (rd : DeviceRead)
  /-- R316: how many of the replays failed too -/
  | caParityAlert (ch : Nat) (failedReplays : Nat)
  deriving DecidableEq, Repr

end Sys2Proof
end

