-- ==== Sys2Proof/WellFormed.lean ====
section
/-! DEFINITION. Which operands a command can carry: unit numbers in the ranges of Table — Numbering of units
(00_scope.md), pins, slots and counts as the hardware has them. A command outside these ranges cannot arise. -/
namespace Sys2Proof

/-- A fabric source is one of 64 ports. -/
def sourceWf : Source → Bool
  | .ring => true
  | .spi => true
  | .fabric p => p < 64

/-- Two vector contexts (R254), sixteen clerks. -/
def engineWf : Engine → Bool
  | .vx c => c < 2
  | .clerk n => n < 16

/-- 64 DMA channels. -/
def readWf : DeviceRead → Bool
  | .ringEntry => true
  | .indirect => true
  | .dma c => c < 64

/-- Four DMA engines. -/
def masterWf : Master → Bool
  | .teller => true
  | .hostPort => true
  | .dma e => e < 4

/-- A burst names a channel and carries a strobe for each byte. -/
def burstWf : Burst → Bool
  | .read m _ _ _ | .waitRead m _ _ _ => masterWf m
  | .write m _ d st _ | .waitWrite m _ d st _ => masterWf m && d.length == st.length
  | .dmaPiece c _ _ => c < 64
  | .dmaNext c _ => c < 64
  | .overrun a b n => a < 18 && b < 18 && 0 < n

/-- 16 FIR and 16 PFB sets. -/
def parityWf : ParityTarget → Bool
  | .data => true
  | .fir n => n < 16
  | .pfb n => n < 16

/-- A port has at most 8 lanes (R57). -/
def arrivalWf : Arrival → Bool
  | .packet _ => true
  | .stretch l => l.length ≤ 8

/-- 16 ranks, 8 columns of the array (R189). -/
def passWf (p : Pass) : Bool := p.rank < 16 && p.col < 8

/-- The operands of a command are in range. -/
def Instr.wf : Instr → Bool
  | .supplyVddAoUp => true
  | .resetNRelease _ _ _ => true
  | .tkrefSelect _ => true
  | .bootImageLoad _ _ => true
  | .bootFallbackTimeout => true
  | .reserveTrainingDone results => results.length == 8
  | .firstLedgerRewrite _ => true
  | .pinReset => true
  | .tellerRestart _ => true
  | .deviceReset _ => true
  | .perstAssert => true
  | .functionLevelReset => true
  | .d3hotEntry => true
  | .pcieLinkDown => true
  | .busMasterClear => true
  | .pcieCompletion rd _ => readWf rd
  | .baseWrite _ => true
  | .ringEnable _ => true
  | .ringDisable _ => true
  | .ringHold _ => true
  | .cmdDoorbell _ => true
  | .rplDoorbell _ => true
  | .commandFetch _ _ => true
  | .registerWrite _ => true
  | .bar2Read _ _ => true
  | .bar2Write _ _ => true
  | .spiWrite _ => true
  | .spiReadReply _ => true
  | .spiReadStatus => true
  | .spiReadData _ _ => true
  | .spiUnknownFrame _ => true
  | .forward src => sourceWf src
  | .forwardTimeout _ => true
  | .badOpcode src => sourceWf src
  | .nop src => sourceWf src
  | .identify src => sourceWf src
  | .ledgerRead src _ => sourceWf src
  | .keyLoad src => sourceWf src
  | .lock src => sourceWf src
  | .resetUnit src => sourceWf src
  | .resetUnitComplete _ _ => true
  | .laneSet src => sourceWf src
  | .laneStatus src _ => sourceWf src
  | .laneTest src => sourceWf src
  | .eyeScanComplete lane l r u d => lane < 512 && l.toNat ≤ 32 && r.toNat ≤ 32 && u.toNat ≤ 31 && d.toNat ≤ 31
  | .portBind src => sourceWf src
  | .egressSet src => sourceWf src
  | .planeJoin src => sourceWf src
  | .planeLeave src => sourceWf src
  | .planeMap src => sourceWf src
  | .inputMap src => sourceWf src
  | .feSet src => sourceWf src
  | .coeffLoad src _ => sourceWf src
  | .delaySet src => sourceWf src
  | .gainSet src => sourceWf src
  | .detectRead src _ => sourceWf src
  | .xprodCreate src => sourceWf src
  | .xprodStart src => sourceWf src
  | .xprodStop src => sourceWf src
  | .beamCreate src => sourceWf src
  | .beamWeights src => sourceWf src
  | .destroy src => sourceWf src
  | .trigRuleCreate src => sourceWf src
  | .captureCreate src => sourceWf src
  | .captureArm src => sourceWf src
  | .captureFreeze src => sourceWf src
  | .captureRead src => sourceWf src
  | .captureReadComplete _ _ _ => true
  | .kernelLoad src _ => sourceWf src
  | .kernelRun src => sourceWf src
  | .timeSet src => sourceWf src
  | .timeSetTimeout => true
  | .timeAdjust src => sourceWf src
  | .timeStatus src _ => sourceWf src
  | .schedule src => sourceWf src
  | .healthRead src _ => sourceWf src
  | .logRead src _ => sourceWf src
  | .retire src => sourceWf src
  | .scrubSet src => sourceWf src
  | .monitorSet src => sourceWf src
  | .abort src => sourceWf src
  | .query src _ => sourceWf src
  | .fence src => sourceWf src
  | .ledgerRewrite => true
  | .serviceRecordWrite _ => true
  | .dmaHead ch _ => ch < 64
  | .kick ch _ => ch < 64
  | .arm ch => ch < 64
  | .stop ch => ch < 64
  | .descriptorStart ch _ => ch < 64
  | .descriptorComplete ch _ _ => ch < 64
  | .matrixBurst b => burstWf b
  | .matrixTimeout _ ch _ _ => ch < 16
  | .pllGroupStart _ => true
  | .pllLockTimeout octet => octet < 64
  | .lanePowerResume lane _ _ => lane < 512
  | .blockLock lane _ => lane < 512
  | .lockLoss lane n => lane < 512 && n ≤ 64
  | .elasticSlip lane _ => lane < 512
  | .markerReceive lane _ _ _ => lane < 512
  | .markerPeriodTimeout lane => lane < 512
  | .injectStrike lane => lane < 512
  | .egressFaultReceive lane _ => lane < 512
  | .egressFrameReceive lane _ => lane < 512
  | .multiblockRelease link _ _ _ => link < 512
  | .sysrefEdge => true
  | .creditBlockReceive port _ _ => port < 64
  | .creditSend port => port < 64
  | .dataReceive port a => port < 64 && arrivalWf a
  | .partialReceive port a => port < 64 && arrivalWf a
  | .helloReceive port a => port < 64 && arrivalWf a
  | .healthReceive port a => port < 64 && arrivalWf a
  | .timeReceive port a _ => port < 64 && arrivalWf a
  | .cmdReceive port a => port < 64 && arrivalWf a
  | .trigReceive port a => port < 64 && arrivalWf a
  | .helloSend port => port < 64
  | .healthSend port => port < 64
  | .timeSend port _ => port < 64
  | .helloTimeout port => port < 64
  | .creditStall port => port < 64
  | .quarantineEnd port => port < 64
  | .dataTransmit port => port < 64
  | .partialSend _ => true
  | .mapTakeEffect stream => stream < 16
  | .frameBoundary input => input < 512
  | .slotPack stream slot => stream < 16 && slot < 2 ^ 48
  | .delaySegment input _ => input < 512
  | .detectorPublish input => input < 512
  | .parityError input t => input < 512 && parityWf t
  | .coeffReload t => parityWf t
  | .trigRuleFire _ => true
  | .trigInEdge pin _ => pin < 4
  | .trigOutPulseEnd pin => pin < 4
  | .productStartBoundary _ => true
  | .slotStart stream slot => stream < 16 && slot < 2 ^ 48
  | .subintReady _ _ _ => true
  | .passEnd p _ => passWf p
  | .drain => true
  | .coOwnerAdd _ => true
  | .recordPost => true
  | .datagramCloseTimeout lane _ => lane < 512
  | .stopBoundary _ => true
  | .productComplete _ => true
  | .spareMap tile _ => tile < 132
  | .sweepEnd _ => true
  | .weightSwap _ => true
  | .powerSpanAdd _ => true
  | .captureWriteStart _ => true
  | .captureBlockWrite _ => true
  | .refreshDue ch rank => ch < 8 && rank < 2
  | .refreshWindowClear ch => ch < 8
  | .moduleTempRead ch _ => ch < 8
  | .reserveSensorTimeout ch => ch < 8
  | .patrol ch _ _ => ch < 8
  | .powerDownIdle ch rank => ch < 8 && rank < 2
  | .auditorVisit die bank => die < 2 && bank < 64
  | .pageRelocate page => page < 65536
  | .tellerWatchdogExpiry ch => ch < 3
  | .tellerChannelFail ch _ => ch < 3
  | .rejoinBistDone ch _ => ch < 3
  | .rejoinTransferDone ch => ch < 3
  | .failedBistRetry ch _ => ch < 3
  | .statementRewrite => true
  | .safeCopyRefresh => true
  | .healthRecordPost lane => lane < 512
  | .monitorSample readings => readings.length == 72
  | .throttleFall => true
  | .systemKernelReload _ _ => true
  | .kernelStopTimeout _ => true
  | .maxCyclesExceeded e => engineWf e
  | .waitResume e => engineWf e
  | .illegalInstruction e => engineWf e
  | .vxNop ctx _ _ => ctx < 2
  | .vld ctx _ => ctx < 2
  | .vldp ctx _ => ctx < 2
  | .vst ctx _ => ctx < 2
  | .vstp ctx _ => ctx < 2
  | .vlds ctx _ => ctx < 2
  | .vgath ctx _ => ctx < 2
  | .vscat ctx _ => ctx < 2
  | .xld ctx _ => ctx < 2
  | .xst ctx _ => ctx < 2
  | .vfadd ctx _ => ctx < 2
  | .vfsub ctx _ => ctx < 2
  | .vfmul ctx _ => ctx < 2
  | .vfma ctx _ => ctx < 2
  | .vfmin ctx _ => ctx < 2
  | .vfmax ctx _ => ctx < 2
  | .vfcmp ctx _ => ctx < 2
  | .vcvtIf ctx _ => ctx < 2
  | .vcvtFi ctx _ => ctx < 2
  | .vcvtHf ctx _ => ctx < 2
  | .vcvtFh ctx _ => ctx < 2
  | .vfabs ctx _ => ctx < 2
  | .vadd ctx _ => ctx < 2
  | .vsub ctx _ => ctx < 2
  | .vmul ctx _ => ctx < 2
  | .vmulh ctx _ => ctx < 2
  | .vadd64 ctx _ => ctx < 2
  | .vsub64 ctx _ => ctx < 2
  | .vand ctx _ => ctx < 2
  | .vor ctx _ => ctx < 2
  | .vxor ctx _ => ctx < 2
  | .vsh ctx _ => ctx < 2
  | .vsel ctx _ => ctx < 2
  | .vperm ctx _ => ctx < 2
  | .vbcast ctx _ => ctx < 2
  | .vmovi ctx _ => ctx < 2
  | .vcmp ctx _ => ctx < 2
  | .vpack ctx _ => ctx < 2
  | .vcrc ctx _ => ctx < 2
  | .mop ctx _ => ctx < 2
  | .xclr ctx _ => ctx < 2
  | .xaddf ctx _ => ctx < 2
  | .xsubf ctx _ => ctx < 2
  | .xaddi ctx _ => ctx < 2
  | .xaddu ctx _ => ctx < 2
  | .xaddx ctx _ => ctx < 2
  | .xrnd ctx _ => ctx < 2
  | .xrndl ctx _ => ctx < 2
  | .xflag ctx _ => ctx < 2
  | .vxBr ctx _ => ctx < 2
  | .brany ctx _ => ctx < 2
  | .brall ctx _ => ctx < 2
  | .pcyc ctx _ => ctx < 2
  | .setc ctx _ => ctx < 2
  | .getc ctx _ => ctx < 2
  | .vxWait ctx _ => ctx < 2
  | .vxHalt ctx _ => ctx < 2
  | .clerkNop n _ => n < 16
  | .mac n _ => n < 16
  | .mpy n _ => n < 16
  | .cmac n _ => n < 16
  | .rnd n _ => n < 16
  | .mva n _ => n < 16
  | .adda n _ => n < 16
  | .suba n _ => n < 16
  | .asha n _ => n < 16
  | .clr n _ => n < 16
  | .clerkAdd n _ => n < 16
  | .clerkSub n _ => n < 16
  | .logic n _ => n < 16
  | .sh n _ => n < 16
  | .ldi n _ => n < 16
  | .ldh n _ => n < 16
  | .mvp n _ => n < 16
  | .cmp n _ => n < 16
  | .norm n _ => n < 16
  | .neg n _ => n < 16
  | .rep n _ => n < 16
  | .clerkBr n _ => n < 16
  | .clerkWait n _ => n < 16
  | .clerkHalt n _ => n < 16
  | .tkResync held => held.length == 3
  | .ppsInEdge _ _ => true
  | .ppsValidExpiry => true
  | .disciplineSecond => true
  | .tkrefLoss => true
  | .ppsOutSecond => true
  | .ppsOutEnd => true
  | .scheduleFire slot => slot < 64
  | .scheduledCommand slot => slot < 64
  | .syncOutPulseEnd pin => pin < 8
  | .cdcStall island _ => island < 18
  | .prbsCheckerLock lane _ => lane < 512
  | .prbsCheckerLoss lane _ _ => lane < 512
  | .egressFaultClear lane => lane < 512
  | .slewEnd => true
  | .msixUnmask vector => vector < 64
  | .d3hotExit => true
  | .perstDeassert => true
  | .pcieLinkUp _ _ => true
  | .msixHoldoffEnd vector => vector < 64
  | .bootBistDone _ _ _ => true
  | .supplyLoss => true
  | .tapClock _ _ _ => true
  | .spanReady _ _ => true
  | .tillBlockWritten ch => ch < 8
  | .pcieCompletionTimeout rd => readWf rd
  | .caParityAlert ch _ => ch < 8

end Sys2Proof
end

