-- ==== Sys2Proof/Machine/Bytes.lean ====
section
/-! DEFINITION. Bytes, fields and fixed-point rounding: little-endian fields of packets and records (R5), saturating
counters, and the rounding and saturation of R140. -/
namespace Sys2Proof.Machine

/-- The byte at offset `o`; zero beyond the end. -/
def u8 (l : List Byte) (o : Nat) : Nat := (l.getD o 0).toNat

/-- The little-endian number in the first `n` bytes of `l`. -/
def leNat : Nat → List Byte → Nat
  | 0, _ => 0
  | _, [] => 0
  | n + 1, b :: t => b.toNat + 256 * leNat n t

/-- The little-endian field of `n` bytes at offset `o` (R5). -/
def field (l : List Byte) (o n : Nat) : Nat := leNat n (l.drop o)

def u16 (l : List Byte) (o : Nat) : Nat := field l o 2
def u32 (l : List Byte) (o : Nat) : Nat := field l o 4
def u48 (l : List Byte) (o : Nat) : Nat := field l o 6
def u64 (l : List Byte) (o : Nat) : Nat := field l o 8

/-- `n` bytes of `v`, lowest first (R5). -/
def le : Nat → Nat → List Byte
  | 0, _ => []
  | n + 1, v => BitVec.ofNat 8 v :: le n (v / 256)

/-- `n` bytes of `v`, highest first, for the network-order headers of R86. -/
def be (n v : Nat) : List Byte := (le n v).reverse

/-- `n` bytes of a signed value in two's complement. -/
def leInt (n : Nat) (v : Int) : List Byte := le n (v % ((256 : Int) ^ n)).toNat

/-- The bytes from offset `o`, `n` of them, padded with zeros beyond the end. -/
def slice (l : List Byte) (o n : Nat) : List Byte :=
  let t := (l.drop o).take n
  t ++ List.replicate (n - t.length) 0

/-- `l` with the bytes of `v` written from offset `o`. -/
def patch (l : List Byte) (o : Nat) (v : List Byte) : List Byte :=
  l.take o ++ v ++ l.drop (o + v.length)

/-- All bytes of a stretch are zero. -/
def zeroAt (l : List Byte) (o n : Nat) : Bool := ((l.drop o).take n).all (· == 0)

/-- Bits `hi..lo` of a number. -/
def bits (v hi lo : Nat) : Nat := (v >>> lo) % 2 ^ (hi + 1 - lo)

/-- Bit `i` of a number. -/
def bit (v i : Nat) : Bool := (v >>> i) % 2 == 1

/-- Zero bytes that bring a length to a multiple of 4. -/
def pad4 (l : List Byte) : List Byte := l ++ List.replicate ((4 - l.length % 4) % 4) 0

/-- A saturating counter of `w` bits advanced by `k` (R73, R123, R217, R319). -/
def satAdd (w n k : Nat) : Nat := min (2 ^ w - 1) (n + k)

/-- Two's complement reading of the low `w` bits. -/
def sext (w : Nat) (v : Nat) : Int :=
  let m := v % 2 ^ w
  if 2 * m < 2 ^ w then (m : Int) else (m : Int) - 2 ^ w

/-- Two's complement pattern of `v` in `w` bits. -/
def wrapBits (w : Nat) (v : Int) : Nat := (v % ((2 : Int) ^ w)).toNat

/-- Division rounded up. -/
def ceilDiv (a b : Nat) : Nat := if b = 0 then 0 else (a + b - 1) / b

/-- R140: x / 2^k rounded to nearest, ties to even. -/
def rhe (x : Int) (k : Nat) : Int :=
  if k = 0 then x else
    let p : Int := 2 ^ k
    let q := x / p
    let r := x - q * p
    if 2 * r > p || (2 * r == p && q % 2 == 1) then q + 1 else q

/-- R140: clamp to `b` bits. -/
def clampBits (b : Nat) (x : Int) : Int := max (-(2 ^ (b - 1))) (min (2 ^ (b - 1) - 1) x)

/-- Symmetric clamp to ±m (R163, R226). -/
def clampSym (m : Int) (x : Int) : Int := max (-m) (min m x)

/-- The integer square root, rounded up (R428). -/
def ceilSqrt (n : Nat) : Nat :=
  let rec go : Nat → Nat → Nat → Nat
    | 0, lo, _ => lo
    | f + 1, lo, hi => if lo < hi then
        let m := (lo + hi) / 2
        if n ≤ m * m then go f lo m else go f (m + 1) hi
      else lo
  go 128 0 (2 ^ ((n.log2 + 2) / 2 + 1))

/-- The values of `f` that are present. -/
def collect {α β : Type} (f : α → Option β) (l : List α) : List β := l.filterMap f

/-- The largest element, or the default. -/
def maxOf (l : List Nat) : Nat := l.foldl max 0

end Sys2Proof.Machine
end

