-- ==== Sys2Proof/Machine/Crc.lean ====
section
/-! DEFINITION. The check sums of the manual: CRC-32 (R31), CRC-32C (R96), the IPv4 and UDP checksums (R86), and the
AES-128-CMAC tag (R125, NIST SP 800-38B). Reflected polynomials, so bit 0 of a byte enters first. -/
namespace Sys2Proof.Machine

/-- One bit of a reflected CRC register. -/
def crcBit (poly c : Nat) : Nat := if c % 2 = 1 then (c / 2) ^^^ poly else c / 2

/-- One byte into a reflected CRC register. -/
def crcByte (poly c : Nat) (b : Byte) : Nat :=
  let c := c ^^^ b.toNat
  crcBit poly (crcBit poly (crcBit poly (crcBit poly (crcBit poly (crcBit poly (crcBit poly (crcBit poly c)))))))

/-- The register after the bytes of `l`. -/
def crcRun (poly c : Nat) (l : List Byte) : Nat := l.foldl (crcByte poly) c

/-- R31: polynomial 0x04C1_1DB7, reflected. -/
def crc32 (l : List Byte) : Nat := (crcRun 0xEDB88320 0xFFFFFFFF l) ^^^ 0xFFFFFFFF

/-- The reflected form of the polynomial 0x1EDC_6F41 (R96). -/
def polyC : Nat := 0x82F63B78

/-- R96: CRC-32C. -/
def crc32c (l : List Byte) : Nat := (crcRun polyC 0xFFFFFFFF l) ^^^ 0xFFFFFFFF

/-- Sum of big-endian 16-bit words, an odd last byte taken as the high half. -/
def sum16 : List Byte → Nat
  | [] => 0
  | [a] => a.toNat * 256
  | a :: b :: t => a.toNat * 256 + b.toNat + sum16 t

/-- Ones' complement checksum of 16-bit words (R86: IPv4 header and UDP). -/
def inetSum (l : List Byte) : Nat :=
  let s := sum16 l
  let s := s % 65536 + s / 65536
  let s := s % 65536 + s / 65536
  65535 - s

/-! ### AES-128-CMAC (R125) -/

/-- The substitution bytes of AES, byte i at bits 8i+7..8i. -/
def aesSboxBits : Nat := 0x16bb54b00f2d99416842e6bf0d89a18cdf2855cee9871e9b948ed9691198f8e19e1dc186b95735610ef6034866b53e708a8bbd4b1f74dde8c6b4a61c2e2578ba08ae7a65eaf4566ca94ed58d6d37c8e779e4959162acd3c25c2406490a3a32e0db0b5ede14b8ee4688902a22dc4f816073195d643d7ea7c41744975fec130ccdd2f3ff1021dab6bcf5389d928f40a351a89f3c507f02f94585334d43fbaaefd0cf584c4a39becb6a5bb1fc20ed00d153842fe329b3d63b52a05a6e1b1a2c830975b227ebe28012079a059618c323c7041531d871f1e5a534ccf73f362693fdb7c072a49cafa2d4adf04759fa7dc982ca76abd7fe2b670130c56f6bf27b777c63

def aesSub (b : Nat) : Nat := (aesSboxBits >>> (8 * b)) % 256

/-- Multiplication by x in the field of AES. -/
def xtime (b : Nat) : Nat := if b < 128 then 2 * b else (2 * b) ^^^ 0x11B

/-- The next round key from the last, both 16 bytes. -/
def aesNextKey (rcon : Nat) (k : List Nat) : List Nat :=
  let g (i : Nat) : Nat := k.getD i 0
  let t : List Nat := [aesSub (g 13) ^^^ rcon, aesSub (g 14), aesSub (g 15), aesSub (g 12)]
  let w0 := (List.range 4).map fun i => g i ^^^ t.getD i 0
  let w1 := (List.range 4).map fun i => g (4 + i) ^^^ w0.getD i 0
  let w2 := (List.range 4).map fun i => g (8 + i) ^^^ w1.getD i 0
  let w3 := (List.range 4).map fun i => g (12 + i) ^^^ w2.getD i 0
  w0 ++ w1 ++ w2 ++ w3

/-- Row shift: byte r + 4c comes from column c + r. -/
def aesShift (s : List Nat) : List Nat :=
  (List.range 16).map fun i => s.getD ((i + 4 * (i % 4)) % 16) 0

/-- One column through the mixing matrix. -/
def aesMixCol (a b c d : Nat) : List Nat :=
  [xtime a ^^^ xtime b ^^^ b ^^^ c ^^^ d, a ^^^ xtime b ^^^ xtime c ^^^ c ^^^ d,
   a ^^^ b ^^^ xtime c ^^^ xtime d ^^^ d, xtime a ^^^ a ^^^ b ^^^ c ^^^ xtime d]

def aesMix : List Nat → List Nat
  | a :: b :: c :: d :: t => aesMixCol a b c d ++ aesMix t
  | l => l

def xorBytes (a b : List Nat) : List Nat := List.zipWith (· ^^^ ·) a b

/-- The nine middle rounds and the last, over the remaining round constants. -/
def aesRounds : List Nat → List Nat → List Nat → List Nat
  | [], _, s => s
  | [rcon], k, s => xorBytes (aesShift (s.map aesSub)) (aesNextKey rcon k)
  | rcon :: t, k, s =>
    let k' := aesNextKey rcon k
    aesRounds t k' (xorBytes (aesMix (aesShift (s.map aesSub))) k')

/-- AES-128 of one block. -/
def aes128 (key block : List Nat) : List Nat :=
  aesRounds [1, 2, 4, 8, 16, 32, 64, 128, 0x1B, 0x36] key (xorBytes block key)

/-- Doubling in GF(2^128), most significant byte first. -/
def cmacDouble (l : List Nat) : List Nat :=
  let n := l.foldl (fun a b => a * 256 + b) 0
  let d := (2 * n) % 2 ^ 128
  let d := if n ≥ 2 ^ 127 then d ^^^ 0x87 else d
  ((le 16 d).reverse).map (·.toNat)

/-- CBC over the blocks of a message, with `fuel` at least the number of blocks. -/
def cmacRun (key : List Nat) : Nat → List Nat → List Nat → List Nat
  | 0, c, _ => c
  | f + 1, c, m => if m.isEmpty then c else cmacRun key f (aes128 key (xorBytes c (m.take 16))) (m.drop 16)

/-- AES-128-CMAC of a message. -/
def cmac (key msg : List Byte) : List Byte :=
  let k := (slice key 0 16).map (·.toNat)
  let m := msg.map (·.toNat)
  let k1 := cmacDouble (aes128 k (List.replicate 16 0))
  let full := !m.isEmpty && m.length % 16 == 0
  let nfull := if full then m.length - 16 else m.length - m.length % 16
  let lastPart := m.drop nfull
  let lastBlock := if full then xorBytes lastPart k1
    else xorBytes (lastPart ++ [0x80] ++ List.replicate (15 - lastPart.length) 0) (cmacDouble k1)
  let c := cmacRun k (msg.length + 1) (List.replicate 16 0) (m.take nfull)
  (aes128 k (xorBytes c lastBlock)).map (BitVec.ofNat 8 ·)

/-- The 8-byte tag of R125. -/
def tagOf (key msg : List Byte) : List Byte := (cmac key msg).take 8

end Sys2Proof.Machine
end

