-- ==== Sys2Proof/Config.lean ====
section
/-! DEFINITION. What the manual leaves open: constants without a body, so that no proof can see a value of them.
`freeNat` is applied to the plain counter `State.freeCtr`, which every use advances; the others are applied to the
operands they depend on. Tables of the device that the manual describes but does not print are constants too.
notes/assumptions 19, 21, 22, 23, 29 and 143 name them. -/
namespace Sys2Proof.Config

/-- A free value, number `n` of the run (DESIGN CHOICE, notes/assumptions/19.md). -/
opaque freeNat : Nat → Nat

/-- Whether an inexact division whose rounding the manual does not state rounds up: numerator, denominator
(notes/assumptions/21.md). -/
opaque roundsUp : Int → Int → Bool

/-- Whether an entry of a sine or cosine table (R152, R159, R160) is the upper of the two integers beside the exact value: sine,
bits of phase, phase (notes/assumptions/22.md). -/
opaque tableUp : Bool → Nat → Nat → Bool

/-- Whether the Teller's binary64 sine or cosine (R157) of an argument is the larger in magnitude of the two neighbours of the exact
value: sine, argument (notes/assumptions/22.md). -/
opaque libmUp : Bool → Nat → Bool

/-- Coefficients of the preset FIR sets (R154): preset, D, tap (notes/assumptions/22.md). -/
opaque firPreset : Nat → Nat → Nat → Int

/-- Whether the transform of R159 decimates in time or in frequency: the manual gives its stages and not their order
(notes/assumptions/23.md). -/
opaque fftInTime : Bool

/-- Whether a factor e^0 of R159 is multiplied as a product or passed on (notes/assumptions/23.md). -/
opaque fftUnitProduct : Bool

/-- The island in which a sensor sits, which SENSORS reports (R44) and the manual does not list: sensor in SENSORS
order (notes/assumptions/22.md). -/
opaque sensorIsland : Nat → Nat

/-- Whether a positive operand of asha shifts left (R276): the manual gives the operand's range and not its direction
(notes/assumptions/29.md). -/
opaque ashaLeft : Bool

/-- d of R197 for a magnitude beyond the binary32 range, where hi − lo is infinite (R266): the accumulator's value
(notes/assumptions/143.md). -/
opaque beyondGap : Int → BitVec 24

end Sys2Proof.Config
end

