-- ==== Sys2Proof/Machine/State.lean ====
section
/-! DEFINITION. The state of the block as plain data, and the state after reset. Each structure names the rules of
spec/ that give its fields; INVENTORY.md lists every field with its reset value. Counts and times are `Nat`
(saturation and wrap-around are applied by the operation that writes them), bit fields are bit vectors. A time is
in ticks of 2^-16 ns (R5, 00_scope.md Full time) unless its name says otherwise. -/
namespace Sys2Proof.Machine

/-- Sparse memory: (address, value), addresses strictly rising, no entry equal to what an unlisted address reads
as. The operations that keep this form stand in Machine/Ops.lean. -/
abbrev Mem (α : Type) := List (Nat × α)

/-- Reasons a step could stop the machine. The spec gives the block no such stop: every error is a status, a flag
or a run ending. The one reason is never raised by a meaning; it stands for a machine check that stepping never
reaches. Safe. -/
inductive Fault where
  /-- Raised by nobody. Safe. -/
  | machineCheck
  deriving DecidableEq, Repr

/-- Reasons a command has no meaning. -/
inductive Refusal where
  /-- Raised by `exec` for a row whose meaning is not written. Safe. -/
  | notModelled (mnemonic : String)
  deriving DecidableEq, Repr

/-! ### Identity, power and boot -/

/-- Table — Variants (00_scope.md). -/
inductive Variant where
  | a | x | l
  deriving DecidableEq, Repr

/-- What the fuses give (R30, R42). -/
structure Fuse where
  variant : Variant := .a
  dieId : BitVec 64 := 0
  deriving DecidableEq, Repr

/-- Where the device stands between power and service (R459, R507, R508, R520). -/
inductive BootPhase where
  | off | quiet | booting | hold | flash | up
  deriving DecidableEq, Repr

structure Boot where
  phase : BootPhase := .off
  bootMode : BitVec 2 := 0
  hpDisable : Bool := false
  testMode : Bool := false
  /-- image loaded: 0 A, 1 B (R500 BOOT_IMAGE) -/
  image : Option (BitVec 2) := none
  /-- the image a fallback must load next (R507) -/
  forced : Option (BitVec 2) := none
  fallback : Bool := false
  noImage : Bool := false
  bistDone : Bool := false
  tkrefDone : Bool := false
  /-- SPD reads and training have ended (R308) -/
  trained : Bool := false
  /-- clerks that the system kernels of a correlation product and of a beam product take: the running firmware's choice, which the
  spec does not give (R21; the model's own field, notes/assumptions/131.md) -/
  kernelNeeds : Nat × Nat := (0, 0)
  /-- what started this boot, as RESET of R458 names it: 1 power-on, 2 pin, 3 device, 4 Teller restart -/
  kind : Nat := 1
  deriving DecidableEq, Repr

/-- Output pins and the levels the environment drives (R417, R431, R452, R497, R520). -/
structure Pins where
  vddAo : Bool := false
  resetN : Bool := false
  pwrOk : Bool := false
  perstN : Bool := false
  ppsOut : Bool := false
  /-- per TRIG_OUT pin: the time its pulse ends, while high (R239) -/
  trigOut : List (Option Nat) := List.replicate 4 none
  /-- per SYNC_OUT pin: the time its pulse ends, while high (R431) -/
  syncOut : List (Option Nat) := List.replicate 8 none
  deriving DecidableEq, Repr

/-- TAP controller states of IEEE 1149.1 (R510). -/
inductive Tap where
  | reset | idle
  | selDr | capDr | shDr | ex1Dr | pauDr | ex2Dr | updDr
  | selIr | capIr | shIr | ex1Ir | pauIr | ex2Ir | updIr
  deriving DecidableEq, Repr

structure Jtag where
  tap : Tap := .reset
  /-- the instruction in force -/
  ir : BitVec 8 := 0x01
  irShift : BitVec 8 := 0
  /-- the selected data register while it shifts: IDCODE (32) or BYPASS (1) -/
  dr : BitVec 32 := 0
  tdo : Bool := false
  deriving DecidableEq, Repr

/-! ### Ledger -/

/-- USABLE bits by class (R41, R42); bit i of a list is unit i. -/
structure Usable where
  tiles : List Bool := List.replicate 132 false
  clerks : List Bool := List.replicate 16 false
  dma : List Bool := List.replicate 4 false
  teller : List Bool := List.replicate 3 false
  dies : List Bool := List.replicate 2 false
  resCh : List Bool := List.replicate 8 false
  octets : List Bool := List.replicate 64 false
  beamformer : Bool := false
  trigger : Bool := false
  reserve : Bool := false
  deriving DecidableEq, Repr

/-- R49. -/
structure Spare where
  state : Nat := 1
  replaces : Nat := 0xFFFF
  mapTime : BitVec 64 := 0
  deriving DecidableEq, Repr

/-- Retirement state of one Vault die (R45). -/
structure DieMap where
  banks : List Nat := []
  pages : List Nat := []
  deriving DecidableEq, Repr

/-- One key slot (R51, R126, R243, R336, R364). -/
structure KeySlot where
  state : Nat := 0
  usage : Nat := 0
  keyId : BitVec 32 := 0
  key : List Byte := []
  handle : Handle := 0
  cmdSend : Nat := 1
  trigSend : Nat := 1
  /-- highest sequence accepted, by source peer (R126) -/
  high : List (Nat × Nat) := []
  deriving DecidableEq, Repr

/-- What a MEMORY entry of a Reserve channel shows (R45). -/
structure ModuleInfo where
  state : Nat
  ranks : Nat
  rateMts : Nat
  vendor : BitVec 32
  capacity : Nat
  features : BitVec 32
  deriving DecidableEq, Repr

/-- What the entries of the Ledger that the Teller writes are computed from, as of one moment (R40). -/
structure LedgerView where
  usable : Usable := {}
  dies : List DieMap := [{}, {}]
  spares : List Spare := [{}, {}, {}, {}]
  /-- STATE, USAGE and KEY_ID of each key slot -/
  keys : List (Nat × Nat × BitVec 32) := []
  modules : List ModuleInfo := []
  deriving DecidableEq, Repr

structure Ledger where
  generation : BitVec 32 := 1
  firstDone : Bool := false
  /-- a rewrite is in progress after the first: GENERATION is odd (R33, R35) -/
  dirty : Bool := false
  /-- a change was committed while it was: a further rewrite follows (R35) -/
  again : Bool := false
  /-- what the image records: the changes committed before the first increment of its last rewrite (R35) -/
  shown : LedgerView := {}
  /-- changes of what it records so far (the model's own) -/
  changes : Nat := 0
  writeTime : BitVec 64 := 0
  fwVersion : BitVec 32 := 0
  usable : Usable := {}
  dies : List DieMap := [{}, {}]
  spares : List Spare := [{}, {}, {}, {}]
  keys : List KeySlot := List.replicate 16 {}
  errata : List (BitVec 64) := []
  deriving DecidableEq, Repr

/-! ### PCIe rings, host port, SPI -/

/-- R326, R327. -/
structure Ring where
  cmdBase : BitVec 64 := 0
  rplBase : BitVec 64 := 0
  notifyAll : Bool := false
  hold : Bool := false
  enable : Bool := false
  fetchErr : Bool := false
  /-- the entry at CMD_HEAD could not be read; fetching waits for FETCH_ERR and HOLD to clear (R330) -/
  entryErr : Bool := false
  doorbellErr : Bool := false
  baseErr : Bool := false
  cmdTail : BitVec 13 := 0
  cmdHead : BitVec 13 := 0
  rplHead : BitVec 13 := 0
  rplTail : BitVec 13 := 0
  deriving DecidableEq, Repr

/-- One MSI-X table entry (R500). -/
structure Msix where
  addr : BitVec 64 := 0
  data : BitVec 32 := 0
  masked : Bool := true
  pending : Bool := false
  deriving DecidableEq, Repr

structure HostPort where
  ready : Bool := false
  linkUp : Bool := false
  d3hot : Bool := false
  linkWidth : Nat := 0
  linkSpeed : Nat := 0
  bar2Sel : BitVec 32 := 0
  bar2Err : Bool := false
  bar2Write : Bool := false
  msix : List Msix := List.replicate 64 {}
  v0Hold : Bool := false
  v0Owed : Bool := false
  v2Hold : Bool := false
  v2Owed : Bool := false
  /-- offset and low half of a 64-bit register written in two parts (R500) -/
  half : Option (Nat × BitVec 32) := none
  deriving DecidableEq, Repr

/-- A command as its source delivered it, copied into voted memory (R328, R335, R129). -/
structure Cmd where
  src : Source
  /-- the packet: header, parameters and trailer -/
  bytes : List Byte
  /-- the entry broke R329, or the read of indirect parameters failed (R330) -/
  paramErr : Bool := false
  /-- the command counter of a ring entry (R327) -/
  ctr : BitVec 13 := 0
  /-- its link was lost since: its replies are discarded (R333) -/
  lost : Bool := false
  deriving DecidableEq, Repr

/-- R334, R335. -/
structure Spi where
  cmdQ : List Cmd := []
  replyQ : List (List Byte) := []
  dataBuf : List Byte := List.replicate 4096 0
  frameErr : Bool := false
  overflow : Bool := false
  deriving DecidableEq, Repr

/-! ### Teller -/

/-- What the final reply of a deferred command waits for (R346). -/
inductive Wait where
  | fence
  | stop (h : Handle)
  | abort (h : Handle)
  | resetUnit (units : List UnitRef)
  | eyeScan (lane : Nat)
  | captureRead (h : Handle)
  | kernelRun (h : Handle)
  | timeSet
  deriving DecidableEq, Repr

structure Deferred where
  src : Source
  op : Nat
  tag : BitVec 32
  notify : Bool
  handle : Handle
  /-- position of its commit in the order of all commits -/
  seq : Nat
  wait : Wait
  /-- R333 -/
  lost : Bool := false
  deriving DecidableEq, Repr

/-- A command forwarded to a peer (R337). -/
structure Forward where
  src : Source
  peer : Nat
  op : Nat
  tag : BitVec 32
  notify : Bool
  sent : Nat
  replied : Bool := false
  ctr : BitVec 13 := 0
  /-- R333 -/
  lost : Bool := false
  deriving DecidableEq, Repr

/-- The commit record of the last command (R349). -/
structure CommitRec where
  src : Source
  op : Nat
  tag : BitVec 32
  status : Nat
  applied : Bool
  posted : Bool
  deriving DecidableEq, Repr

/-- R438. -/
inductive ChState where
  | check | lead | rejoining | failed
  deriving DecidableEq, Repr

structure Channel where
  st : ChState := .check
  bistFails : Nat := 0
  /-- times of diagnosis failures (R445) -/
  fails : List Nat := []
  failedAt : Nat := 0
  transfer : Bool := false
  /-- stays FAILED until a reset (R445) -/
  latched : Bool := false
  deriving DecidableEq, Repr

/-- The staging copy of COEFF_LOAD (R378). -/
structure Staging where
  pfb : Bool
  set : Nat
  taps : Nat
  log2 : Nat
  values : List Int
  deriving DecidableEq, Repr

structure Teller where
  ringQ : List Cmd := []
  fabQ : List (Nat × Cmd) := []
  deferred : List Deferred := []
  forwards : List Forward := []
  commits : Nat := 0
  lastCommit : Option CommitRec := none
  channels : List Channel := [{ st := .lead }, {}, {}]
  safe : Bool := false
  safeCause : Nat := 0
  staging : Option Staging := none
  deriving DecidableEq, Repr

/-- What the service record holds (R462): spare mappings (spare, replaced tile), retirements and first-boot PM
counts. -/
structure SvcData where
  spares : List (Nat × Nat) := []
  dies : List DieMap := [{}, {}]
  pm : List Nat := []
  deriving DecidableEq, Repr

/-- The service record (R462, R505): the Teller's copy, the valid copy in the boot flash, and whether a write is due. -/
structure Service where
  cur : SvcData := {}
  flash : SvcData := {}
  dirty : Bool := false
  seq : Nat := 0
  copy : Nat := 0
  deriving DecidableEq, Repr

/-! ### Lanes, links and egress -/

inductive Pll where
  | off | waiting | starting | failed | locked
  deriving DecidableEq, Repr

structure Octet where
  role : BitVec 2 := 0
  rate : BitVec 2 := 0
  width : BitVec 2 := 0
  pll : Pll := .off
  /-- when the PLL last started (R54, R56) -/
  pllStart : Nat := 0
  /-- how far its lanes are into the next block, in 10 ps (R53) -/
  phase : Nat := 0
  deriving DecidableEq, Repr

inductive Rx where
  | off | standby | acquire | locked | aligned | test
  deriving DecidableEq, Repr

/-- A lane under LANE_TEST (R69-R72). -/
structure LaneTest where
  on : Bool := false
  loop : BitVec 8 := 0
  gen : BitVec 2 := 0
  chk : BitVec 2 := 0
  invert : Bool := false
  inject : BitVec 4 := 0
  injK : Nat := 0
  errors : Nat := 0
  bits : Nat := 0
  chkLocked : Bool := false
  /-- a READ_CLEAR since the checker locked -/
  cleared : Bool := false
  /-- the generator's last bits, the newest lowest (R70) -/
  prbs : Nat := 0
  /-- the next block or PRBS bit sent is inverted (R71) -/
  strike : Bool := false
  /-- when an injection last struck (R71) -/
  struck : Option Nat := none
  eye : Bool := false
  deriving DecidableEq, Repr

structure Lane where
  /-- settings word of R58; both powers OFF at reset -/
  word : BitVec 32 := 0x5000
  rx : Rx := .off
  txResume : Bool := false
  rxResume : Bool := false
  held : Bool := false
  cdr : Bool := false
  pllUnlock : Bool := false
  localFault : Bool := false
  remoteFault : Bool := false
  faultClear : Bool := true
  invalidSh : Nat := 0
  lockLoss : Nat := 0
  slips : Nat := 0
  roleErr : Nat := 0
  roleEvent : Nat := 0
  lastChange : BitVec 64 := 0
  test : LaneTest := {}
  /-- position of the sync headers that the receiver holds, 0–65 (R63, R68) -/
  position : Nat := 0
  /-- the last 58 bits sent and received, the newest highest: scrambler and descrambler (R61) -/
  scrambler : BitVec 58 := 0
  descrambler : BitVec 58 := 0
  /-- parity of the payloads sent since the last marker (R74) -/
  bip : BitVec 8 := 0
  /-- a re-centring repeats (true) or discards the next block received (R62) -/
  slip : Option Bool := none
  /-- blocks of Ethernet frames that wait to be sent (R85) -/
  line : List Block := []
  deriving DecidableEq, Repr

/-- A JESD204C link, named by its first lane (R78). -/
structure Link where
  first : Nat
  l : Nat
  m : Nat
  nprime : Nat
  s : Nat
  e : Nat
  subclass1 : Bool
  rbd : Nat
  linkDelay : Nat
  fsKhz : Nat
  aligned : Bool := false
  /-- it has been ALIGNED since it was set: the next time is a realignment (R84) -/
  once : Bool := false
  /-- LEMC phase: the stamp it was aligned to (R82) -/
  lemc : Option Nat := none
  deriving DecidableEq, Repr

/-- EGRESS_SET parameters and the port's sending state (R85-R89, R372, R451). -/
structure Egress where
  tagged : Bool := false
  checksum : Bool := false
  dscp : BitVec 6 := 0
  ttl : Nat := 64
  tci : BitVec 16 := 0
  dstMac : List Byte := List.replicate 6 0
  srcMac : List Byte := List.replicate 6 0
  srcIp : List Byte := List.replicate 4 0
  dstIp : List Byte := List.replicate 4 0
  srcPort : BitVec 16 := 0
  dstPort : BitVec 16 := 0
  mtu : Nat := 1500
  ident : BitVec 16 := 0
  /-- the open datagram of each product, and its records (R87) -/
  datagrams : List (Handle × List (List Byte)) := []
  frames : Nat := 0
  healthSeq : Nat := 0
  healthLast : BitVec 64 := 0
  deriving DecidableEq, Repr

/-! ### Fabric -/

inductive PortState where
  | unbound | down | refused | linked | up | quarantined
  deriving DecidableEq, Repr

/-- The last marker seen on one lane of a port (R75, R76). -/
structure MarkerSeen where
  index : Nat
  widthCode : Nat
  port : Nat
  peer : Nat
  plane : BitVec 16
  mcount : Nat
  good : Nat
  mismatch : Nat
  deriving DecidableEq, Repr

/-- Expected-peer entry (R113). -/
structure PeerEntry where
  peer : Nat := 0
  bound : Bool := false
  cmdSlot : Nat := 0
  trigSlot : Nat := 0
  cmdRate : Nat := 0x3E8
  trigRate : Nat := 0x2710
  holdOff : Nat := 0xA
  deriving DecidableEq, Repr

/-- Counters of the port record (R123). -/
structure PortCounters where
  rxData : Nat := 0
  dropCrc : Nat := 0
  dropForm : Nat := 0
  dropLate : Nat := 0
  dropEarly : Nat := 0
  dropNotOwner : Nat := 0
  dropDup : Nat := 0
  seqGap : Nat := 0
  txData : Nat := 0
  txDrop : Nat := 0
  ctrlDrop : Nat := 0
  authFail : Nat := 0
  replay : Nat := 0
  creditStall : Nat := 0
  quarantine : Nat := 0
  deriving DecidableEq, Repr

/-- A DATA packet waiting at a port (R110). -/
structure TxData where
  stream : Nat
  deadline : Nat
  bytes : List Byte
  deriving DecidableEq, Repr

/-- Two-way time transfer of one port (R102, R424-R426). -/
structure PortTime where
  tseq : Nat := 0
  prevDepart : Nat := 0
  departs : List (Nat × Nat) := []
  rxTseq : Nat := 0
  rxArrival : Nat := 0
  rxAny : Bool := false
  peerTk : BitVec 8 := 0
  /-- θ values of the current second and δ values, 2^-16 ns -/
  thetas : List Int := []
  deltas : List Int := []
  asymSamples : List Int := []
  asym : Int := 0
  calibrated : Bool := false
  deltaMean : Int := 0
  lastTheta : Int := 0
  estimate : Option Int := none
  missed : Nat := 0
  deriving DecidableEq, Repr

/-- A packet whose end block has not arrived: TYPE and BLOCKS of its start block, data blocks so far, the newest first (R93). -/
structure RxPacket where
  type : Nat
  blocks : Nat
  data : List (BitVec 64) := []
  deriving DecidableEq, Repr

/-- What the receiver of a port holds of packets in progress, and whether it is in a run of data blocks outside any (R93, R94). -/
structure PortRx where
  bulk : Option RxPacket := none
  urgent : Option RxPacket := none
  stray : Bool := false
  deriving DecidableEq, Repr

/-- The transmitter of a port (R74, R90–R93, R108, R109). -/
structure PortTx where
  /-- columns since the last marker: a marker is due at 0 -/
  col : Nat := 0
  /-- the count of the next marker -/
  mcount : Nat := 0
  /-- columns since the last idle run began, and columns of the present one still to be sent -/
  sinceRun : Nat := 0
  run : Nat := 0
  /-- waiting urgent packets, TRIG (true) ahead of TIME -/
  urgent : List (Bool × List Block) := []
  /-- blocks left of the urgent and of the bulk packet in progress -/
  urgentNow : List Block := []
  bulkNow : List Block := []
  /-- waiting bulk packets by rank: 0 CMD, HELLO and HEALTH, 1 DATA, 2 PARTIAL -/
  bulk : List (Nat × List Block) := []
  /-- a CREDIT block is due -/
  credit : Bool := false
  deriving DecidableEq, Repr

structure Port where
  entry : PeerEntry := {}
  state : PortState := .unbound
  markers : List (Nat × MarkerSeen) := []
  aligned : Bool := false
  /-- partner's HELLO (R100, R115) -/
  helloAt : Option Nat := none
  /-- a valid HELLO has been received since the port was bound (R123) -/
  heard : Bool := false
  helloFlags : BitVec 32 := 0
  epochAtUp : BitVec 32 := 0
  epochOwn : BitVec 32 := 0
  mapGen : BitVec 32 := 0
  pendingGen : BitVec 32 := 0
  /-- credits (R105-R107) -/
  txSent : Nat := 0
  txReleased : Nat := 0
  rxCount : Nat := 0
  rxReleased : Nat := 0
  /-- when each of the receive buffers in use will be finished with (R105) -/
  rxHeld : List Nat := []
  rx : PortRx := {}
  tx : PortTx := {}
  txData : List TxData := []
  seqTx : Nat := 0
  seqRx : Nat := 0xFFFF
  cnt : PortCounters := {}
  stalled : Bool := false
  lastChange : BitVec 64 := 0
  cmdThisSecond : Nat × Nat := (0, 0)
  trigThisSecond : Nat × Nat := (0, 0)
  authTimes : List Nat := []
  quarantineUntil : Nat := 0
  time : PortTime := {}
  deriving DecidableEq, Repr

/-- One stream of a plane map (R132, R374); `image` is the descriptor as carried (R215). -/
structure StreamDesc where
  id : Nat
  wide : Bool
  firstGroup : Nat
  ngroups : Nat
  nchan : Nat
  dmLog2 : Nat
  emitDelay : Nat
  lateness : Nat
  fsKhz : Nat
  epoch : Nat
  source : List Nat
  runs : List (Nat × Nat)
  image : List Byte
  deriving DecidableEq, Repr

structure PlaneMap where
  gen : BitVec 32
  streams : List StreamDesc
  deriving DecidableEq, Repr

/-- A descriptor that routed and checked a stream's slots from `first` to `stop` − 1 of its grid (R133). -/
structure Former where
  desc : StreamDesc
  first : Nat
  stop : Nat
  deriving DecidableEq, Repr

structure Plane where
  joined : Bool := false
  planeId : BitVec 16 := 0
  peerId : Nat := 0
  map : Option PlaneMap := none
  pending : Option (PlaneMap × BitVec 64) := none
  /-- streams that have switched to the pending map (R133) -/
  switched : List Nat := []
  /-- first slot of each stream under the descriptor in force (R133) -/
  starts : List (Nat × Nat) := []
  /-- the former descriptors of the streams, oldest first (R133) -/
  old : List Former := []
  /-- accepted DATA packets: stream, group, block, start of the slot (R122) -/
  accepted : List (Nat × Nat × Nat × Nat) := []
  /-- halves of PARTIAL already accepted: product index, pair, channel, cut slot (R136) -/
  partials : List (Nat × Nat × Nat × Nat) := []
  /-- DIE_ID of each peer since PLANE_JOIN (R117) -/
  dieIds : List (Nat × BitVec 64) := []
  /-- latest HEALTH of each peer (R101) -/
  health : List (Nat × List Byte) := []
  deriving DecidableEq, Repr

/-! ### F-engine -/

/-- R141. -/
structure InMap where
  link : Nat
  conv : Nat
  iq : Bool
  ovr : Bool
  n : Nat
  stream : Option Nat
  gid : Nat
  deriving DecidableEq, Repr

/-- A change waiting for an input's frame boundary (R148). -/
inductive FeChange where
  | mapTo (m : InMap)
  | unmap
  | path (w : BitVec 64)
  | freq (f : BitVec 48)
  | phase (p : BitVec 48)
  | seed (v : BitVec 32)
  | coeffs
  deriving DecidableEq, Repr

/-- A sample after unpack (R149): the value in force with any test source (R168), the value as unpacked, whether an
ingest error (R84) or a parity error (R170) zeroed it, whether a test source made it, and the over-range and full-scale
codes of its lane words. -/
structure Sample where
  re : Int := 0
  im : Int := 0
  rawRe : Int := 0
  rawIm : Int := 0
  zeroed : Bool := false
  parity : Bool := false
  test : Bool := false
  ovf : Nat := 0
  clip : Nat := 0
  /-- what a sample of a multiblock that failed its CRC was before that was known (R241) -/
  seen : Option Int := none
  deriving DecidableEq, Repr

/-- A delay polynomial (R160, R379): the entry's fields as carried. -/
structure DelayPoly where
  epoch : Nat
  c0 : BitVec 64
  c1 : BitVec 64
  c2 : BitVec 64
  c3 : BitVec 64
  fLo : BitVec 64
  ph0 : BitVec 64
  deriving DecidableEq, Repr

/-- Detector state and latest record of one input (R165-R167). -/
structure Detector where
  /-- input index of the next sample it takes -/
  next : Nat := 0
  count : Nat := 0
  peak : Nat := 0
  sumsq : Nat := 0
  env : Nat := 0
  /-- squares of the last samples, for runs of 16 -/
  last : List Nat := []
  ovf : Nat := 0
  clip : Nat := 0
  /-- the count at which the next COARSE record is due; 0 in full windows (R166) -/
  coarse : Nat := 64
  /-- the last sample taken was zeroed -/
  zeroed : Bool := false
  /-- bytes 0-39 of the latest record -/
  record : List Byte := []
  satReq : Nat := 0
  satFir : Nat := 0
  satFft : Nat := 0
  parity : Nat := 0
  coarseStep : Nat := 0
  delayRange : Nat := 0
  delayLate : Nat := 0
  deriving DecidableEq, Repr

/-- One channelised time of one input waiting for its slot (R163, R172), with the WIDTH and GSHIFT in force. -/
structure SpecSample where
  j : Nat
  chans : List (Int × Int)
  settling : Bool
  invalid : Bool
  test : Bool
  gshift : Nat
  /-- the epoch of the grid that j counts on (R133) -/
  epoch : Nat := 0
  deriving DecidableEq, Repr

structure FeInput where
  map : Option InMap := none
  path : BitVec 64 := 0
  freq : BitVec 48 := 0
  phase0 : BitVec 48 := 0
  seed : BitVec 32 := 0
  /-- changes waiting, in commit order: the frame they may begin with, and the change (R148) -/
  changes : List (Nat × FeChange) := []
  /-- the working copies of a CUSTOM set and of a loaded prototype; empty where ROM or set 0 serves (R155, R157) -/
  fir : List Int := []
  proto : List Int := []
  nc : Nat := 0
  /-- d lay outside the range at the last boundary (R151) -/
  ranged : Bool := true
  /-- samples at the input of the coarse delay, oldest first; `first` is the input index of the oldest -/
  hist : List Sample := []
  first : Nat := 0
  /-- an input index and the input time of its sample (R83), in 1/125 tick: LINK_DELAY is in ps, 8,192 of these -/
  anchor : Nat × Int := (0, 0)
  /-- samples at the output of the coarse delay, oldest first, by array-time index; `outFirst` that of the oldest -/
  out : List Sample := []
  outFirst : Nat := 0
  /-- first array-time index of the present configuration: earlier data are not what it would have made of them -/
  fresh : Nat := 0
  /-- the next channel sample; none until the first is placed -/
  frame : Option Nat := none
  /-- frames below the second number still stand on a former grid of this epoch (R133) -/
  oldGrid : Option (Nat × Nat) := none
  /-- n_c of the next frame waits for the delay segment that starts with it (R151, R161) -/
  stepDue : Bool := false
  lastEnd : Nat := 0
  /-- path changes still settling: first and last index (R169) -/
  settle : List (Nat × Nat) := []
  /-- invalid stretches: first and last support-end index (R170) -/
  invalid : List (Nat × Nat) := []
  /-- coefficient copies in error that the input works with, PFB or FIR and the set, and the index from which (R170) -/
  badSets : List ((Bool × Nat) × Nat) := []
  spec : List SpecSample := []
  poly : Option DelayPoly := none
  polyNext : Option (Nat × DelayPoly) := none
  /-- D0 and DR in 2^-24 ns and the spectrum index of the segment start -/
  d0 : Int := 0
  dr : Int := 0
  seg : Nat := 0
  /-- consecutive segments without new values (R162) -/
  segMissing : Nat := 0
  gains : List (Nat × BitVec 32) := []
  /-- gains waiting for a slot boundary: time, channel, gain (R164) -/
  gainsNext : List (Nat × Nat × BitVec 32) := []
  det : Detector := {}
  prbs : BitVec 31 := 0
  deriving DecidableEq, Repr

structure FEngine where
  inputs : List FeInput := List.replicate 512 {}
  /-- CUSTOM FIR sets: taps and values (R155) -/
  fir : List (Nat × List Int) := []
  /-- PFB prototypes 1-15: P, log2 M, values (R157) -/
  pfb : List (Nat × Nat × Nat × List Int) := []
  /-- copies under reload: FIR false, PFB true, with the set (R170) -/
  reload : List (Bool × Nat) := []
  /-- clerks running the delay model, by stream (R379) -/
  delayClerks : List (Nat × List Nat) := []
  /-- the next slot to pack of each stream and grid: stream, epoch, slot (R133, R171) -/
  packed : List (Nat × Nat × Nat) := []
  deriving DecidableEq, Repr

/-! ### Products -/

inductive HState where
  | created | armed | running | stopping | stopped | faulted
  deriving DecidableEq, Repr

/-- R217. -/
structure XCounters where
  subints : Nat := 0
  records : Nat := 0
  short : Nat := 0
  merged : Nat := 0
  poisoned : Nat := 0
  residueErr : Nat := 0
  lateAdd : Nat := 0
  ctUncorr : Nat := 0
  invalid : Nat := 0
  lastClose : BitVec 64 := 0
  deriving DecidableEq, Repr

/-- One Vault codeword (R291): data, poison bit, and the positions of inverted bits. -/
structure VWord where
  data : BitVec 64 := 0
  poison : Bool := false
  flips : List Nat := []
  deriving DecidableEq, Repr

/-- The state of one record beside its Vault words (R194, R200-R205). -/
structure Rec where
  pair : Nat
  chan : Nat
  copy : Nat
  drained : Bool := false
  seeded : Bool := false
  merged : Bool := false
  settled : Bool := false
  /-- first slot of the window, and the slot after what it holds -/
  start : Nat := 0
  stop : Nat := 0
  /-- its entry in the tally store: the tally, the inverted bits of its code word, and whether it could not be read (R194) -/
  tally : Nat := 0
  tallyFlips : List Nat := []
  tallyLost : Bool := false
  /-- grid index of the last drain -/
  subint : Nat := 0
  /-- aligned close: its integration has ended and it is still to be read (R202) -/
  waiting : Bool := false
  /-- flushed by an abort: later drains are not the product's any more (R355) -/
  done : Bool := false
  /-- the phase drain has passed since the record was gained (R136) -/
  passed : Bool := false
  /-- it closes under R135 or an abort: SHORT_CLOSE whatever its window -/
  short : Bool := false
  /-- its words with the Vault words that held them, once its channel has left the package -/
  moved : Option (List (Nat × VWord)) := none
  /-- WEIGHT_CRC and WEIGHT_GEN of what it holds (R232) -/
  weights : Nat × Nat := (0, 0)
  deriving DecidableEq, Repr

/-- An exact partial waiting for the owner's drain of its grid index (R208): 512 integers. -/
structure WaitingAdd where
  subint : Nat
  pair : Nat
  chan : Nat
  values : List Int
  tally : Nat
  poison : Bool
  settled : Bool
  deriving DecidableEq, Repr

/-- A record of a lost channel that still ships as PARTIAL (R135): it and its new owner, with the cut. -/
structure Shipment where
  record : Rec
  peer : Nat
  cut : Nat
  /-- LAST_CHANGE of the port when sending began: another means that it left UP since (R138) -/
  since : BitVec 64
  deriving DecidableEq, Repr

structure Xprod where
  stream : Nat
  flags : BitVec 8
  egress : Nat
  firstGroup : Nat
  ngroups : Nat
  firstChan : Nat
  nchan : Nat
  tsub : Nat
  k : Nat
  ptag : BitVec 32
  origin : Nat
  seed : BitVec 64
  owner : Handle
  /-- packet bytes 16-63 (R215) -/
  block : List Byte
  wide : Bool
  /-- the channel whose records each column of the state region holds; as many columns as C of R383 -/
  cols : List (Option Nat)
  ringId : Nat
  statePages : List Nat
  startSlot : Nat := 0
  stopSlot : Option Nat := none
  /-- the stop boundary has been reached (R204) -/
  reached : Bool := false
  /-- the next piece to become ready: grid sub-integration and piece -/
  next : Nat × Nat := (0, 0)
  recs : List Rec := []
  cnt : XCounters := {}
  seq : Nat := 0
  /-- truncated by an ABORT: every open record flushes at its next drain (R355) -/
  aborted : Bool := false
  coOwners : List Handle := []
  waiting : List WaitingAdd := []
  shipping : List Shipment := []
  deriving DecidableEq, Repr

/-- A power span sum of one channel and beam block (R227): exact values m × 2^e of its 32 beams, the slots of its piece, the
beams that a poisoned weight touched, the weights used, and whether its record flushes with it. -/
structure SpanSum where
  span : Nat
  first : Nat
  stop : Nat
  chan : Nat
  block : Nat
  values : List (Int × Int)
  bad : List Nat
  tally : Nat
  settled : Bool
  weights : Nat × Nat
  flush : Bool
  deriving DecidableEq, Repr

structure Beam where
  stream : Nat
  flags : BitVec 8
  egress : Nat
  firstGroup : Nat
  ngroups : Nat
  firstChan : Nat
  nchan : Nat
  beams : Nat
  tb : Nat
  kb : Nat
  vshift : Nat
  origin : Nat
  seed : BitVec 64
  /-- packet bytes 16-55 (R234) -/
  block : List Byte
  wide : Bool
  /-- the channel whose weights and state each column of the regions holds -/
  cols : List (Option Nat)
  ringId : Nat
  weightPages : List Nat
  statePages : List Nat
  active : Nat := 0
  swapReq : Bool := false
  /-- until when the inactive bank is being written (R223) -/
  writingTo : Nat := 0
  weightGen : Nat := 0
  startSlot : Nat := 0
  stopSlot : Option Nat := none
  /-- the stop boundary has been reached (R204) -/
  reached : Bool := false
  /-- the next piece of a span to become ready -/
  next : Nat × Nat := (0, 0)
  /-- pieces whose sweeps are ready: span, piece, gated (R231, R455) -/
  ready : List (Nat × Nat × Bool) := []
  /-- sweeps of the first of them that have ended -/
  swept : Nat := 0
  /-- the beam sum buffers of the round in progress: by block, time × 32 + beam, as integers or as binary32 patterns -/
  sums : List (Nat × List (Int × Int)) := []
  /-- valid group-slots of the round by slot of its piece, and whether an invalid one carried SETTLING (R228) -/
  slotTally : List Nat := []
  slotSettled : List Bool := []
  /-- beams for which a weight word read in this round was poisoned (R228) -/
  bad : List Nat := []
  /-- span sums waiting to be added (R227) -/
  spanSums : List SpanSum := []
  recs : List Rec := []
  cnt : XCounters := {}
  weightLate : Nat := 0
  seq : Nat := 0
  aborted : Bool := false
  deriving DecidableEq, Repr

/-- R235-R237. -/
structure Coarse where
  owner : Handle := 0
  mode : Nat := 0
  yshift : Nat := 0
  eLog2 : Nat := 0
  baseLog2 : Nat := 0
  thresh : Nat := 0
  /-- input, delay, weight -/
  inputs : List (Nat × Nat × Int) := []
  /-- the time of its allocation: earlier samples are not its own -/
  since : Nat := 0
  /-- the plane index of the next sample whose saturation is to be counted -/
  counted : Nat := 0
  trigSat : Nat := 0
  deriving DecidableEq, Repr

structure TrigRule where
  kind : Nat
  pin : Nat
  outMask : BitVec 4
  minBeams : Nat
  tag : BitVec 32
  portMask : BitVec 64
  preNs : Nat
  postNs : Nat
  holdoffUs : Nat
  pulse : Nat
  coincLog2 : Nat
  beams : List Nat
  lastFire : Option Nat := none
  lastEdge : Option Nat := none
  /-- sample indices, counted from the plane epoch, at which it fired (R237, R241) -/
  fires : List Nat := []
  suspect : Nat := 0
  deriving DecidableEq, Repr

/-- A protected window of a capture (R248), in array time. -/
structure Window where
  first : Nat
  stop : Nat
  clipped : Bool := false
  suspect : Bool := false
  frozen : Bool := false
  /-- the rules that froze it with the sample index that fired (R241) -/
  fires : List (Handle × Nat) := []
  deriving DecidableEq, Repr

/-- A capture index entry and where its block lies (R247). -/
structure CapBlock where
  pos : Nat
  first : Nat
  group : Nat
  cblock : Nat
  flags : BitVec 16
  valid : Nat
  /-- array time of the block's first sample and one past its last -/
  t0 : Nat
  t1 : Nat
  deriving DecidableEq, Repr

/-- A CAPTURE_READ in progress (R394). -/
structure CapRead where
  window : Nat
  flags : BitVec 8
  port : Nat
  rate : Nat
  dest : BitVec 64
  /-- blocks already delivered -/
  sent : Nat := 0
  deriving DecidableEq, Repr

structure Capture where
  format : Nat
  keep : Bool
  rawshift : Nat
  stream : Nat
  units : Nat
  preMax : Nat
  postMax : Nat
  firstGroup : Nat
  ngroups : Nat
  firstBlock : Nat
  nblocks : Nat
  tags : List (BitVec 32)
  /-- the usable channels its blocks lie on in turn (R245), and its ranges of channel blocks, ring then index -/
  chans : List Nat
  stripes : List (Nat × Nat)
  retentionMs : Nat
  rateMb : Nat
  start : Nat := 0
  /-- ring position of the next block -/
  next : Nat := 0
  /-- fs_in of each group in kHz (RAW8) -/
  rates : List Nat := []
  /-- sample or slot index of the next block of each group and channel block -/
  heads : List Nat := []
  /-- SEQUENCE of its next CAPTURE record -/
  seq : Nat := 0
  blocks : List CapBlock := []
  windows : List (Nat × Window) := []
  trigIgnored : Nat := 0
  trigMerged : Nat := 0
  freezeRefused : Nat := 0
  capSat : Nat := 0
  reading : Option CapRead := none
  /-- DATA payloads of a CHAN44 capture waiting for their block: slot, group, channel block, flags, bytes (R246) -/
  packed : List (Nat × Nat × Nat × Nat × List Byte) := []
  deriving DecidableEq, Repr

/-- A loaded kernel (R278-R285). -/
structure Kernel where
  vx : Bool
  clerks : List Nat
  channels : List Nat
  regions : List (List Nat × Bool)
  windows : List (BitVec 64 × BitVec 64 × BitVec 8)
  entry : Nat
  maxCycles : Nat := 0
  exit : BitVec 32 := 0
  faulted : BitVec 32 := 0
  /-- the time of a requested stop (R284) -/
  stopAt : Option Nat := none
  deriving DecidableEq, Repr

/-- One schedule slot (R402, R431-R437). -/
structure SchedSlot where
  t : Nat
  period : Nat
  count : Nat
  endless : Bool
  action : Nat
  syncMask : BitVec 8
  kernel : Handle
  carried : List Byte
  src : Source
  fired : Nat := 0
  deriving DecidableEq, Repr

inductive Obj where
  | xprod (x : Xprod)
  | beam (b : Beam)
  | trigRule (t : TrigRule)
  | capture (c : Capture)
  | kernel (k : Kernel)
  | schedule (slot : Nat) (s : SchedSlot)
  | keySlot (slot : Nat)
  deriving DecidableEq, Repr

/-- A live handle (R341). -/
structure Entry where
  h : Handle
  st : HState
  obj : Obj
  /-- when it entered STOPPED, or the last commit that ended it (R354) -/
  doneAt : BitVec 64 := 0
  /-- STOPPED after a completion or abort (R354) -/
  completed : Bool := false
  /-- an ABORT is what it is STOPPING under -/
  aborting : Bool := false
  deriving DecidableEq, Repr

/-- The handle table (R342): indices at and above `virgin` have never been used; `freed` are free, longest first;
`gens` holds the generation of each index that was freed at least once. `live` is in order of creation. -/
structure Handles where
  virgin : Nat := 0
  freed : List Nat := []
  gens : Mem Nat := []
  live : List Entry := []
  deriving DecidableEq, Repr

/-! ### X-array -/

/-- The flags of one group and channel block in one position of a ring (R183). -/
structure CtCell where
  pos : Nat
  group : Nat
  block : Nat
  slot : Nat
  valid : Bool
  settling : Bool
  /-- the brick in which a read of it failed, and the first word that it could not deliver (R185) -/
  struck : Option (List Nat × Nat) := none
  deriving DecidableEq, Repr

/-- A corner-turn ring (R25, R183): its geometry, `c` channel columns, its pages and its flags. -/
structure CtRing where
  id : Nat
  stream : Nat
  firstGroup : Nat
  ngroups : Nat
  firstChan : Nat
  nchan : Nat
  c : Nat
  wide : Bool
  epoch : Nat
  q : Nat
  pages : List Nat
  users : List Handle
  cells : List CtCell := []
  deriving DecidableEq, Repr

/-- A drain on its way to the adders (R188, R195): 256 partials of one quadrant, and the slots of its piece. -/
structure DrainItem where
  handle : Handle
  subint : Nat
  first : Nat
  stop : Nat
  chan : Nat
  pair : Nat
  partials : List (Int × Int)
  tally : Nat
  settled : Bool
  poison : Bool
  /-- its record flushes with it: the last piece of the product, or of a channel that leaves (R204, R205) -/
  flush : Bool
  deriving DecidableEq, Repr

/-- A closed value in the close queue (R268): what its record will say. -/
structure Closed where
  handle : Handle
  rtype : Nat
  chan : Nat
  /-- the PAIR field, 24 bits -/
  pair : Nat
  start : Nat
  stop : Nat
  tally : Nat
  flags : BitVec 8
  holdover : Bool
  /-- grid times of the window's start and end (R213) -/
  t0 : Nat
  t1 : Nat
  /-- the stream descriptor in force at the window's end (R215) -/
  image : List Byte
  weightCrc : Nat := 0
  payload : List Byte
  deriving DecidableEq, Repr

inductive RankRole where
  | free | corr | beam
  deriving DecidableEq, Repr

/-- The accumulators of a tile's 1,024 cells, (AR, AI) each: the four quadrants in turn, 256 cells each, row by row (R177). -/
structure TileSets where
  tile : Nat
  live : List (BitVec 32 × BitVec 32)
  shadow : List (BitVec 32 × BitVec 32)
  deriving DecidableEq, Repr

/-- A step of tile supplies: when, whether it ungates, and its tiles (R460). -/
structure SupplyStep where
  due : Nat
  on : Bool
  tiles : List Nat
  deriving DecidableEq, Repr

structure XArray where
  roles : List RankRole := List.replicate 16 .free
  /-- the tile at each position, `none` where dead (R179, R211) -/
  pos : List (Option Nat) := (List.range 128).map some
  residue : List (Nat × Nat) := []
  residueTimes : List (Nat × Nat) := []
  rings : List CtRing := []
  nextRing : Nat := 0
  drains : List DrainItem := []
  closeQ : List Closed := []
  /-- pieces whose passes are ready: product, sub-integration, piece, gated (R192, R455) -/
  ready : List (Handle × Nat × Nat × Bool) := []
  /-- passes of the ready pieces that have ended -/
  ended : List Pass := []
  /-- the accumulators of the tiles that have run a pass (R177, R188) -/
  sets : List TileSets := []
  /-- tiles whose supplies are not gated, and the steps to come (R460) -/
  powered : List Nat := []
  supply : List SupplyStep := []
  deriving DecidableEq, Repr

/-! ### Vault and Reserve -/

/-- What a page of the Vault is used for, by owner handle; 0 is the system reserve (R26). -/
structure PageUse where
  owner : Handle
  kind : Nat
  deriving DecidableEq, Repr

/-- R297. -/
structure Repeat where
  addr : Nat
  count : Nat
  /-- complete passes in which its word was clean -/
  clean : Nat
  /-- unchanged since the pass began, and found clean in it -/
  whole : Bool := false
  found : Bool := false
  deriving DecidableEq, Repr

/-- Counters of a Vault die record (R319). -/
structure DieCounters where
  corr : Nat := 0
  uncorr : Nat := 0
  poisonRead : Nat := 0
  hardSuspect : Nat := 0
  passes : Nat := 0
  passLast : BitVec 64 := 0
  deriving DecidableEq, Repr

/-- A retired page that still holds data, and whether its bank was retired; the replacement once it has one, and the words, by place
within the page, that lie there already (R303). -/
structure Moving where
  page : Nat
  bank : Bool
  target : Option Nat := none
  turned : List Nat := []
  deriving DecidableEq, Repr

structure Vault where
  words : Mem VWord := []
  pages : Mem PageUse := []
  lastBank : Nat := 127
  period : Nat := 10
  auditHold : Bool := false
  /-- next visit of each bank: 64 B index within the bank, and passes done -/
  visit : List (Nat × Nat) := List.replicate 128 (0, 0)
  rep : List Repeat := []
  cnt : List DieCounters := [{}, {}]
  relocate : List Moving := []
  deriving DecidableEq, Repr

/-- A capture block staged in a Till (R309-R311). -/
structure TillBlock where
  handle : Handle
  /-- ring position -/
  pos : Nat
  /-- channel block index (R309) -/
  q : Nat
  data : List Byte
  /-- inverted bits in its first word -/
  bitErrs : Nat := 0
  deriving DecidableEq, Repr

structure ResCh where
  policy : BitVec 64 := 0x0064100000808002
  policyNext : Option (BitVec 64) := none
  /-- MEMORY entry (R45) -/
  state : Nat := 0
  ranks : Nat := 0
  rateMts : Nat := 0
  vendor : BitVec 32 := 0
  capacity : Nat := 0
  features : BitVec 32 := 0
  till : List TillBlock := []
  tillPeak : Nat := 0
  debt : List Nat := [0, 0]
  /-- activate counts: (rank, bank group + 8 × subchannel, bank) → rows and counts (R314) -/
  acts : List ((Nat × Nat × Nat) × List (Nat × Nat)) := []
  temp : Int := 0
  hot85 : Bool := false
  throttled : Bool := false
  powerDown : List Bool := [false, false]
  forcedRef : Nat := 0
  neighbourRef : Nat := 0
  corr : Nat := 0
  uncorr : Nat := 0
  gapBlocks : Nat := 0
  caRetry : Nat := 0
  inOrder : Nat := 0
  uncorrTimes : List Nat := []
  deriving DecidableEq, Repr

/-- The Reserve (R245, R308): channels, and their contents by DIMM location (channel, block, byte: `resKey`). -/
structure Reserve where
  ch : List ResCh := List.replicate 8 {}
  bytes : Mem Byte := []
  /-- bursts holding errors, by location / 64: the devices struck, and whether the error was planted -/
  bad : Mem (List Nat × Bool) := []
  /-- allocated ranges of channel blocks, the same on every channel: first, count -/
  used : List (Nat × Nat) := []
  /-- pending injections (R320): channel, subchannel and devices of a burst; channel and bits of a Till word -/
  injectBurst : Option (Nat × Nat × List Nat) := none
  injectTill : Option (Nat × Nat) := none
  deriving DecidableEq, Repr

/-- The error log (R298, R457): entries with their numbers, the mirror, the read mark. -/
structure Log where
  entries : List (Nat × List Byte) := []
  next : Nat := 0
  readMark : Nat := 0
  lost : Nat := 0
  mirror : List (List Byte) := []
  deriving DecidableEq, Repr

/-! ### Vector engine and clerks -/

/-- The registers of a vector context that a bundle reads as of its issue (R254, R256). -/
structure VxRegs where
  v : List (BitVec 2048) := List.replicate 128 0
  m : List (BitVec 64) := List.replicate 8 0
  x : List (BitVec 20480) := List.replicate 4 0
  xovf : List (BitVec 64) := List.replicate 4 0
  xnan : List (BitVec 64) := List.replicate 4 0
  pln : BitVec 32 := 0
  pls : BitVec 4 := 0
  plp : BitVec 32 := 0
  rot : BitVec 6 := 0
  ff : BitVec 4 := 0
  evt : BitVec 8 := 0
  cyc : BitVec 64 := 0
  deriving DecidableEq, Repr

structure VxCtx where
  regs : VxRegs := {}
  /-- register values at the issue of the bundle in progress -/
  issue : Option VxRegs := none
  pc : Nat := 0
  /-- the slot of the bundle whose word is next: 0 L, 1 F, 2 I, 3 X -/
  slot : Nat := 0
  /-- what the words of the bundle have written so far: register (v by physical number, 128 + m, 136 + x) and lanes -/
  wrote : List (Nat × BitVec 64) := []
  running : Bool := false
  wait : Option (BitVec 8) := none
  deriving DecidableEq, Repr

/-- A memory word or byte with the positions of inverted bits (R255, R306). -/
structure EccCell where
  data : Nat := 0
  flips : List Nat := []
  deriving DecidableEq, Repr

structure Vx where
  ctx : List VxCtx := [{ running := true }, {}]
  data : Mem EccCell := []
  prog : Mem (BitVec 160) := []
  /-- inverted bits of each context's bundles (R305) -/
  progFlips : List (Mem (List Nat)) := [[], []]
  inject : List Nat := []
  deriving DecidableEq, Repr

/-- A block repeat in progress (R277): first and last instruction, passes left. -/
structure RepBlock where
  first : Nat
  last : Nat
  left : Nat
  deriving DecidableEq, Repr

structure Clerk where
  d : List (BitVec 24) := List.replicate 16 0
  a : List (BitVec 56) := List.replicate 4 0
  p : List (BitVec 24) := List.replicate 8 0
  b : List (BitVec 24) := List.replicate 8 0
  l : List (BitVec 24) := List.replicate 8 0
  /-- block repeats, outermost first; lck is the count left of block k -/
  reps : List RepBlock := []
  lc : List (BitVec 17) := List.replicate 4 0
  st : BitVec 16 := 0
  mode : BitVec 8 := 0
  evt : BitVec 32 := 0
  evm : BitVec 32 := 0
  cyc : BitVec 48 := 0
  pc : Nat := 0
  running : Bool := false
  halted : Bool := false
  waiting : Bool := false
  /-- allocated: the kernel's handle, 0 for a system kernel -/
  owner : Option Handle := none
  system : Bool := false
  mem : Mem EccCell := []
  prog : Mem (BitVec 64) := []
  /-- inverted bits of instructions (R305) -/
  progFlips : Mem (List Nat) := []
  /-- accumulators that the last instruction multiplied into: other uses wait a cycle (R276) -/
  hot : List Nat := []
  deriving DecidableEq, Repr

/-! ### DMA -/

inductive DmaSt where
  | idle | running | parked | stopping | halted
  deriving DecidableEq, Repr

structure DmaCh where
  shadow : List Byte := List.replicate 64 0
  active : List Byte := List.replicate 64 0
  irqEn : Bool := false
  prio : BitVec 2 := 1
  errCause : Nat := 0
  errDir : Bool := false
  kickPending : Bool := false
  shadowValid : Bool := false
  dbErr : Bool := false
  half : Bool := false
  full : Bool := false
  st : DmaSt := .idle
  chainLimit : Nat := 4096
  curDesc : BitVec 64 := 0
  bytesDone : Nat := 0
  chainCount : Nat := 0
  errAddr : BitVec 64 := 0
  /-- kernel that holds it, if granted -/
  owner : Option Handle := none
  /-- bytes written to HEAD through the doorbell (R479) -/
  latch : List Byte := List.replicate 8 0
  /-- a KICK written through the doorbell whose read of NEXT goes to host memory (R479, R484) -/
  kickDue : Bool := false
  /-- a descriptor is fetched and checked; bytes of it already read and issued -/
  loaded : Bool := false
  /-- descriptor to start next: chain address, or the shadow set -/
  chain : Bool := false
  nextAddr : BitVec 64 := 0
  /-- NEXT as read at the last read beat: the end mark, or the address of the descriptor fetched into SHADOW -/
  lastNext : BitVec 64 := 0
  nextRead : Bool := false
  /-- DONE and FULL of the active descriptor are out, its NEXT is being read again (R484, R487) -/
  doneOut : Bool := false
  deriving DecidableEq, Repr

/-! ### Time -/

inductive TkState where
  | freerun | acquire | locked | holdover
  deriving DecidableEq, Repr

inductive TimeSrc where
  | none | pps | peer (port : Nat)
  deriving DecidableEq, Repr

inductive Tkref where
  | absent | mhz10 | mhz100 | lost
  deriving DecidableEq, Repr

/-- The Timekeeper (12_time.md). Counters are full time in units of 2^-64 ns (R413); y terms in 10^-18 (R414,
R429); phases in 2^-16 ns, except `slewLeft` and `ppsOffset`, which are kept in 10^-6 of that so that a TK cycle's
share of a slew (R422) is a whole number. -/
structure Tk where
  cnt : List Nat := [0, 0, 0]
  yI : Int := 0
  yLoop : Int := 0
  yHost : Int := 0
  slewLeft : Int := 0
  ppsOffset : Int := 0
  state : TkState := .freerun
  src : TimeSrc := .none
  hop : Nat := 15
  tkref : Tkref := .absent
  lockRun : Nat := 0
  unlockRun : Nat := 0
  ys : List Int := []
  errs : List Int := []
  links : List Nat := []
  lockSince : Nat := 0
  holdSince : Nat := 0
  /-- Y_LOOP of each of the last 64 seconds of LOCKED (R423) -/
  yls : List Int := []
  lastEdge : Option Nat := none
  ppsValid : Bool := false
  lastPps : BitVec 64 := 0
  lastLock : BitVec 64 := 0
  phaseErr : Int := 0
  ppsReject : Nat := 0
  resync : Nat := 0
  schedLate : Nat := 0
  lockLoss : Nat := 0
  sysrefEdges : Nat := 0
  sysrefMisalign : Nat := 0
  timeFault : Bool := false
  /-- time has been set since reset: WRITE_TIME of the Ledger is valid (R30) -/
  isSet : Bool := false
  /-- a MODE 0 TIME_SET waiting for its edge: the time to set, in ticks (R399) -/
  setWait : Option Nat := none
  deriving DecidableEq, Repr

/-! ### Health -/

structure Sensor where
  reading : Int := 0
  hi : Int := 0
  lo : Int := 0
  raise : Bool := true
  out : Nat := 0
  back : Nat := 0
  armed : Bool := true
  deriving DecidableEq, Repr

structure Health where
  seq : Nat := 0
  takeovers : Nat := 0
  lastTakeover : BitVec 64 := 0
  lastGap : Nat := 0
  replyDiscard : Nat := 0
  fwdUnmatched : Nat := 0
  portRefused : Nat := 0
  schedLateGap : Nat := 0
  gatedSubints : Nat := 0
  cdcOverrun : Nat := 0
  /-- overrun flags of PULSE crossings: the two islands (R491) -/
  overruns : List (Nat × Nat) := []
  noPortDrop : Nat := 0
  cdcIsland : Nat := 0xFF
  /-- latched event bits of R449 -/
  events : BitVec 32 := 0
  statement : List Byte := List.replicate 256 0
  safeCopy : List Byte := List.replicate 256 0
  sensors : List Sensor := []
  throttle : Nat := 0
  /-- the times at which THROTTLE took its recent levels (R455) -/
  levels : List (Nat × Nat) := []
  trigRun : Nat := 0
  cool : Nat := 0
  hotRun : Nat := 0
  lowRun : Nat := 0
  stalled : List Nat := []
  deriving DecidableEq, Repr

/-! ### Outputs -/

/-- What the device puts out (the model's own record of it, in order). -/
inductive Output where
  /-- a memory write to the host over PCIe -/
  | hostWrite (addr : BitVec 64) (data : List Byte)
  /-- an MSI-X message -/
  | msix (vector : Nat)
  /-- bytes returned in an SPI frame -/
  | spi (data : List Byte)
  /-- a BAR2 read completion: 0 successful, 1 poisoned, 2 unsupported request, 3 completer abort (R504) -/
  | completion (kind : Nat) (data : List Byte)
  /-- a fabric packet given to the transmitter of a port (R108) -/
  | fabric (port : Nat) (data : List Byte)
  /-- a bulk packet that ends with STATUS aborted (R94) -/
  | aborted (port : Nat)
  /-- a CREDIT block given to the transmitter of a port -/
  | credit (port : Nat) (released : BitVec 16)
  /-- a block on the transmit pins of a lane, as it is sent (R61); under a PRBS generator its 66 bits -/
  | block (lane : Nat) (b : Block)
  /-- an Ethernet frame given to the transmitter of an egress lane -/
  | frame (lane : Nat) (data : List Byte)
  /-- a read beat returned to a matrix master with its response -/
  | beat (resp : Nat) (data : List Byte)
  /-- a write of the service record to boot flash: copy, sequence -/
  | flash (copy seq : Nat)
  /-- TDO after a TCK edge -/
  | tdo (bit : Bool)
  /-- a DRAM command of the Reserve controller: channel, rank, kind (0 REFsb, 1 REFab forced, 2 REFab, 6 power-down), argument -/
  | dram (ch rank kind arg : Nat)
  /-- R314: the refresh of rows of one bank: channel, subchannel, rank, bank group, bank; by one RFM command, or by an activate and a
  precharge of each row -/
  | neighbours (ch subch rank bg bank : Nat) (rfm : Bool) (rows : List Nat)
  deriving DecidableEq, Repr

/-- A burst piece waiting at a port of the bus matrix (R469, R470): its master, what a read returns from host memory or whether host
memory accepts a write, and since when it waits. -/
structure MxRequest where
  port : Nat
  m : Master
  write : Bool
  addr : Nat
  /-- bytes of a read -/
  len : Nat := 0
  data : List Byte := []
  strobes : List Bool := []
  host : ReadResult := .failed
  accepts : Bool := false
  since : Nat
  deriving DecidableEq, Repr

/-- A target port of the bus matrix (R469): the master it is parked on, and until when a piece occupies it. -/
structure MxPort where
  port : Nat
  parked : Master
  busy : Nat
  deriving DecidableEq, Repr

structure Matrix where
  /-- waiting requests, oldest first -/
  waiting : List MxRequest := []
  ports : List MxPort := []
  deriving DecidableEq, Repr

/-! ### The whole state -/

structure State where
  fuse : Fuse := {}
  boot : Boot := {}
  pins : Pins := {}
  jtag : Jtag := {}
  ledger : Ledger := {}
  ring : Ring := {}
  host : HostPort := {}
  spi : Spi := {}
  teller : Teller := {}
  handles : Handles := {}
  service : Service := {}
  octets : List Octet := List.replicate 64 {}
  lanes : List Lane := List.replicate 512 {}
  links : List Link := []
  /-- committed LANE_SET packets a SCHEDULE carried, with the times at which they take effect (R434) -/
  laneHeld : List (Nat × List Byte) := []
  egress : List (Nat × Egress) := []
  ports : List Port := List.replicate 64 {}
  plane : Plane := {}
  fe : FEngine := {}
  xa : XArray := {}
  coarse : List Coarse := List.replicate 32 {}
  vault : Vault := {}
  reserve : Reserve := {}
  log : Log := {}
  vx : Vx := {}
  clerks : List Clerk := List.replicate 16 {}
  dma : List DmaCh := List.replicate 64 {}
  matrix : Matrix := {}
  tk : Tk := {}
  health : Health := {}
  /-- commands waiting, first in first out -/
  pending : List Instr := []
  /-- everything put out so far (the model's own) -/
  out : List Output := []
  /-- how many free values have been taken (the model's own) -/
  freeCtr : Nat := 0
  deriving DecidableEq, Repr

/-- NOMINAL of each voltage monitor VM00-VM23 in mV (R526). -/
def vmNominal : List Nat :=
  List.replicate 8 750 ++ List.replicate 2 800 ++ List.replicate 4 900 ++ List.replicate 4 1200
    ++ List.replicate 2 1100 ++ List.replicate 2 1800 ++ List.replicate 2 1800

/-- Default thresholds of the 72 sensors in SENSORS order (R453); the PM lower threshold is set from the first-boot
count when the service record is applied (R462). -/
def sensorDefaults : List Sensor :=
  List.replicate 32 { hi := 1520, lo := -160 }
    ++ vmNominal.map (fun n => { hi := ((n * 105) / 100 : Nat), lo := ((n * 95 + 99) / 100 : Nat) })
    ++ List.replicate 16 { hi := 65535, lo := 0 }

/-- The machine before any command: unpowered, every field at its reset value (INVENTORY.md, State). -/
def State.reset : State := { health := { sensors := sensorDefaults } }

end Sys2Proof.Machine
end

