-- ==== Sys2Proof/Machine/Time.lean ====
section
/-! DEFINITION. The time formats of 00_scope.md (full time, short time, R10, R11), the voted counters (R413) and the
grid of a stream (R432). A time is a `Nat` of ticks of 2^-16 ns since the plane epoch. -/
namespace Sys2Proof.Machine

/-- Ticks in a nanosecond and in a second. -/
def tickNs : Nat := 65536
def tickSec : Nat := 65536 * 1000000000

/-- A signed quotient, exact where it divides; elsewhere its rounding is the device's (notes/assumptions/21.md). -/
def divOpen (n d : Int) : Int :=
  if d = 0 then 0 else if n % d = 0 then n / d else if Config.roundsUp n d then n / d + 1 else n / d

/-- The seconds, nanoseconds and fraction of a time. -/
def ticksSec (t : Nat) : Nat := t / tickSec
def ticksNanos (t : Nat) : Nat := t / tickNs % 1000000000
def ticksFrac (t : Nat) : Nat := t % tickNs

/-- The time of seconds, nanoseconds and fraction. -/
def ticksOf (sec ns frac : Nat) : Nat := sec * tickSec + ns * tickNs + frac

/-- Table — Short time: bits 61:32 nanoseconds, 31:0 the low half of the seconds; the fraction is dropped. -/
def shortTime (late holdover : Bool) (t : Nat) : BitVec 64 :=
  BitVec.ofNat 64 ((if late then 2 ^ 63 else 0) + (if holdover then 2 ^ 62 else 0)
    + ticksNanos t * 2 ^ 32 + ticksSec t % 2 ^ 32)

/-- R10: the signed difference of two short times in ns; the flags take no part. -/
def shortDiff (a b : BitVec 64) : Int :=
  let sa := a.toNat % 2 ^ 32
  let sb := b.toNat % 2 ^ 32
  let na := bits a.toNat 61 32
  let nb := bits b.toNat 61 32
  sext 32 (sa + 2 ^ 32 - sb) * 1000000000 + ((na : Int) - (nb : Int))

/-- R11: the full time nearest to `now` that a short time names, fraction zero. A time before the plane epoch is taken as the epoch
(DESIGN CHOICE, notes/assumptions/147.md). -/
def resolveShort (now : Nat) (a : BitVec 64) : Nat :=
  let d := shortDiff a (shortTime false false now)
  let nowNs : Int := (now / tickNs : Nat)
  (max 0 (nowNs + d)).toNat * tickNs

/-- R9: nanoseconds of a short time are in range. -/
def shortOk (a : BitVec 64) : Bool := bits a.toNat 61 32 < 1000000000

/-- Table — Full time image, 16 bytes. -/
def fullImage (t : Nat) : List Byte :=
  le 4 (ticksFrac t) ++ le 4 (ticksNanos t) ++ le 6 (ticksSec t % 2 ^ 48) ++ [0, 0]

/-- A full time image at an offset, if its reserved bits are zero and its nanoseconds in range (R6, R9). -/
def fullOf (l : List Byte) (o : Nat) : Option Nat :=
  let f := u32 l o
  let n := u32 l (o + 4)
  if f < 65536 && n < 1000000000 && u16 l (o + 14) == 0 then some (ticksOf (u48 l (o + 8)) n f) else none

/-! ### Voted counters -/

/-- One part of a counter: 0 seconds, 1 nanoseconds, 2 fraction, 3 the 48 bits below it (R413). -/
def cntField (k c : Nat) : Nat :=
  match k with
  | 0 => c / (2 ^ 64 * 1000000000)
  | 1 => c / 2 ^ 64 % 1000000000
  | 2 => c / 2 ^ 48 % 65536
  | _ => c % 2 ^ 48

/-- The value two of three fields share, if any (R413). -/
def majority (a b c : Nat) : Option Nat := if a = b ∨ a = c then some a else if b = c then some b else none

/-- The median of three (R415). -/
def median3 (a b c : Nat) : Nat := max (min a b) (min (max a b) c)

/-- The voted counter of three, field by field; none where some field has no majority (R413, R415). -/
def voteCounters (cs : List Nat) : Option Nat :=
  let a := cs.getD 0 0
  let b := cs.getD 1 0
  let c := cs.getD 2 0
  match majority (cntField 0 a) (cntField 0 b) (cntField 0 c), majority (cntField 1 a) (cntField 1 b) (cntField 1 c),
    majority (cntField 2 a) (cntField 2 b) (cntField 2 c), majority (cntField 3 a) (cntField 3 b) (cntField 3 c) with
  | some s, some n, some f, some l => some ((s * 1000000000 + n) * 2 ^ 64 + f * 2 ^ 48 + l)
  | _, _, _, _ => none

/-- The voted time at full resolution; the median where there is no majority (R415). -/
def Tk.voted (k : Tk) : Nat :=
  (voteCounters k.cnt).getD (median3 (k.cnt.getD 0 0) (k.cnt.getD 1 0) (k.cnt.getD 2 0))

/-- The voted time in ticks. -/
def Tk.now (k : Tk) : Nat := k.voted / 2 ^ 48

/-- All three counters at one time. -/
def Tk.setCnt (k : Tk) (c : Nat) : Tk := { k with cnt := [c, c, c] }

/-- The slew rate in force, 10^-18 units (R422). -/
def Tk.slewRate (k : Tk) : Int := if k.slewLeft > 0 then 1000000000000 else if k.slewLeft < 0 then -1000000000000 else 0

/-- y of R414, in 10^-18. -/
def Tk.y (k : Tk) : Int := k.yLoop + k.yHost + k.slewRate

/-- INC of R414 in 2^-64 ns. -/
def Tk.inc (k : Tk) : Nat :=
  (divOpen (2 * 2 ^ 64 * (1000000000000000000 + k.y)) 1000000000000000000).toNat

/-- What a slew removes in one TK cycle, never past zero (R422): 2 ns × 10^-6 is 131,072 units of 10^-6 ticks. -/
def Tk.slewStep (k : Tk) : Int := max (-131072) (min 131072 k.slewLeft)

/-- One TK cycle (R413, R414, R422). -/
def Tk.cycle (k : Tk) : Tk :=
  let d := k.slewStep
  { k with cnt := k.cnt.map (· + k.inc), slewLeft := k.slewLeft - d, ppsOffset := k.ppsOffset + d }

/-! ### Stream grid -/

/-- R432: the grid time of channel sample j, in ticks. -/
def StreamDesc.g (d : StreamDesc) (j : Nat) : Nat :=
  d.epoch + j * 2 ^ d.dmLog2 * 1000000 * 65536 / d.fsKhz

/-- Channel samples in a slot (00_scope.md, Slot index). -/
def slotLen (wide : Bool) : Nat := if wide then 32 else 64

def StreamDesc.l (d : StreamDesc) : Nat := slotLen d.wide

/-- The start of slot k (R12, R432). -/
def StreamDesc.slotStart (d : StreamDesc) (k : Nat) : Nat := d.g (k * d.l)

/-- The largest n at or below `hi` with g(n × u) ≤ t, by bisection. -/
def gridFloor (d : StreamDesc) (u t : Nat) : Nat → Nat → Nat → Nat
  | 0, lo, _ => lo
  | f + 1, lo, hi =>
    if lo < hi then
      let m := (lo + hi + 1) / 2
      if d.g (m * u) ≤ t then gridFloor d u t f m hi else gridFloor d u t f lo (m - 1)
    else lo

/-- The unit of the grid (u channel samples each) that holds time t (R432). -/
def StreamDesc.unitAt (d : StreamDesc) (u t : Nat) : Nat :=
  let hi := (t + 1 - d.epoch) * (d.fsKhz + 1) / (2 ^ d.dmLog2 * 1000000 * 65536 * (max u 1)) + 1
  gridFloor d u t 80 0 hi

/-- The slot holding time t. -/
def StreamDesc.slotAt (d : StreamDesc) (t : Nat) : Nat := d.unitAt d.l t

/-- The first unit of the grid that starts at or after t. -/
def StreamDesc.unitFrom (d : StreamDesc) (u t : Nat) : Nat :=
  let k := d.unitAt u t
  if t ≤ d.g (k * u) then k else k + 1

/-- The slot index range is 48 bits (00_scope.md). -/
def slotMax : Nat := 2 ^ 48

end Sys2Proof.Machine
end

