-- ==== Sys2Proof/Machine/Ops.lean ====
section
/-! DEFINITION. Operations the meanings share: sparse memories, stamps, outputs, MSI-X vectors, EVENT_FLAGS, the error
log, units and their numbers, free values, and handles. -/
namespace Sys2Proof.Machine

/-! ### Sparse memories -/

/-- What an address holds; an unlisted address holds `d`. -/
def Memory.get {α : Type} (d : α) : Mem α → Nat → α
  | [], _ => d
  | (b, w) :: t, a => if a = b then w else Memory.get d t a

/-- Write one address, keeping addresses rising and no entry equal to `d`. -/
def Memory.set {α : Type} [DecidableEq α] (d : α) : Mem α → Nat → α → Mem α
  | [], a, v => if v = d then [] else [(a, v)]
  | (b, w) :: t, a, v =>
    if a < b then (if v = d then (b, w) :: t else (a, v) :: (b, w) :: t)
    else if a = b then (if v = d then t else (a, v) :: t)
    else (b, w) :: Memory.set d t a v

/-- The canonical form: addresses strictly rising, no entry equal to what an unlisted address reads as. -/
def Memory.wf {α : Type} [DecidableEq α] (d : α) : Mem α → Bool
  | [] => true
  | (a, v) :: t => v != d && t.all (fun e => a < e.1) && Memory.wf d t

/-- Write consecutive addresses. -/
def Memory.setRange {α : Type} [DecidableEq α] (d : α) : Mem α → Nat → List α → Mem α
  | m, _, [] => m
  | m, a, v :: t => Memory.setRange d (Memory.set d m a v) (a + 1) t

/-- Read consecutive addresses. -/
def Memory.getRange {α : Type} (d : α) (m : Mem α) (a n : Nat) : List α :=
  (List.range n).map fun i => Memory.get d m (a + i)

/-- Everything at addresses below `lo` or at and above `hi`. -/
def Memory.clear {α : Type} (m : Mem α) (lo hi : Nat) : Mem α := m.filter fun e => e.1 < lo || hi ≤ e.1

/-! ### Time, stamps and free values -/

/-- The voted time in ticks (R413). -/
def State.now (s : State) : Nat := s.tk.now

/-- HOLDOVER of a stamp taken now (R419). -/
def State.holdover (s : State) : Bool := s.tk.state != .locked

/-- A stamp of time `t` taken now. -/
def State.stampAt (s : State) (t : Nat) : BitVec 64 := shortTime false s.holdover t

/-- The stamp of this moment. -/
def State.stamp (s : State) : BitVec 64 := s.stampAt s.now

/-- Full time of a short time a command carries (R11). -/
def State.full (s : State) (a : BitVec 64) : Nat := resolveShort s.now a

/-- A free value of `w` bits and the state that has used it up (notes/assumptions/19.md). -/
def State.takeFree (s : State) (w : Nat) : Nat × State :=
  (Config.freeNat s.freeCtr % 2 ^ w, { s with freeCtr := s.freeCtr + 1 })

/-- Put something out. -/
def State.emit (s : State) (o : Output) : State := { s with out := s.out ++ [o] }

/-! ### Rewrites of the Ledger (R33–R35) -/

/-- What the MEMORY entry of a Reserve channel shows (R45). -/
def ResCh.info (c : ResCh) : ModuleInfo :=
  { state := c.state, ranks := c.ranks, rateMts := c.rateMts, vendor := c.vendor, capacity := c.capacity, features := c.features }

/-- What a rewrite that begins now records. -/
def State.ledgerView (s : State) : LedgerView :=
  { usable := s.ledger.usable, dies := s.ledger.dies, spares := s.ledger.spares
    keys := s.ledger.keys.map fun k => (k.state, k.usage, k.keyId), modules := s.reserve.ch.map ResCh.info }

/-- A change of what the Ledger records is part of this commit (R35). -/
def State.ledgerChange (s : State) : State := { s with ledger := { s.ledger with changes := s.ledger.changes + 1 } }

/-- R33: the first increment of a rewrite, which records what has committed before it. -/
def State.startRewrite (s : State) : State :=
  { s with ledger := { s.ledger with dirty := true, generation := s.ledger.generation + 1, shown := s.ledgerView } }

/-- R34, R35, R37: what a commit from `s` to `s'` changed of the Ledger starts one rewrite, or is taken in by a further one while
a rewrite runs. The first rewrite of a boot takes in everything before it; in SAFE_STATE there is none. -/
def State.ledgerCommit (s s' : State) : State :=
  if s'.ledger.changes = s.ledger.changes then s'
  else if !s'.ledger.firstDone || s'.teller.safe then s'
  else if s'.ledger.dirty then { s' with ledger := { s'.ledger with again := true } }
  else s'.startRewrite

/-- The state after a command: the Ledger is rewritten where the command changed it (R35), and what no command changes stays as it
was, the fuses (R42) and the waiting commands. -/
def settled (s s' : State) : State := { State.ledgerCommit s s' with fuse := s.fuse, pending := s.pending }

/-- The outcome of a command. -/
def settle (s s' : State) : Host.Outcome State Fault Refusal := .next (settled s s')

/-! ### MSI-X (R332, R450, R501) -/

/-- R501: a masked vector sets its pending bit; nothing is sent while the link is down. -/
def State.sendVector (v : Nat) (s : State) : State :=
  if !s.host.linkUp then s
  else if (s.host.msix.getD v {}).masked then
    { s with host := { s.host with msix := s.host.msix.modify v fun e => { e with pending := true } } }
  else s.emit (.msix v)

/-- R332: vector 0 at most once in 1 µs. -/
def State.sendVector0 (s : State) : State :=
  if s.host.v0Hold then { s with host := { s.host with v0Owed := true } }
  else
    let s := s.sendVector 0
    { s with host := { s.host with v0Hold := true } }

/-- R450: vector 2 at most once in 100 µs. -/
def State.sendVector2 (s : State) : State :=
  if s.host.v2Hold then { s with host := { s.host with v2Owed := true } }
  else
    let s := s.sendVector 2
    { s with host := { s.host with v2Hold := true } }

/-! ### EVENT_FLAGS (R449) -/

/-- Bits of EVENT_FLAGS. -/
def evTakeover : Nat := 1
def evTimeFault : Nat := 3
def evTemp : Nat := 6
def evVoltage : Nat := 7
def evAgeing : Nat := 8
def evSpareMapped : Nat := 10
def evHardSuspect : Nat := 12
def evVaultUncorr : Nat := 13
def evReserve : Nat := 14
def evPort : Nat := 15
def evLane : Nat := 16
def evSysref : Nat := 17
def evKernelRestart : Nat := 18
def evCdcStall : Nat := 19
def evCdcOverrun : Nat := 20
def evReplyDiscard : Nat := 21
def evLedger : Nat := 22
def evInput : Nat := 23
def evSendSeq : Nat := 24
def evSchedLate : Nat := 25
def evPps : Nat := 26
def evTkrefLost : Nat := 27

/-- A channel votes or leads (R438). -/
def Channel.active (c : Channel) : Bool := c.st == .lead || c.st == .check

/-- A power of two as a flag. -/
def flagBit (b : Bool) (i : Nat) : Nat := if b then 2 ^ i else 0

/-- Some channel is neither LEAD nor CHECK (R449). -/
def State.degraded (s : State) : Bool := s.teller.channels.any fun c => !c.active

/-- The tiles of rank r by column (R179). -/
def XArray.rank (x : XArray) (r : Nat) : List (Option Nat) := (List.range 8).map fun k => x.pos.getD (8 * r + k) none

/-- X_DEGRADED: a pool holds a dead position (R211). -/
def XArray.degraded (x : XArray) : Bool :=
  (List.range 16).any fun r => x.roles.getD r .free != .free && (x.rank r).any Option.isNone

/-- R449: the word, event bits as latched and condition bits as they hold. -/
def State.eventFlags (s : State) : BitVec 32 :=
  s.health.events ||| BitVec.ofNat 32 (flagBit s.degraded 0 + flagBit s.teller.safe 2 + flagBit s.holdover 4
    + flagBit (0 < s.health.throttle) 5 + flagBit s.xa.degraded 9 + flagBit s.vault.auditHold 11)

/-- R449: an event occurs. -/
def State.raise (i : Nat) (s : State) : State :=
  { s with health := { s.health with events := s.health.events ||| BitVec.ofNat 32 (2 ^ i) } }

/-- R450: vector 2 when some bit of EVENT_FLAGS went from 0 to 1. -/
def noticeFlags (s s' : State) : State :=
  if s'.eventFlags &&& ~~~ s.eventFlags != 0 then s'.sendVector2 else s'

/-- The outcome of a command that can move EVENT_FLAGS. -/
def settleFlags (s s' : State) : Host.Outcome State Fault Refusal := settle s (noticeFlags s s')

/-! ### Counters -/

def State.updHealth (f : Health → Health) (s : State) : State := { s with health := f s.health }
def State.updTk (f : Tk → Tk) (s : State) : State := { s with tk := f s.tk }
def State.updTeller (f : Teller → Teller) (s : State) : State := { s with teller := f s.teller }
def State.updLane (i : Nat) (f : Lane → Lane) (s : State) : State := { s with lanes := s.lanes.modify i f }
def State.updOctet (i : Nat) (f : Octet → Octet) (s : State) : State := { s with octets := s.octets.modify i f }
def State.updPort (i : Nat) (f : Port → Port) (s : State) : State := { s with ports := s.ports.modify i f }
def State.updXa (f : XArray → XArray) (s : State) : State := { s with xa := f s.xa }
def State.updVault (f : Vault → Vault) (s : State) : State := { s with vault := f s.vault }
def State.updRes (f : Reserve → Reserve) (s : State) : State := { s with reserve := f s.reserve }
def State.updCh (c : Nat) (f : ResCh → ResCh) (s : State) : State :=
  s.updRes fun r => { r with ch := r.ch.modify c f }
def State.updInput (i : Nat) (f : FeInput → FeInput) (s : State) : State :=
  { s with fe := { s.fe with inputs := s.fe.inputs.modify i f } }
def State.updDma (i : Nat) (f : DmaCh → DmaCh) (s : State) : State := { s with dma := s.dma.modify i f }
def State.updClerk (i : Nat) (f : Clerk → Clerk) (s : State) : State := { s with clerks := s.clerks.modify i f }
def State.updUsable (f : Usable → Usable) (s : State) : State :=
  { s with ledger := { s.ledger with usable := f s.ledger.usable } }

def State.lane (s : State) (i : Nat) : Lane := s.lanes.getD i {}
def State.octet (s : State) (i : Nat) : Octet := s.octets.getD i {}
def State.port (s : State) (i : Nat) : Port := s.ports.getD i {}
def State.input (s : State) (i : Nat) : FeInput := s.fe.inputs.getD i {}
def State.ch (s : State) (c : Nat) : ResCh := s.reserve.ch.getD c {}
def State.dmaCh (s : State) (i : Nat) : DmaCh := s.dma.getD i {}
def State.clerk (s : State) (i : Nat) : Clerk := s.clerks.getD i {}

/-- A counter of a port's record advances (R123). -/
def State.countPort (p : Nat) (f : PortCounters → PortCounters) (s : State) : State :=
  s.updPort p fun q => { q with cnt := f q.cnt }

/-! ### The error log (R298–R301, R457, R458) -/

/-- A 32 B log entry: header of R298 and the 16 B of detail. -/
def logEntry (kind cls unit count : Nat) (time : BitVec 64) (detail : List Byte) : List Byte :=
  le 2 kind ++ le 1 cls ++ le 1 unit ++ le 4 count ++ le 8 time.toNat ++ slice detail 0 16

/-- R457: a new entry; the oldest is overwritten when 4,096 are held, and counts as lost if no LOG_READ covered it
(R448). The AO mirror keeps the 256 newest. -/
def Log.add (l : Log) (e : List Byte) : Log :=
  let full := l.entries.length ≥ 4096
  let lost := full && (match l.entries with | (n, _) :: _ => l.readMark ≤ n | [] => false)
  { l with
    entries := (if full then l.entries.drop 1 else l.entries) ++ [(l.next, e)]
    next := (l.next + 1) % 2 ^ 32
    lost := if lost then satAdd 32 l.lost 1 else l.lost
    mirror := (if l.mirror.length ≥ 256 then l.mirror.drop 1 else l.mirror) ++ [e] }

/-- A log entry stamped now. -/
def State.logAdd (kind cls unit : Nat) (detail : List Byte) (s : State) : State :=
  { s with log := s.log.add (logEntry kind cls unit 1 s.stamp detail) }

/-- Whether a kept entry merges with a new correctable one: KIND, unit, address and source agree (R301). `key` picks
the detail bytes that are address and source. -/
def mergeable (kind cls unit : Nat) (detail : List Byte) (key : List Nat) (e : List Byte) : Bool :=
  u16 e 0 == kind && u8 e 2 == cls && u8 e 3 == unit && key.all fun o => u8 e (16 + o) == u8 detail o

/-- R301: COUNT advances by 1 and REPEAT takes its current value. -/
def mergeEntry (detail : List Byte) (vaultKind : Bool) (e : List Byte) : List Byte :=
  let e := patch e 4 (le 4 (satAdd 32 (u32 e 4) 1))
  if vaultKind then patch e 22 (le 1 (u8 detail 6)) else e

/-- R301: a correctable event merges into one of the 64 most recent entries, or makes a new one. -/
def State.logMerge (kind cls unit : Nat) (detail : List Byte) (key : List Nat) (s : State) : State :=
  let recent := (s.log.entries.drop (s.log.entries.length - 64))
  match recent.reverse.find? fun e => mergeable kind cls unit detail key e.2 with
  | some (n, old) =>
    let new := mergeEntry detail (kind == 0x0101) old
    { s with log := { s.log with
        entries := s.log.entries.map (fun e => if e.1 == n then (n, new) else e)
        mirror := s.log.mirror.map (fun e => if e == old then new else e) } }
  | none => s.logAdd kind cls unit detail

/-! ### Units: presence and use (R41–R43, Table — Variants) -/

/-- COUNT of a unit class; 0 for no class (R41). -/
def unitCount (cls : Nat) : Nat := [0, 132, 16, 4, 3, 2, 8, 64, 1, 1, 1].getD cls 0

/-- PRESENT of unit n of a class: the fuses (R42). -/
def presentUnit (v : Variant) (cls n : Nat) : Bool :=
  n < unitCount cls &&
  match cls with
  | 1 => v != .l || n < 64 || 128 ≤ n
  | 2 => v != .l || n < 8
  | 3 => true
  | 4 => true
  | 5 => v != .l || n < 1
  | 6 => v == .a
  | 7 => v != .l || n < 32
  | 8 => v != .x
  | 9 => v == .a
  | 10 => v == .a
  | _ => false

def State.present (s : State) (cls n : Nat) : Bool := presentUnit s.fuse.variant cls n

/-- USABLE of unit n of a class (R42). -/
def Usable.get (u : Usable) (cls n : Nat) : Bool :=
  match cls with
  | 1 => u.tiles.getD n false
  | 2 => u.clerks.getD n false
  | 3 => u.dma.getD n false
  | 4 => u.teller.getD n false
  | 5 => u.dies.getD n false
  | 6 => u.resCh.getD n false
  | 7 => u.octets.getD n false
  | 8 => u.beamformer
  | 9 => u.trigger
  | 10 => u.reserve
  | _ => false

/-- USABLE of unit n of a class becomes b. -/
def Usable.set (u : Usable) (cls n : Nat) (b : Bool) : Usable :=
  match cls with
  | 1 => { u with tiles := u.tiles.set n b }
  | 2 => { u with clerks := u.clerks.set n b }
  | 3 => { u with dma := u.dma.set n b }
  | 4 => { u with teller := u.teller.set n b }
  | 5 => { u with dies := u.dies.set n b }
  | 6 => { u with resCh := u.resCh.set n b }
  | 7 => { u with octets := u.octets.set n b }
  | 8 => { u with beamformer := b }
  | 9 => { u with trigger := b }
  | 10 => { u with reserve := b }
  | _ => u

def State.usable (s : State) (cls n : Nat) : Bool := s.ledger.usable.get cls n

/-- USABLE of a unit changes, and the Ledger with it (R35). -/
def State.setUsable (cls n : Nat) (b : Bool) (s : State) : State :=
  if s.usable cls n == b then s else (s.updUsable fun u => u.set cls n b).ledgerChange

/-! ### Handles (R341, R342, R344) -/

/-- KIND of an object (R341). -/
def Obj.kind : Obj → Nat
  | .xprod _ => 1
  | .beam _ => 2
  | .trigRule _ => 3
  | .capture _ => 4
  | .kernel _ => 5
  | .schedule _ _ => 6
  | .keySlot _ => 7

def handleKind (h : Handle) : Nat := bits h.toNat 31 28
def handleGen (h : Handle) : Nat := bits h.toNat 27 12
def handleIndex (h : Handle) : Nat := bits h.toNat 11 0

def mkHandle (kind gen idx : Nat) : Handle := BitVec.ofNat 32 (kind * 2 ^ 28 + gen % 2 ^ 16 * 2 ^ 12 + idx % 2 ^ 12)

/-- The entry of a live handle (R341). -/
def State.find (s : State) (h : Handle) : Option Entry := s.handles.live.find? fun e => e.h == h

/-- Generation of an index: 1 until it is freed for the first time (R342). -/
def Handles.genOf (t : Handles) (i : Nat) : Nat := Memory.get 1 t.gens i

/-- The index freed longest ago (R342): at boot all count as freed in ascending order. -/
def Handles.next (t : Handles) : Option Nat :=
  if t.virgin < 4096 then some t.virgin else t.freed.head?

/-- R342: a creation takes the index. -/
def Handles.alloc (t : Handles) (o : Obj) : Option (Handle × Handles) :=
  t.next.map fun i =>
    let h := mkHandle o.kind (t.genOf i) i
    (h, { t with
      virgin := if t.virgin < 4096 then t.virgin + 1 else t.virgin
      freed := if t.virgin < 4096 then t.freed else t.freed.drop 1
      live := t.live ++ [{ h := h, st := .created, obj := o }] })

/-- R342: freeing advances the generation, 65,535 wrapping to 1. -/
def Handles.free (t : Handles) (h : Handle) : Handles :=
  let i := handleIndex h
  let g := handleGen h
  { t with
    live := t.live.filter fun e => e.h != h
    freed := t.freed ++ [i]
    gens := Memory.set 1 t.gens i (if g = 65535 then 1 else g + 1) }

/-- Change the entry of one handle. -/
def State.updEntry (h : Handle) (f : Entry → Entry) (s : State) : State :=
  { s with handles := { s.handles with live := s.handles.live.map fun e => if e.h == h then f e else e } }

def State.updXprod (h : Handle) (f : Xprod → Xprod) (s : State) : State :=
  s.updEntry h fun e => match e.obj with | .xprod x => { e with obj := .xprod (f x) } | _ => e
def State.updBeam (h : Handle) (f : Beam → Beam) (s : State) : State :=
  s.updEntry h fun e => match e.obj with | .beam x => { e with obj := .beam (f x) } | _ => e
def State.updRule (h : Handle) (f : TrigRule → TrigRule) (s : State) : State :=
  s.updEntry h fun e => match e.obj with | .trigRule x => { e with obj := .trigRule (f x) } | _ => e
def State.updCapture (h : Handle) (f : Capture → Capture) (s : State) : State :=
  s.updEntry h fun e => match e.obj with | .capture x => { e with obj := .capture (f x) } | _ => e
def State.updKernel (h : Handle) (f : Kernel → Kernel) (s : State) : State :=
  s.updEntry h fun e => match e.obj with | .kernel x => { e with obj := .kernel (f x) } | _ => e
def State.updSched (h : Handle) (f : SchedSlot → SchedSlot) (s : State) : State :=
  s.updEntry h fun e => match e.obj with | .schedule n x => { e with obj := .schedule n (f x) } | _ => e

def State.xprod? (s : State) (h : Handle) : Option Xprod :=
  (s.find h).bind fun e => match e.obj with | .xprod x => some x | _ => none
def State.beam? (s : State) (h : Handle) : Option Beam :=
  (s.find h).bind fun e => match e.obj with | .beam x => some x | _ => none
def State.rule? (s : State) (h : Handle) : Option TrigRule :=
  (s.find h).bind fun e => match e.obj with | .trigRule x => some x | _ => none
def State.capture? (s : State) (h : Handle) : Option Capture :=
  (s.find h).bind fun e => match e.obj with | .capture x => some x | _ => none
def State.kernel? (s : State) (h : Handle) : Option Kernel :=
  (s.find h).bind fun e => match e.obj with | .kernel x => some x | _ => none

/-- State of a handle; CREATED where it is not live. -/
def State.hstate (s : State) (h : Handle) : HState := ((s.find h).map (·.st)).getD .created

/-- R344: the codes. -/
def HState.code : HState → Nat
  | .created => 0
  | .armed => 1
  | .running => 2
  | .stopping => 3
  | .stopped => 4
  | .faulted => 5

/-- A handle changes state. -/
def State.setState (h : Handle) (st : HState) (s : State) : State := s.updEntry h fun e => { e with st := st }

/-- ARMED, RUNNING or STOPPING (R421). -/
def HState.active (st : HState) : Bool := st == .armed || st == .running || st == .stopping

/-- Handles live with an object for which `p` holds, in order of creation. -/
def State.handlesOf (s : State) (p : Entry → Bool) : List Handle := (s.handles.live.filter p).map (·.h)

/-- R421: no XPROD, BEAM or CAPTURE handle ARMED, RUNNING or STOPPING and no SCHEDULE handle CREATED. -/
def State.idleForStep (s : State) : Bool :=
  s.handles.live.all fun e =>
    match e.obj with
    | .xprod _ | .beam _ | .capture _ => !e.st.active
    | .schedule _ _ => e.st != .created
    | _ => true

/-! ### Idling -/

/-- One TK cycle of a powered device (R413): the voted counters advance while the logic has power. -/
def idle (s : State) : State :=
  if s.boot.phase == .off || s.boot.phase == .quiet then s else s.updTk Tk.cycle

end Sys2Proof.Machine
end

