-- ==== Sys2Proof/Machine/Clock.lean ====
section
/-! DEFINITION. The Timekeeper's discipline states (R419, R423): entering and leaving them, and stepping the time. -/
namespace Sys2Proof.Machine

/-- The mean of a list of signed numbers; its rounding is the device's. -/
def meanInt (l : List Int) : Int := if l.isEmpty then 0 else divOpen l.sum l.length

/-- The last n entries. -/
def lastN {α : Type} (n : Nat) (l : List α) : List α := l.drop (l.length - n)

/-- Leaving LOCKED counts one LOCK_LOSS (R429). -/
def Tk.leaveLocked (k : Tk) : Tk := if k.state == .locked then { k with lockLoss := satAdd 16 k.lockLoss 1 } else k

/-- R419, R423: loss of the source or of TKREF. From FREERUN and HOLDOVER the state is kept (R416). -/
def Tk.toHoldover (k : Tk) : Tk :=
  if k.state == .acquire || k.state == .locked then
    let y := if k.yls.length ≥ 64 then meanInt (lastN 64 k.yls) else k.yLoop
    { k.leaveLocked with state := .holdover, src := .none, hop := 15, holdSince := k.now, yLoop := y, lockRun := 0, unlockRun := 0 }
  else { k with src := .none, hop := 15 }

/-- R419: entering ACQUIRE. -/
def Tk.toAcquire (k : Tk) : Tk := { k.leaveLocked with state := .acquire, lockRun := 0, unlockRun := 0 }

/-- R419: entering LOCKED. -/
def Tk.toLocked (k : Tk) : Tk :=
  { k with state := .locked, lastLock := shortTime false false k.now, lockSince := k.now, unlockRun := 0, yls := [], ys := [] }

/-- A point of the time scale after the scale moves by d ticks. -/
def shiftTicks (t : Nat) (d : Int) : Nat := ((t : Int) + d).toNat

/-- R422: all three counters move by d ticks at once, never before the epoch; durations measured from earlier points
keep their length. -/
def Tk.move (k : Tk) (d : Int) : Tk :=
  { k.setCnt ((k.voted : Int) + d * 2 ^ 48).toNat with
    isSet := true, lastEdge := k.lastEdge.map fun t => shiftTicks t d, holdSince := shiftTicks k.holdSince d
    lockSince := shiftTicks k.lockSince d }

/-- The Timekeeper changes and its time may jump: the extended multiblock clocks of the links run on, so their boundaries are at
other voted times (R82). -/
def State.stepTk (f : Tk → Tk) (s : State) : State :=
  let t := s.updTk f
  let d : Int := (t.now : Int) - (s.now : Int)
  if d = 0 then t
  else { t with links := t.links.map fun (k : Link) => { k with lemc := k.lemc.map fun x => shiftTicks x d } }

/-- R420: a peer source is lost when its port leaves UP. -/
def Tk.losePort (k : Tk) (p : Nat) : Tk := if k.src == .peer p then k.toHoldover else k

end Sys2Proof.Machine
end

