-- ==== Sys2Proof/Machine/Ports.lean ====
section
/-! DEFINITION. Fabric ports below the packet meanings: lanes of a port, packet layouts (R95–R104), the port states
(R115, R116), authentication (R125, R126), and the parsing of control packets (R100). -/
namespace Sys2Proof.Machine

/-! ### Lanes of a port -/

/-- Lanes of a width code (R57). -/
def widthOf (code : Nat) : Nat := 2 ^ code

/-- TX_POWER and RX_POWER of a settings word (R58). -/
def Lane.txPower (l : Lane) : Nat := bits l.word.toNat 12 11
def Lane.rxPower (l : Lane) : Nat := bits l.word.toNat 14 13

/-- The transmitter of a lane is ON and has resumed (R67). -/
def Lane.sends (l : Lane) : Bool := l.txPower == 0 && !l.txResume

/-- Width of fabric port p: the WIDTH of its octet (R57, R90). -/
def State.portWidth (s : State) (p : Nat) : Nat := widthOf (s.octet p).width.toNat

/-- The lanes of fabric port p (R90, Table — Numbering of units). -/
def State.portLanes (s : State) (p : Nat) : List Nat := (List.range (s.portWidth p)).map (8 * p + ·)

/-- R116: every lane of the port is at TX ON and RX ON. -/
def State.portAwake (s : State) (p : Nat) : Bool :=
  (s.portLanes p).all fun i => (s.lane i).sends && (s.lane i).rxPower == 0 && !(s.lane i).rxResume

/-- R116: a lane away from TX ON and RX ON counts as not aligned. -/
def State.portAligned (s : State) (p : Nat) : Bool := (s.port p).aligned && (s.octet p).role == 2 && s.portAwake p

/-- The plane and peer that the port's markers show (R74). -/
def State.portMarker (s : State) (p : Nat) : Option (Nat × Nat) :=
  ((s.port p).markers.head?).map fun m => (m.2.plane.toNat, m.2.peer)

def PortState.code : PortState → Nat
  | .unbound => 0
  | .down => 1
  | .refused => 2
  | .linked => 3
  | .up => 4
  | .quarantined => 5

/-! ### Packets -/

/-- The common 8 bytes of a control packet (R100). -/
def ctrlHead (type len src dst plane : Nat) : List Byte :=
  le 1 type ++ [1] ++ le 1 src ++ le 1 dst ++ le 2 plane ++ le 2 len

/-- A packet body followed by its CRC-32C (R96, R100). -/
def withCrc (l : List Byte) : List Byte := l ++ le 4 (crc32c l)

/-- Own peer ID as packets carry it: 0 outside a plane (R114). -/
def Plane.ownPeer (p : Plane) : Nat := if p.joined then p.peerId else 0
def Plane.ownPlane (p : Plane) : Nat := if p.joined then p.planeId.toNat else 0

def State.ctrlHeadFor (s : State) (p type len : Nat) : List Byte :=
  ctrlHead type len s.plane.ownPeer (s.port p).entry.peer s.plane.ownPlane

/-- R104: a CMD packet of KIND k with a body that already holds its tag. -/
def cmdPacket (head : List Byte) (slot kind : Nat) (body : List Byte) : List Byte :=
  let pad := (8 - (20 + body.length) % 8) % 8
  withCrc (head ++ le 1 slot ++ le 1 kind ++ List.replicate 6 0 ++ body ++ List.replicate pad 0)

/-- LENGTH of a CMD packet with a body of n bytes (R104). -/
def cmdLength (n : Nat) : Nat := (20 + n + 7) / 8 * 8

/-- R125: the tag of a CMD body under a key: bytes 2–5 of the packet, then the body. -/
def cmdTag (key head body : List Byte) : List Byte := tagOf key (slice head 2 4 ++ body)

/-- Key slot n of the Ledger (R51). -/
def State.keySlot (s : State) (n : Nat) : KeySlot := s.ledger.keys.getD n {}
def State.updKey (n : Nat) (f : KeySlot → KeySlot) (s : State) : State :=
  { s with ledger := { s.ledger with keys := s.ledger.keys.modify n f } }

/-! ### Entering and leaving UP -/

/-- R115: what leaving UP discards: receive buffers, partly received packets and queued credited packets, each queued DATA
counting one TX_DROP; ASYM is cleared (R426). -/
def Port.leaveUp (q : Port) : Port :=
  { q with
    rx := {}
    rxHeld := []
    txData := []
    cnt := { q.cnt with txDrop := satAdd 32 q.cnt.txDrop q.txData.length }
    time := {}
    stalled := false }

/-- R107, R121, R424: counts and sequences restart on entering UP; LINK_EPOCH counts the entry (R100). -/
def Port.enterUp (q : Port) (partnerEpoch : BitVec 32) : Port :=
  { q with
    epochAtUp := partnerEpoch, epochOwn := q.epochOwn + 1
    txSent := 0, txReleased := 0, rxCount := 0, rxReleased := 0, rxHeld := [], seqTx := 0, seqRx := 0xFFFF, time := {}, stalled := false }

/-- R113, R128: an unbound or quarantined port sends only markers and idle blocks. -/
def PortTx.hush (t : PortTx) : PortTx := { t with urgent := [], urgentNow := [], bulk := [], bulkNow := [], credit := false }

/-- A port takes a state (R115); `quiet` when the cause is a received LEAVING (R118, R449). Received commands of the
port that the Teller has not taken stay with the Teller (R127). -/
def State.portTo (p : Nat) (st : PortState) (quiet : Bool) (s : State) : State :=
  let q := s.port p
  if q.state == st then s
  else
    let wasUp := q.state == .up
    let q := if wasUp then q.leaveUp else q
    let q := if st == .unbound || st == .quarantined then { q with tx := q.tx.hush } else q
    let q := { q with state := st, lastChange := s.stamp }
    let s := s.updPort p fun _ => q
    let s := if wasUp then s.updTk fun k => k.losePort p else s
    let s := if st == .refused then s.updHealth fun h => { h with portRefused := satAdd 32 h.portRefused 1 } else s
    if (wasUp && !quiet) || st == .refused || st == .quarantined then s.raise evPort else s

/-- R115, R116: the state that alignment and markers give a bound port that is not quarantined. -/
def State.portSettled (s : State) (p : Nat) : PortState :=
  if !(s.port p).entry.bound then .unbound
  else if !s.portAligned p then .down
  else match s.portMarker p with
    | none => .down
    | some (pl, peer) =>
      if pl = 0 then .down
      else if pl ≠ s.plane.ownPlane || !s.plane.joined || peer ≠ (s.port p).entry.peer then .refused
      else if (s.port p).state == .up then .up
      else .linked

/-- R115: re-evaluate a port after its alignment, markers or entry changed. -/
def State.portEval (p : Nat) (s : State) : State :=
  if (s.port p).state == .quarantined then s else s.portTo p (s.portSettled p) false

/-- R128: 16 failures within any 1,000 ms quarantine the port. -/
def State.authFailure (p : Nat) (s : State) : State :=
  let now := s.now
  let q := s.port p
  let times := lastN 16 (q.authTimes.filter (fun t => now < t + tickSec) ++ [now])
  let s := s.updPort p fun q => { q with authTimes := times }
  if times.length ≥ 16 then
    let s := s.updPort p fun q => { q with
      authTimes := []
      quarantineUntil := now + q.entry.holdOff * tickSec
      cnt := { q.cnt with quarantine := satAdd 16 q.cnt.quarantine 1 } }
    let s := s.logAdd 0x0602 0 0xFF (le 1 p ++ le 1 q.entry.peer)
    s.portTo p .quarantined false
  else s

/-! ### Checks of received packets (R100, R120, R124) -/

/-- Steps 2 to 4 of R120 that every packet with sound framing shares: CRC, version, plane and peers. -/
inductive Sound where
  | good | form | crc
  deriving DecidableEq, Repr

/-- The CRC-32C in the last 4 bytes covers the rest (R96, R100). -/
def crcLastOk (l : List Byte) : Bool :=
  let n := l.length
  4 ≤ n && u32 l (n - 4) == crc32c (l.take (n - 4))

/-- R120 step 4: PLANE and DST_PEER are the receiver's own, SRC_PEER the port's bound peer. -/
def State.addressed (s : State) (p src dst plane : Nat) : Bool :=
  s.plane.joined && plane == s.plane.ownPlane && dst == s.plane.ownPeer && src == (s.port p).entry.peer

/-- R100: the validity of a control packet of one TYPE and fixed length, whose reserved stretches are `zero`. -/
def State.ctrlSound (s : State) (p type len : Nat) (zero : List (Nat × Nat)) (b : List Byte) : Sound :=
  if !crcLastOk b then .crc
  else if u8 b 0 == type && u8 b 1 == 1 && u16 b 6 == len && b.length == len
      && zero.all (fun z => zeroAt b z.1 z.2) && s.addressed p (u8 b 2) (u8 b 3) (u16 b 4) then .good
  else .form

/-- Count a packet that is not sound (R100). -/
def State.countUnsound (p : Nat) (v : Sound) (s : State) : State :=
  match v with
  | .good => s
  | .crc => s.countPort p fun c => { c with dropCrc := satAdd 32 c.dropCrc 1 }
  | .form => s.countPort p fun c => { c with dropForm := satAdd 32 c.dropForm 1 }

/-- The fabric layer receives nothing from a port that is unbound, not aligned or quarantined (R94, R113, R128). -/
def State.portHears (s : State) (p : Nat) : Bool :=
  (s.port p).state != .unbound && (s.port p).state != .quarantined && s.portAligned p

/-- The port bound to a peer, if any (R113). -/
def State.portOfPeer (s : State) (peer : Nat) : Option Nat :=
  (List.range 64).find? fun p => (s.port p).entry.bound && (s.port p).entry.peer == peer && (s.octet p).role == 2

/-- R126: the highest sequence accepted from a peer for the usage of a slot since the slot was loaded. -/
def KeySlot.highOf (k : KeySlot) (peer : Nat) : Nat := ((k.high.find? fun e => e.1 == peer).map (·.2)).getD 0
def KeySlot.setHigh (k : KeySlot) (peer n : Nat) : KeySlot :=
  { k with high := (k.high.filter fun e => e.1 != peer) ++ [(peer, n)] }

/-- R126: a sequence of a peer is accepted under slot `slot`: the highest of its usage, for every slot of that usage
(notes/assumptions/48.md). -/
def State.acceptSeq (slot peer n : Nat) (s : State) : State :=
  let usage := (s.keySlot slot).usage
  let take (k : KeySlot) : KeySlot := if k.state != 0 && k.usage == usage then k.setHigh peer (max n (k.highOf peer)) else k
  { s with ledger := { s.ledger with keys := s.ledger.keys.map take } }

end Sys2Proof.Machine
end

