-- ==== Sys2Proof/Machine/Line.lean ====
section
/-! DEFINITION. The block layer: 66-bit blocks and their scrambler (R61), packets as blocks (R92, R93), what the lanes of each
role send at each block time (R62, R74, R81, R85, R90, R91, R108), PRBS and injected errors (R70, R71), and what the receiver
of a fabric port takes out of its lanes' blocks (R62, R75, R90, R91, R94). -/
namespace Sys2Proof.Machine

/-! ### Blocks (R61, R92) -/

def dataSh : BitVec 2 := 2
def ctrlSh : BitVec 2 := 1

/-- A block of at most 8 bytes, byte 0 lowest. -/
def blockOf (sh : BitVec 2) (b : List Byte) : Block := { sh := sh, payload := BitVec.ofNat 64 (leNat 8 b) }

/-- The type of a control block: byte 0. -/
def blockType (b : Block) : Nat := b.payload.toNat % 256

def idleBlock : Block := blockOf ctrlSh [0x1E]
def startBlock (urgent : Bool) (type blocks : Nat) : Block :=
  blockOf ctrlSh ((if urgent then 0x2D else 0x78) :: (le 1 type ++ le 2 blocks))
def endBlock (urgent aborted : Bool) : Block :=
  blockOf ctrlSh [if urgent then 0xD2 else 0x87, if aborted then 1 else 0]
def creditBlock (released : BitVec 16) : Block := blockOf ctrlSh (0x55 :: (le 2 released.toNat ++ le 2 (~~~ released).toNat))

/-- Data blocks of 8 bytes each (R93); the first argument bounds their number. -/
def dataBlocks : Nat → List Byte → List Block
  | 0, _ => []
  | n + 1, l => if l.isEmpty then [] else blockOf dataSh (l.take 8) :: dataBlocks n (l.drop 8)

/-- A packet as blocks (R93). -/
def frameBlocks (urgent aborted : Bool) (b : List Byte) : List Block :=
  let n := (b.length + 7) / 8
  startBlock urgent (u8 b 0) n :: (dataBlocks n b ++ [endBlock urgent aborted])

/-! ### The scrambler x^58 + x^39 + 1 (R61) -/

/-- 64 bits after the 58 before them; each sent bit is the bit, the one sent 39 before and the one sent 58 before. -/
def scramble (before v : Nat) : Nat :=
  let first := (v ^^^ before ^^^ (before >>> 19)) % 2 ^ 39
  let sent := before + first * 2 ^ 58
  (v ^^^ sent ^^^ (sent >>> 19)) % 2 ^ 64

def descramble (before r : Nat) : Nat :=
  let all := before + r * 2 ^ 58
  (r ^^^ all ^^^ (all >>> 19)) % 2 ^ 64

/-- Even parity of each bit position of the bytes of a payload (R74). -/
def bip8 (v : BitVec 64) : BitVec 8 := (le 8 v.toNat).foldl (· ^^^ ·) 0

/-- A block as a lane sends it: the payload scrambled, but for an alignment marker's (R61, R74). -/
def Lane.encode (l : Lane) (b : Block) (marker : Bool) : Block × Lane :=
  if marker then (b, { l with bip := 0 })
  else
    let p := BitVec.ofNat 64 (scramble l.scrambler.toNat b.payload.toNat)
    ({ b with payload := p }, { l with scrambler := BitVec.ofNat 58 (p.toNat / 64), bip := l.bip ^^^ bip8 p })

/-- A received block with its payload descrambled (R61). -/
def Lane.decode (l : Lane) (b : Block) : Block × Lane :=
  ({ b with payload := BitVec.ofNat 64 (descramble l.descrambler.toNat b.payload.toNat) },
    { l with descrambler := BitVec.ofNat 58 (b.payload.toNat / 64) })

/-! ### PRBS (R70) -/

/-- Taps of PRBS7, PRBS15 and PRBS31. -/
def prbsTaps (code : Nat) : Nat × Nat := match code with | 1 => (7, 6) | 2 => (15, 14) | _ => (31, 28)

/-- The next bit of x^n + x^m + 1 after the last n bits, the newest lowest. -/
def lfsrBit (n m s : Nat) : Nat := (s >>> (n - 1) ^^^ s >>> (m - 1)) % 2
def lfsrPush (n s b : Nat) : Nat := (2 * s + b) % 2 ^ n

/-- k bits, the earliest lowest, and the state after them. -/
def lfsrRun (n m : Nat) : Nat → Nat → Nat × Nat
  | 0, s => (0, s)
  | k + 1, s =>
    let b := lfsrBit n m s
    let (v, e) := lfsrRun n m k (lfsrPush n s b)
    (b + 2 * v, e)

/-- k bits of a stream follow the polynomial. -/
def lfsrHolds (n m : Nat) : Nat → Nat → Nat → Bool
  | 0, _, _ => true
  | k + 1, s, v => lfsrBit n m s == v % 2 && lfsrHolds n m k (lfsrPush n s (v % 2)) (v / 2)

/-- The state that the first k bits of a stream seed. -/
def lfsrSeed (n : Nat) : Nat → Nat → Nat → Nat
  | 0, s, _ => s
  | k + 1, s, v => lfsrSeed n k (lfsrPush n s (v % 2)) (v / 2)

/-- R70: a checker seeds itself from a stream and then finds 128 correct bits. -/
def prbsLocks (code : Nat) (invert : Bool) (stream : Nat) : Bool :=
  let (n, m) := prbsTaps code
  let v := if invert then stream % 2 ^ (n + 128) ^^^ (2 ^ (n + 128) - 1) else stream
  lfsrHolds n m 128 (lfsrSeed n n 0 v) (v >>> n)

/-! ### Packets given to a port -/

/-- R108: TRIG goes ahead of TIME. -/
def PortTx.addUrgent (t : PortTx) (trig : Bool) (b : List Block) : PortTx :=
  { t with urgent := if trig then t.urgent.filter (·.1) ++ [(true, b)] ++ t.urgent.filter (!·.1) else t.urgent ++ [(false, b)] }

/-- R108: by rank, CMD, HELLO and HEALTH ahead of DATA ahead of PARTIAL. -/
def PortTx.addBulk (t : PortTx) (rank : Nat) (b : List Block) : PortTx :=
  { t with bulk := t.bulk.filter (fun e => e.1 ≤ rank) ++ [(rank, b)] ++ t.bulk.filter fun e => rank < e.1 }

def State.updTx (p : Nat) (f : PortTx → PortTx) (s : State) : State := s.updPort p fun q => { q with tx := f q.tx }

/-- A bulk packet is given to the transmitter of a port. -/
def State.sendBulk (p rank : Nat) (b : List Byte) (s : State) : State :=
  (s.updTx p fun t => t.addBulk rank (frameBlocks false false b)).emit (.fabric p b)

/-- A PARTIAL that cannot be finished is begun and ends with STATUS aborted (R94, R138). -/
def State.sendAborted (p : Nat) (b : List Byte) (s : State) : State :=
  (s.updTx p fun t => t.addBulk 2 (frameBlocks false true b)).emit (.aborted p)

/-- R109: the 8 waiting urgent packets of a port are all in use. -/
def State.urgentFull (s : State) (p : Nat) : Bool := 8 ≤ (s.port p).tx.urgent.length

/-- An urgent packet is given to the transmitter of a port, or discarded (R109). -/
def State.sendUrgent (p : Nat) (trig : Bool) (b : List Byte) (s : State) : State :=
  if s.urgentFull p then s.countPort p fun c => { c with ctrlDrop := satAdd 32 c.ctrlDrop 1 }
  else (s.updTx p fun t => t.addUrgent trig (frameBlocks true false b)).emit (.fabric p b)

/-! ### What a port sends (R91, R108) -/

/-- Nothing waits and nothing is in progress. -/
def PortTx.quiet (t : PortTx) : Bool :=
  t.urgent.isEmpty && t.urgentNow.isEmpty && t.bulk.isEmpty && t.bulkNow.isEmpty && !t.credit

/-- Steps 3 to 6 of R108: the block at one position. Where a column has begun and nothing waits, it is filled with a CREDIT
block: idle blocks come in whole columns only (R91; notes/assumptions/132.md). -/
def PortTx.nextBlock (t : PortTx) (credit : Block) : Block × PortTx :=
  match t.urgentNow, t.urgent, t.bulkNow, t.bulk with
  | b :: l, _, _, _ => (b, { t with urgentNow := l })
  | [], (_, b :: l) :: r, _, _ => (b, { t with urgentNow := l, urgent := r })
  | [], _, now, wait =>
    if t.credit then (credit, { t with credit := false })
    else match now, wait with
      | b :: l, _ => (b, { t with bulkNow := l })
      | [], (_, b :: l) :: r => (b, { t with bulkNow := l, bulk := r })
      | [], _ => (credit, t)

/-- A run begins after this many columns without one at the latest, well within the 2,048 of R91 (notes/assumptions/132.md). -/
def runEvery : Nat := 1024

/-- R91, R108: one column of w blocks that is not a marker's. -/
def PortTx.column (t : PortTx) (w : Nat) (credit : Block) : List Block × PortTx :=
  let idles := List.replicate w idleBlock
  if 0 < t.run then (idles, { t with run := t.run - 1, sinceRun := t.sinceRun + 1 })
  else if t.urgent.isEmpty && (runEvery ≤ t.sinceRun || t.quiet) then (idles, { t with run := 1, sinceRun := 0 })
  else
    let (l, t) := (List.range w).foldl (fun (e : List Block × PortTx) _ =>
      let (b, t) := e.2.nextBlock credit
      (e.1 ++ [b], t)) ([], t)
    (l, { t with sinceRun := t.sinceRun + 1 })

/-- R74: the alignment marker of lane j of a port. -/
def State.markerBlock (s : State) (p j : Nat) : Block :=
  blockOf ctrlSh ([0x5C] ++ le 1 (j + 16 * (s.octet p).width.toNat) ++ le 1 p ++ le 1 s.plane.ownPeer ++ le 2 s.plane.ownPlane
    ++ le 1 (s.port p).tx.mcount ++ [(s.lane (8 * p + j)).bip])

/-! ### What a lane sends -/

/-- Polarity of the transmit pins (R58). -/
def Lane.onPins (l : Lane) (b : Block) : Block :=
  if bit l.word.toNat 15 then { sh := ~~~ b.sh, payload := ~~~ b.payload } else b

/-- R71: an injected error inverts bit 0 of the payload or of the sync header of one block. -/
def Lane.struckBlock (l : Lane) (b : Block) : Block :=
  if !l.test.strike then b
  else match bits l.test.inject.toNat 3 2 with
    | 1 => { b with payload := b.payload ^^^ 1 }
    | 2 => { b with sh := b.sh ^^^ 1 }
    | _ => b

/-- 66 bits of the generator of a lane (R70, R71). -/
def Lane.prbsBlock (l : Lane) : Block × Lane :=
  let (n, m) := prbsTaps l.test.gen.toNat
  let (v, st) := lfsrRun n m 66 l.test.prbs
  let v := if l.test.invert then v ^^^ (2 ^ 66 - 1) else v
  let v := if l.test.strike && bits l.test.inject.toNat 3 2 == 0 then v ^^^ 1 else v
  ({ sh := BitVec.ofNat 2 v, payload := BitVec.ofNat 64 (v / 4) }, { l with test := { l.test with prbs := st, strike := false } })

/-- One block of a lane that sends: its role's, or under test a generator's or idle blocks; FAR_END sends what its receiver
recovers, which is no state of the device (R69). NEAR_PARALLEL loops ahead of the serialiser, whose pins carry idle blocks. -/
def Lane.send (l : Lane) (b : Block) (marker : Bool) : Option Block × Lane :=
  if !l.sends then (none, l)
  else if !l.test.on then
    let (b, l) := l.encode b marker
    (some (l.onPins b), l)
  else if l.test.loop == 3 then (none, l)
  else if l.test.gen != 0 && l.test.loop != 2 then
    let (b, l) := l.prbsBlock
    (some (l.onPins b), l)
  else
    let (b, l) := l.encode idleBlock false
    (some (l.onPins (if l.test.loop == 2 then b else l.struckBlock b)), { l with test := { l.test with strike := false } })

def State.laneSend (i : Nat) (b : Block) (marker : Bool) (s : State) : State :=
  let (o, l) := (s.lane i).send b marker
  let s := s.updLane i fun _ => l
  match o with
  | some b => s.emit (.block i b)
  | none => s

/-- R74, R90: a column of a port, block j on the lane with index j; markers stand in every 16,384th. -/
def State.sendColumn (p : Nat) (s : State) : State :=
  let w := s.portWidth p
  let t := (s.port p).tx
  let marker := t.col == 0
  let (l, t) := if marker then ((List.range w).map (s.markerBlock p), { t with mcount := (t.mcount + 1) % 256 })
    else t.column w (creditBlock (BitVec.ofNat 16 (s.port p).rxReleased))
  let s := s.updTx p fun _ => { t with col := (t.col + 1) % 16384 }
  l.zipIdx.foldl (fun (s : State) e => s.laneSend (8 * p + e.2) e.1 marker) s

/-- The lanes of an octet send one block each: the port's column, the lane's Ethernet blocks, or idle blocks (R62, R81, R85). -/
def State.sendOctet (o : Nat) (s : State) : State :=
  let lanes := (List.range 8).map (8 * o + ·)
  match (s.octet o).role.toNat with
  | 1 => lanes.foldl (fun (s : State) i => s.laneSend i idleBlock false) s
  | 2 => s.sendColumn o
  | 3 => lanes.foldl (fun (s : State) i =>
      let l := s.lane i
      if l.sends && !l.test.on then (s.updLane i fun x => { x with line := x.line.drop 1 }).laneSend i (l.line.headD idleBlock) false
      else s.laneSend i idleBlock false) s
  | _ => s

/-- Block time of a RATE code, in 10 ps (Table — Lane rates). -/
def blockTime (code : Nat) : Nat := match code with | 0 => 640 | 1 => 512 | _ => 256

/-- One TK cycle, 2 ns, of an octet: a PLL that has not timed out has locked by the end of its group's 25 µs (R54, R56), and
with it running a block leaves when its time is over. -/
def State.octetTick (o : Nat) (s : State) : State :=
  let x := s.octet o
  if x.pll == .starting then
    if x.pllStart + 25000 * tickNs ≤ s.now then s.updOctet o fun x => { x with pll := .locked } else s
  else if x.pll != .locked then s
  else
    let d := blockTime x.rate.toNat
    if d ≤ x.phase + 200 then (s.updOctet o fun x => { x with phase := x.phase + 200 - d }).sendOctet o
    else s.updOctet o fun x => { x with phase := x.phase + 200 }

/-- One TK cycle of all lanes (notes/assumptions/132.md). -/
def State.lineTick (s : State) : State :=
  if s.octets.all fun x => x.pll == .off then s else (List.range 64).foldl (fun s o => s.octetTick o) s

/-! ### Ethernet frames as blocks (R62, R85) -/

/-- Bytes of a frame after its preamble as data blocks and the terminating block, by the number of bytes left for it. -/
def terminate (rest : List Byte) : Block :=
  blockOf ctrlSh (([0x87, 0x99, 0xAA, 0xB4, 0xCC, 0xD2, 0xE1, 0xFF] : List Byte).getD rest.length 0x87 :: rest)

/-- Preamble, frame, and idle blocks that make a gap of at least 12 bytes with an idle block inside. -/
def etherBlocks (frame : List Byte) : List Block :=
  let n := frame.length / 8
  let rest := frame.drop (8 * n)
  blockOf ctrlSh [0x78, 0x55, 0x55, 0x55, 0x55, 0x55, 0x55, 0xD5] :: (dataBlocks n frame
    ++ terminate rest :: List.replicate (if rest.length ≤ 4 then 1 else 2) idleBlock)

/-! ### What a port receives -/

/-- R62: the block a re-centring of the lane discards or repeats; R61: the descrambler. -/
def Lane.take (l : Lane) (bs : List Block) : List Block × Lane :=
  let bs := match l.slip, bs with
    | none, bs => bs
    | some _, [] => []
    | some true, b :: r => b :: b :: r
    | some false, _ :: r => r
  bs.foldl (fun (e : List Block × Lane) b =>
    let (b, l) := e.2.decode b
    (e.1 ++ [b], l)) ([], { l with slip := if bs.isEmpty then l.slip else none })

/-- The marker last seen on a lane. -/
def Port.markerOn (q : Port) (lane : Nat) : Option MarkerSeen := (q.markers.find? fun m => m.1 == lane).map (·.2)

/-- R91: columns after deskew. Where some lanes are in an idle run and others have left it, idle blocks of the longer runs are
discarded. The first argument bounds the work. -/
def deskew : Nat → List (List Block) → List Block
  | 0, _ => []
  | n + 1, l =>
    if l.isEmpty || l.any List.isEmpty then []
    else
      let heads := l.filterMap List.head?
      if heads.all (· == idleBlock) || !heads.any (· == idleBlock) then heads ++ deskew n (l.map List.tail)
      else deskew n (l.map fun q => if q.head? == some idleBlock then q.tail else q)

/-- R75, R90: the port's block stream, lanes in the order of their markers. -/
def State.portStream (p : Nat) (lanes : List (List Block)) (s : State) : List Block × State :=
  let (got, s) := (s.portLanes p).zipIdx.foldl (fun (e : List (Nat × List Block) × State) i =>
    let (b, l) := (e.2.lane i.1).take (lanes.getD i.2 [])
    (e.1 ++ [((((e.2.port p).markerOn i.1).map (·.index)).getD 0, b)], e.2.updLane i.1 fun _ => l)) ([], s)
  let order := (List.range (s.portWidth p)).map fun j => ((got.find? fun e => e.1 == j).map (·.2)).getD []
  (deskew (2 * (order.map List.length).sum + 1) order, s)

/-- What a stretch of the stream yields: a packet's bytes, or a discard and the TYPE of its start block, if it had one. -/
inductive Got where
  | packet (bytes : List Byte)
  | discard (type : Option Nat)
  deriving DecidableEq, Repr

def RxPacket.push (x : RxPacket) (v : BitVec 64) : RxPacket := { x with data := v :: x.data }

/-- An end block: the packet is whole if BLOCKS agrees and STATUS is complete (R94). -/
def RxPacket.close (x : RxPacket) (status : Nat) : Got :=
  if status = 0 && x.data.length == x.blocks then .packet (x.data.reverse.flatMap fun v => le 8 v.toNat) else .discard (some x.type)

/-- The discard of a packet in progress, if there is one. -/
def RxPacket.lost (x : Option RxPacket) : List Got := match x with | some x => [.discard (some x.type)] | none => []

/-- One block of the port's stream (R93, R94). -/
def PortRx.block (r : PortRx) (b : Block) : PortRx × List Got :=
  let w := b.payload.toNat
  if b.sh == dataSh then
    match r.urgent, r.bulk with
    | some u, _ => ({ r with urgent := some (u.push b.payload) }, [])
    | none, some k => ({ r with bulk := some (k.push b.payload) }, [])
    | none, none => ({ r with stray := true }, if r.stray then [] else [.discard none])
  else if b.sh != ctrlSh then (r, [])
  else
    let r := { r with stray := false }
    match blockType b with
    | 0x1E => (r, [])
    | 0x55 => (r, [])
    | 0x78 =>
      ({ r with urgent := none, bulk := some { type := bits w 15 8, blocks := bits w 31 16 } }, RxPacket.lost r.urgent ++ RxPacket.lost r.bulk)
    | 0x2D => ({ r with urgent := some { type := bits w 15 8, blocks := bits w 31 16 } }, RxPacket.lost r.urgent)
    | 0x87 =>
      ({ r with urgent := none, bulk := none }, RxPacket.lost r.urgent ++
        match r.bulk with | some k => [k.close (bits w 15 8)] | none => [.discard none])
    | 0xD2 => ({ r with urgent := none }, match r.urgent with | some u => [u.close (bits w 15 8)] | none => [.discard none])
    | _ => match r.urgent, r.bulk with
      | some u, _ => ({ r with urgent := none }, RxPacket.lost (some u))
      | none, k => ({ r with bulk := none }, RxPacket.lost k)

/-- A stretch of the stream. -/
def PortRx.feed (r : PortRx) : List Block → PortRx × List Got
  | [] => (r, [])
  | b :: t =>
    let (r, a) := r.block b
    let (r, l) := r.feed t
    (r, a ++ l)

/-- What arrives at a port: the packets and discards in order. -/
def State.portTake (p : Nat) (urgent : Bool) (a : Arrival) (s : State) : List Got × State :=
  let (l, s) := match a with
    | .packet b => (frameBlocks urgent false b, s)
    | .stretch lanes => s.portStream p lanes
  let (r, got) := (s.port p).rx.feed l
  (got, s.updPort p fun q => { q with rx := r })

/-- R105: buffers whose time has come are finished with and their credits released. -/
def Port.finish (now : Nat) (q : Port) : Port :=
  { q with rxHeld := q.rxHeld.filter (now < ·), rxReleased := q.rxReleased + q.rxHeld.countP (· ≤ now) }

/-- A credited packet arrives and is finished with at once (R105). -/
def State.creditOne (p : Nat) (s : State) : State :=
  s.updPort p fun q => { q with rxCount := q.rxCount + 1, rxReleased := q.rxReleased + 1 }

/-- A discarded packet counts DROP_FORM; a credited one gives its credit back (R94, R105). -/
def State.portDiscard (p : Nat) (type : Option Nat) (s : State) : State :=
  let s := if (type == some 1 || type == some 2) && (s.port p).state == .up then s.creditOne p else s
  s.countUnsound p .form

/-- What arrives at a port that hears: each packet acts in turn. -/
def State.portIn (p : Nat) (urgent : Bool) (a : Arrival) (act : List Byte → State → State) (s : State) : State :=
  if !s.portHears p then s
  else
    let (got, s) := s.portTake p urgent a
    got.foldl (fun (s : State) g => match g with | .packet b => act b s | .discard t => s.portDiscard p t) s

end Sys2Proof.Machine
end

