-- ==== Sys2Proof/Machine/Ledger.lean ====
section
/-! DEFINITION. The Ledger (02_ledger.md): capacities and limits computed from the state, and the image that BAR0 and
LEDGER_READ show (R30–R52). -/
namespace Sys2Proof.Machine

/-! ### Vault and Reserve capacity -/

def State.die (s : State) (d : Nat) : DieMap := s.ledger.dies.getD d {}

/-- A bank is in service: its die is usable and it is not retired (R45). -/
def State.bankUsable (s : State) (d b : Nat) : Bool := s.usable 5 d && !(s.die d).banks.contains b

/-- Usable banks of all usable dies. -/
def State.banksUsable (s : State) : Nat :=
  (List.range 128).countP fun i => s.bankUsable (i / 64) (i % 64)

/-- DATA_BYTES of a die (R45): bytes not retired. -/
def State.dieBytes (s : State) (d : Nat) : Nat :=
  let m := s.die d
  if s.present 5 d then (64 - m.banks.length) * 33554432 - m.pages.length * 65536 else 0

/-- R47, LIMITS 0x0005: the sum over the usable dies. -/
def State.vaultBytes (s : State) : Nat :=
  (List.range 2).foldl (fun a d => if s.usable 5 d then a + s.dieBytes d else a) 0

/-- LIMITS 0x0008, MB/s on each port: 57,600 for each bank in service (R47, R20). -/
def State.portLimit (s : State) : Nat := 57600 * s.banksUsable

def State.countUsable (s : State) (cls : Nat) : Nat :=
  (List.range (unitCount cls)).countP fun n => s.usable cls n

/-- LIMITS 0x0011: CAPACITY of the channels in STATE 1 (R308). -/
def State.reserveBytes (s : State) : Nat :=
  if s.fuse.variant == .a then s.reserve.ch.foldl (fun a c => if c.state = 1 then a + c.capacity else a) 0 else 0

/-- Table — Limits (R47). -/
def State.limits (s : State) : List (Nat × Nat) :=
  [(0x01, 512), (0x02, 256000), (0x03, s.countUsable 1), (0x04, s.countUsable 2), (0x05, s.vaultBytes),
   (0x06, 67108864), (0x07, 64000 * s.banksUsable), (0x08, s.portLimit), (0x09, 4096), (0x0A, 4096), (0x0B, 512),
   (0x0C, 256), (0x0D, 65536), (0x0E, 32768), (0x0F, 131072), (0x10, 32), (0x11, s.reserveBytes), (0x12, 64),
   (0x13, 65536)]

/-! ### Opcodes -/

/-- The opcodes of 11_command_reference.md (R48, R360, R367, R375, R382, R389, R395, R398, R403, R409). -/
def opcodes : List Nat :=
  [0x00, 0x01, 0x02, 0x03, 0x04, 0x08, 0x10, 0x11, 0x12, 0x13, 0x14, 0x18, 0x19, 0x1A, 0x20, 0x21, 0x22, 0x23, 0x24,
   0x25, 0x30, 0x31, 0x32, 0x34, 0x35, 0x3F, 0x38, 0x39, 0x3A, 0x3B, 0x3C, 0x40, 0x41, 0x50, 0x51, 0x52, 0x53, 0x60,
   0x61, 0x62, 0x63, 0x64, 0x70, 0x71, 0x72]

/-! ### The image -/

/-- A bitmap as a number. -/
def bitmap (n : Nat) (f : Nat → Bool) : Nat := (List.range n).foldl (fun a i => a + flagBit (f i) i) 0

/-- One entry: TYPE, LEN, and the fields (R39). -/
def ledgerEntry (type : Nat) (fields : List Byte) : List Byte := le 2 type ++ le 2 fields.length ++ fields

/-- UNIT entry of a class (R41). -/
def State.unitEntry (s : State) (cls : Nat) : List Byte :=
  let n := unitCount cls
  let w := (n + 31) / 32 * 4
  ledgerEntry 1 (le 2 cls ++ le 2 n ++ le w (bitmap n (s.present cls)) ++ le w (bitmap n (s.usable cls)))

/-- LANEMAP (R44): every role and rate on a present octet. -/
def State.laneMap (s : State) : List Byte :=
  ledgerEntry 2 ((List.range 64).flatMap fun o =>
    let p := s.present 7 o
    le 1 o ++ le 1 (o / 32) ++ le 1 (o / 8) ++ le 1 (if p then 0x0F else 0) ++ le 1 (if p then 0x07 else 0) ++ [0, 0, 0])

/-- Table — Clock islands in INDEX order: code letters and kHz. -/
def islands : List (Nat × Nat × Nat) :=
  [(0x58, 0x41, 1250000), (0x46, 0x45, 1000000), (0x56, 0x58, 1000000), (0x43, 0x4C, 800000), (0x54, 0x4C, 500000),
   (0x54, 0x4B, 500000), (0x56, 0x57, 1000000), (0x56, 0x45, 1000000), (0x44, 0x4D, 800000), (0x48, 0x50, 1000000),
   (0x4C, 0x57, 805664), (0x4C, 0x45, 805664), (0x45, 0x47, 402832), (0x42, 0x4D, 1000000), (0x4D, 0x4E, 100000),
   (0x4A, 0x54, 50000), (0x42, 0x54, 200000), (0x41, 0x4F, 25000)]

/-- An island is present on the variant (R44): LE, VE and DM go on the L, DM on the X. -/
def islandPresent (v : Variant) (i : Nat) : Bool :=
  match v with
  | .a => true
  | .x => i != 8
  | .l => i != 8 && i != 7 && i != 11

def State.islandEntry (s : State) : List Byte :=
  ledgerEntry 3 ((List.range 18).flatMap fun i =>
    let e := islands.getD i (0, 0, 0)
    le 1 e.1 ++ le 1 e.2.1 ++ le 1 i ++ le 1 (flagBit (islandPresent s.fuse.variant i) 0) ++ le 4 e.2.2)

/-- Class and number of a sensor in SENSORS order (R44). -/
def sensorId (i : Nat) : Nat × Nat := if i < 32 then (1, i) else if i < 56 then (2, i - 32) else (3, i - 56)

/-- Position of a sensor in SENSORS order. -/
def sensorIndex (cls num : Nat) : Option Nat :=
  match cls with
  | 1 => if num < 32 then some num else none
  | 2 => if num < 24 then some (32 + num) else none
  | 3 => if num < 16 then some (56 + num) else none
  | _ => none

/-- A sensor is present when its island is (R44: the record of an absent sensor has FLAGS zero). -/
def State.sensorPresent (s : State) (i : Nat) : Bool := islandPresent s.fuse.variant (Config.sensorIsland i % 18)

def State.sensorEntry (s : State) : List Byte :=
  ledgerEntry 7 ((List.range 72).flatMap fun i =>
    let c := sensorId i
    le 1 c.1 ++ le 1 c.2 ++ le 1 (Config.sensorIsland i % 18) ++ le 1 (flagBit (s.sensorPresent i) 0)
      ++ le 4 (if c.1 = 2 then vmNominal.getD c.2 0 else 0))

/-- MEMORY entry of a Vault die (R45). -/
def State.dieEntry (s : State) (d : Nat) : List Byte :=
  let m := s.die d
  ledgerEntry 4 (le 2 1 ++ le 2 d ++ le 8 (s.dieBytes d) ++ le 8 (bitmap 64 fun b => m.banks.contains b)
    ++ le 2 m.pages.length ++ [0, 0] ++ pad4 (m.pages.flatMap fun p => le 2 p))

/-- MEMORY entry of a Reserve channel (R45). -/
def ResCh.entry (c : ResCh) (i : Nat) : List Byte :=
  ledgerEntry 4 (le 2 2 ++ le 2 i ++ le 1 c.state ++ le 1 c.ranks ++ le 2 c.rateMts ++ le 4 c.vendor.toNat
    ++ le 8 c.capacity ++ le 4 c.features.toNat)

def State.limitEntry (s : State) : List Byte :=
  ledgerEntry 5 (s.limits.flatMap fun l => le 2 l.1 ++ [0, 0] ++ le 8 l.2)

def opcodeEntry : List Byte := ledgerEntry 6 (le 32 (bitmap 256 fun n => opcodes.contains n))

def State.spareEntry (s : State) : List Byte :=
  ledgerEntry 8 ((List.range 4).flatMap fun i =>
    let r := s.ledger.spares.getD i {}
    le 2 (128 + i) ++ le 1 r.state ++ [0] ++ le 2 r.replaces ++ [0, 0] ++ le 8 r.mapTime.toNat)

def State.keyEntry (s : State) : List Byte :=
  ledgerEntry 9 (le 2 16 ++ [0, 0] ++ (List.range 16).flatMap fun i =>
    let k := s.keySlot i
    le 1 i ++ le 1 k.state ++ le 1 k.usage ++ [0] ++ le 4 k.keyId.toNat)

def State.errataEntry (s : State) : List Byte :=
  ledgerEntry 10 (s.ledger.errata.flatMap fun e => le 8 e.toNat)

/-- The ROM entries (R40): LANEMAP, ISLAND and SENSORS. -/
def State.romEntries (s : State) : List Byte := s.laneMap ++ s.islandEntry ++ s.sensorEntry

/-- The entries after the header; the ROM part alone before the first rewrite (R34, R363, R507). -/
def State.ledgerEntries (s : State) : List Byte :=
  if s.ledger.firstDone then
    s.romEntries ++ (List.range 10).flatMap (fun c => s.unitEntry (c + 1)) ++ s.dieEntry 0 ++ s.dieEntry 1
      ++ (List.range 8).flatMap (fun c => (s.ch c).entry c) ++ s.limitEntry ++ opcodeEntry ++ s.spareEntry
      ++ s.keyEntry ++ s.errataEntry
  else s.romEntries

/-- PART (R30): "ZC4K-A", "ZC4K-X" or "ZC4K-L". -/
def partName (v : Variant) : List Byte :=
  [0x5A, 0x43, 0x34, 0x4B, 0x2D, match v with | .a => 0x41 | .x => 0x58 | .l => 0x4C]

def State.entryCount (s : State) : Nat := if s.ledger.firstDone then 3 + 10 + 2 + 8 + 5 else 3

/-- The header (R30) with the given GENERATION and CRC. -/
def State.ledgerHeader (s : State) (gen crc : Nat) : List Byte :=
  le 4 0x47444C5A ++ le 2 0x0100 ++ le 2 64 ++ le 4 (64 + s.ledgerEntries.length) ++ le 2 s.entryCount ++ [0, 0]
    ++ le 4 gen ++ le 4 crc ++ partName s.fuse.variant ++ [0x42, 0x30] ++ le 8 s.fuse.dieId.toNat
    ++ le 4 s.romEntries.length ++ le 4 s.ledger.fwVersion.toNat ++ le 8 s.ledger.writeTime.toNat ++ List.replicate 8 0

/-- A channel with the MEMORY entry of a view. -/
def ResCh.showing (c : ResCh) (i : ModuleInfo) : ResCh :=
  { c with state := i.state, ranks := i.ranks, rateMts := i.rateMts, vendor := i.vendor, capacity := i.capacity, features := i.features }

/-- The state as the image records it: what was committed before the first increment of its last rewrite (R35). -/
def State.asShown (s : State) : State :=
  let v := s.ledger.shown
  { s with
    ledger := { s.ledger with
      usable := v.usable, dies := v.dies, spares := v.spares
      keys := List.zipWith (fun (k : KeySlot) (r : Nat × Nat × BitVec 32) => { k with state := r.1, usage := r.2.1, keyId := r.2.2 })
        s.ledger.keys v.keys }
    reserve := { s.reserve with ch := List.zipWith ResCh.showing s.reserve.ch v.modules } }

/-- R31: the image with its CRC, computed with GENERATION and CRC taken as zero. -/
def State.ledgerImage (s : State) : List Byte :=
  let s := s.asShown
  let e := s.ledgerEntries
  s.ledgerHeader s.ledger.generation.toNat (crc32 (s.ledgerHeader 0 0 ++ e)) ++ e

end Sys2Proof.Machine
end

