-- ==== Sys2Proof/Machine/Teller.lean ====
section
/-! DEFINITION. The Teller's protocol (10_teller_protocol.md): parsing, the order of checks (R340), commit, replies on
the path of each source, and deferred completion (R346–R348). The bodies of the opcodes stand in the Cmd files. -/
namespace Sys2Proof.Machine

/-! ### Status codes (R339) -/

def stOk : Nat := 0x0000
def stAlready : Nat := 0x0001
def stQueued : Nat := 0x0002
def stOpcode : Nat := 0x0101
def stLength : Nat := 0x0102
def stParam : Nat := 0x0103
def stAuth : Nat := 0x0104
def stReplay : Nat := 0x0105
def stResource : Nat := 0x0201
def stFit : Nat := 0x0202
def stHeld : Nat := 0x0203
def stAbsent : Nat := 0x0204
def stStale : Nat := 0x0301
def stState : Nat := 0x0302
def stPast : Nat := 0x0401
def stFault : Nat := 0x0501
def stPoison : Nat := 0x0502
def stSafe : Nat := 0x0503

/-- What a reply says beside its header (R338). -/
structure Res where
  status : Nat := 0
  handle : Handle := 0
  r0 : Nat := 0
  r1 : Nat := 0
  r2 : Nat := 0
  /-- COMPLETION where it is not the time of this reply's commit (R354) -/
  compl : Option (BitVec 64) := none
  deriving DecidableEq, Repr

/-- What follows the commit of a command (R346): nothing more, a final reply to wait for, or a final reply at once. -/
inductive After where
  | done
  | wait (w : Wait)
  | final (r : Res)
  deriving DecidableEq, Repr

/-- A parsed command under execution. `commitAt` is max(T, C) of R434, the commit time its timing rules read. -/
structure Pkt where
  src : Source
  b : List Byte
  paramErr : Bool := false
  /-- the write to the destination succeeds (R357) -/
  wr : Bool := true
  /-- what reading the image of KERNEL_LOAD returns (R396) -/
  image : ReadResult := .failed
  commitAt : Nat
  /-- the command a SCHEDULE carries (R402) -/
  scheduled : Bool := false
  /-- its firing is late (R436) -/
  late : Bool := false
  /-- the command counter of a ring entry (R327) -/
  ctr : BitVec 13 := 0
  /-- R333 -/
  lost : Bool := false
  deriving DecidableEq, Repr

def Pkt.op (p : Pkt) : Nat := u8 p.b 0
def Pkt.flags (p : Pkt) : Nat := u8 p.b 1
def Pkt.len (p : Pkt) : Nat := u16 p.b 2
def Pkt.tag (p : Pkt) : BitVec 32 := BitVec.ofNat 32 (u32 p.b 4)
def Pkt.target (p : Pkt) : Handle := BitVec.ofNat 32 (u32 p.b 8)
def Pkt.auth (p : Pkt) : Bool := bit p.flags 0
def Pkt.indirect (p : Pkt) : Bool := bit p.flags 1
def Pkt.fence (p : Pkt) : Bool := bit p.flags 2
def Pkt.notify (p : Pkt) : Bool := bit p.flags 3

def isFabric : Source → Bool
  | .fabric _ => true
  | _ => false

/-- What an opcode does with a packet: the LENGTH it fixes without trailer (R356), its checks in the order of R340
from BAD_PARAM on (`some` is a failure), whether it is DEFERRED, and its effect. -/
structure Body where
  words : Nat
  checks : List (Option Res)
  deferred : Bool := false
  effect : State → State × Res × After

/-- A check that fails with a status when `bad` holds. -/
def failIf (bad : Bool) (status : Nat) : Option Res := if bad then some { status := status } else none

/-- An admission refusal (R353): code, need and capacity. -/
def shortOf (status code need cap : Nat) : Option Res :=
  if need ≤ cap then none else some { status := status, r0 := code, r1 := need % 2 ^ 32, r2 := cap % 2 ^ 32 }

/-- The first failure of a list of checks (R340). -/
def firstFailure (l : List (Option Res)) : Option Res := l.findSome? id

/-! ### Sources (R324, R358) -/

/-- Opcodes the fabric never delivers, by the Accepted from columns of 11_command_reference.md: P and S only. -/
def fabricRefused : List Nat := [0x02, 0x03, 0x04, 0x11, 0x13, 0x18, 0x1A, 0x25, 0x40, 0x50, 0x61]

/-- The source may send the opcode (R358): KERNEL_LOAD from the ring only. -/
def acceptedFrom (op : Nat) : Source → Bool
  | .ring => true
  | .spi => op != 0x40
  | .fabric _ => !fabricRefused.contains op

/-- R323: the length limits of the source. The packet of a ring entry or a fabric body may be longer than LENGTH. -/
def Pkt.sourceLengthOk (p : Pkt) : Bool :=
  let min := if p.auth then 6 else 4
  min ≤ p.len &&
  if p.scheduled then p.len ≤ 256 && p.b.length == 4 * p.len
  else match p.src with
  | .ring => if p.indirect then p.len ≤ 16384 else p.len ≤ 16
  | .spi => p.len ≤ 1024 && p.b.length == 4 * p.len
  | .fabric _ => p.len ≤ 123 && 4 * p.len ≤ p.b.length

/-- Opcodes served in SAFE_STATE (R340 step 4). -/
def servedSafe (op : Nat) : Bool := [0x00, 0x01, 0x02, 0x60, 0x61].contains op

/-- Opcodes served while GENERATION has been odd since boot (R340 step 5). -/
def servedEarly (op : Nat) : Bool := [0x01, 0x02, 0x60].contains op

/-- Reserved flag bits, INDIRECT and AUTH by path, SEQUENCE, and the path itself (R321, R324, R330, R358). -/
def Pkt.headerBad (p : Pkt) : Bool :=
  p.flags ≥ 16 || p.paramErr || (p.indirect && p.src != .ring) || (!p.auth && u32 p.b 12 != 0)
    || !acceptedFrom p.op p.src

/-- Commands that write no unit, which a stalled bus matrix leaves alone (R495). -/
def writesNoUnit (op : Nat) : Bool := [0x00, 0x01, 0x02, 0x03, 0x04, 0x11, 0x25, 0x52, 0x60, 0x61, 0x71, 0x72].contains op

/-- Failures that come before UNIT_FAULT in the order of R340. -/
def beforeFault : List Nat := [stLength, stOpcode, stSafe, stParam, stAbsent]

/-- R495: while the bus matrix has stalled, a command that would write a unit ends with UNIT_FAULT. -/
def stallRefusal (stalled : Bool) (op : Nat) (r : Option Res) : Option Res :=
  if stalled && !writesNoUnit op then
    match r with
    | some f => if beforeFault.contains f.status then r else some { status := stFault }
    | none => some { status := stFault }
  else r

/-- R340: the first failure of a command, in order. -/
def Pkt.refusal (p : Pkt) (body : Body) (s : State) : Option Res :=
  stallRefusal (s.health.stalled.contains 13) p.op <| firstFailure ([
    failIf (!p.sourceLengthOk) stLength,
    failIf (!opcodes.contains p.op) stOpcode,
    failIf (p.len != body.words + if p.auth then 2 else 0) stLength,
    failIf (s.teller.safe && !servedSafe p.op) stSafe,
    failIf (!s.ledger.firstDone && !servedEarly p.op) stState,
    failIf p.headerBad stParam] ++ body.checks ++ [
    if body.deferred then shortOf stResource 12 (s.teller.deferred.length + 1) 1024 else none])

/-! ### Replies (R331, R338) -/

/-- The 32 B of a reply. -/
def replyBytes (op : Nat) (phase remote final : Bool) (peer : Nat) (tag : BitVec 32) (r : Res) (compl : BitVec 64) :
    List Byte :=
  le 1 op ++ le 1 (flagBit phase 0 + flagBit remote 1 + flagBit final 2 + (if remote then 8 * (peer % 32) else 0))
    ++ le 2 r.status ++ le 4 tag.toNat ++ le 4 r.handle.toNat ++ le 4 r.r0 ++ le 4 r.r1 ++ le 4 r.r2
    ++ le 8 compl.toNat

/-- R129: a reply to a fabric source: a CMD packet of KIND 1 with its tag; dropped when the port has left UP (R337). -/
def State.fabricReply (p : Nat) (rep : List Byte) (s : State) : State :=
  let slot := (s.port p).entry.cmdSlot
  if (s.port p).state == .up && (s.keySlot slot).state != 0 then
    let head := s.ctrlHeadFor p 0x30 (cmdLength 40)
    s.sendBulk p 0 (cmdPacket head slot 1 (rep ++ cmdTag (s.keySlot slot).key head rep))
  else s.countPort p fun c => { c with ctrlDrop := satAdd 32 c.ctrlDrop 1 }

/-- R333: a reply that cannot be written is counted. -/
def State.discardReply (s : State) : State :=
  (s.updHealth fun h => { h with replyDiscard := satAdd 32 h.replyDiscard 1 }).raise evReplyDiscard

/-- The address of entry n of the reply ring (R327). -/
def State.rplAddr (s : State) (n : BitVec 13) : BitVec 64 := s.ring.rplBase + BitVec.ofNat 64 (32 * (n.toNat % 4096))

/-- R331, R332: write a reply to the ring at RPL_TAIL, PHASE the inverse of bit 12 of its counter. -/
def State.ringReply (notify : Bool) (f : Bool → List Byte) (s : State) : State :=
  if !s.host.linkUp then s.discardReply
  else
    let n := s.ring.rplTail
    let s := s.emit (.hostWrite (s.rplAddr n) (f (n.toNat < 4096)))
    let s := { s with ring := { s.ring with rplTail := n + 1 } }
    if notify || s.ring.notifyAll then s.sendVector0 else s

/-- Post a reply on the path of its source (Table — Command sources); the replies of a ring whose link was lost since are
discarded (R333). `f` takes PHASE. -/
def State.post (src : Source) (notify lost : Bool) (f : Bool → List Byte) (s : State) : State :=
  if lost then s.discardReply
  else match src with
  | .ring => s.ringReply notify f
  | .spi => { s with spi := { s.spi with replyQ := s.spi.replyQ ++ [f false] } }
  | .fabric p => s.fabricReply p (f false)

/-- COMPLETION of a commit now; LATE for a late firing (R434, R436). -/
def Pkt.completion (p : Pkt) (s : State) : BitVec 64 :=
  shortTime p.late s.holdover s.now

/-- Post one reply of a command. -/
def Pkt.reply (p : Pkt) (final : Bool) (r : Res) (s : State) : State :=
  let c := r.compl.getD (p.completion s)
  s.post p.src p.notify p.lost fun ph => replyBytes p.op ph false final 0 p.tag r c

/-! ### Deferred completion (R346–R348) -/

/-- The final reply of a deferred command, COMPLETION now. -/
def Deferred.post (d : Deferred) (r : Res) (s : State) : State :=
  let c := s.stamp
  s.post d.src d.notify d.lost fun ph => replyBytes d.op ph false true 0 d.tag { r with handle := d.handle } c

/-- R348: fences at the head of the order of commits end. -/
def flushFences : Nat → State → State
  | 0, s => s
  | n + 1, s =>
    match s.teller.deferred with
    | d :: t => if d.wait == .fence then flushFences n (d.post {} (s.updTeller fun x => { x with deferred := t })) else s
    | [] => s

/-- Final replies of the deferred commands for which `p` holds, in order of commit, then of fences they held up. -/
def State.finish (p : Deferred → Bool) (r : Res) (s : State) : State :=
  let hit := s.teller.deferred.filter p
  let s := s.updTeller fun x => { x with deferred := x.deferred.filter fun d => !p d }
  let s := hit.foldl (fun s d => d.post r s) s
  flushFences s.teller.deferred.length s

/-- R348: every earlier deferred command of the source has posted its final reply. -/
def State.fenceClear (s : State) (src : Source) : Bool := s.teller.deferred.all fun d => d.src != src

/-! ### Running one command -/

/-- R349: the commit record of the command. -/
def State.record (p : Pkt) (status : Nat) (s : State) : State :=
  s.updTeller fun t => { t with
    commits := t.commits + 1
    lastCommit := some { src := p.src, op := p.op, tag := p.tag, status := status, applied := true, posted := true } }

/-- Check, commit, apply and reply (R340, R346, R349). -/
def Pkt.run (p : Pkt) (body : Body) (s : State) : State :=
  match p.refusal body s with
  | some r => p.reply true r (s.record p r.status)
  | none =>
    let (s', r, after) := body.effect s
    match after with
    | .done => p.reply true r (s'.record p r.status)
    | .final f => p.reply true f (p.reply false { r with status := stQueued } (s'.record p stQueued))
    | .wait w =>
      let s1 := p.reply false { r with status := stQueued } (s'.record p stQueued)
      let d : Deferred := { src := p.src, op := p.op, tag := p.tag, notify := p.notify, handle := r.handle,
                            seq := s1.teller.commits, wait := w, lost := p.lost }
      let s2 := s1.updTeller fun t => { t with deferred := t.deferred ++ [d] }
      flushFences s2.teller.deferred.length s2

/-- The command at the head of a source (R324). -/
def State.head? (s : State) : Source → Option Cmd
  | .ring => s.teller.ringQ.head?
  | .spi => s.spi.cmdQ.head?
  | .fabric p => (s.teller.fabQ.find? fun e => e.1 == p).map (·.2)

/-- Remove the first entry of a port's queue. -/
def dropFirst (p : Nat) : List (Nat × Cmd) → List (Nat × Cmd)
  | [] => []
  | e :: t => if e.1 == p then t else e :: dropFirst p t

/-- Take the command at the head of a source. -/
def State.pop (src : Source) (s : State) : State :=
  match src with
  | .ring => s.updTeller fun t => { t with ringQ := t.ringQ.drop 1 }
  | .spi => { s with spi := { s.spi with cmdQ := s.spi.cmdQ.drop 1 } }
  | .fabric p => s.updTeller fun t => { t with fabQ := dropFirst p t.fabQ }

/-- The Teller's channels run: their BIST at boot is done (R459). -/
def State.tellerRuns (s : State) : Bool := s.boot.phase == .up || (s.boot.phase == .booting && s.boot.bistDone)

/-- The Teller takes commands: its image runs and its BIST is done (R459); in SAFE_STATE while a channel can serve
(R447); no rewrite of the Ledger is in progress (R35). -/
def State.tellerTakes (s : State) : Bool :=
  s.tellerRuns && (if s.teller.safe then s.teller.channels.any fun c => c.st != .failed else !s.ledger.dirty)

/-- Opcodes that can be DEFERRED (11_command_reference.md). -/
def deferredOps : List Nat := [0x08, 0x12, 0x32, 0x3C, 0x41, 0x50, 0x70, 0x72]

/-- Replies that a source is still owed by commands that have left its queue: final replies, and those of forwards. -/
def State.owed (s : State) (src : Source) : Nat :=
  s.teller.deferred.countP (fun d => d.src == src && !d.lost)
    + (s.teller.forwards.map fun f => if f.src == src && !f.lost then (if f.replied then 1 else 2) else 0).sum

/-- Free reply slots of a source (R331, R335); a fabric port has no queue of its own. -/
def State.replySlots (s : State) : Source → Nat
  | .ring => 4096 - (s.ring.rplTail - s.ring.rplHead).toNat
  | .spi => 16 - s.spi.replyQ.length
  | .fabric _ => 8192

/-- R331: reply slots never overflow: a command runs while its replies fit beside those owed. -/
def State.replyRoom (s : State) (src : Source) (lost two : Bool) : Bool :=
  lost || s.owed src + (if two then 2 else 1) ≤ s.replySlots src

/-- AUTH on the ring or SPI asks for forwarding (R336). -/
def Pkt.isForward (p : Pkt) : Bool := p.auth && !isFabric p.src

/-- Whether the head of a source can run now (R324, R331, R348). -/
def State.canTake (s : State) (src : Source) (p : Pkt) : Bool :=
  s.tellerTakes && s.replyRoom src p.lost (p.isForward || deferredOps.contains p.op) && (!p.fence || s.fenceClear src)

/-- The packet at the head of a source, as a command. -/
def State.pktOf (s : State) (src : Source) (wr : Bool) (image : ReadResult) : Option Pkt :=
  (s.head? src).map fun c =>
    { src := src, b := c.bytes, paramErr := c.paramErr, wr := wr, image := image, commitAt := s.now, ctr := c.ctr, lost := c.lost }

/-- One turn of a source with one opcode: runs when the head of the source carries it and can be taken; else nothing
happens (notes/assumptions/25.md). -/
def runOp (op : Nat) (body : Pkt → State → Body) (src : Source) (wr : Bool) (image : ReadResult) (s : State) : State :=
  match s.pktOf src wr image with
  | none => s
  | some p =>
    if p.op == op && !p.isForward && s.canTake src p then
      let s := s.pop src
      p.run (body p s) s
    else s

/-! ### Parameters common to the bodies -/

/-- The stretches of reserved bytes are zero (R6, R356). -/
def Pkt.reserved (p : Pkt) (l : List (Nat × Nat)) : Option Res :=
  failIf (l.any fun z => !zeroAt p.b z.1 z.2) stParam

/-- TARGET is zero: the opcode names nothing (R321). -/
def Pkt.noTarget (p : Pkt) : Option Res := failIf (p.target != 0) stParam

/-- R341: a live handle of a kind the opcode does not accept. -/
def badKind (s : State) (h : Handle) (kinds : List Nat) : Option Res :=
  failIf (match s.find h with | some e => !kinds.contains e.obj.kind | none => false) stParam

/-- R341: a handle that is not live. -/
def stale (s : State) (h : Handle) : Option Res := failIf (s.find h).isNone stStale

/-- R2, R43: unit n of a class. -/
def unitAbsent (s : State) (cls n : Nat) : Option Res := failIf (!s.present cls n) stAbsent
def unitFault (s : State) (cls n : Nat) : Option Res := failIf (s.present cls n && !s.usable cls n) stFault

/-- R357, R325: DEST_ADDR and DEST_LEN of a bulk read, at their offsets. -/
def Pkt.destBad (p : Pkt) (oa ol : Nat) : Option Res :=
  let a := u64 p.b oa
  let n := u32 p.b ol
  failIf (match p.src with
    | .ring => a == 0 || a % 64 != 0 || n % 4 != 0
    | .spi => a != 0 || n != 0
    | .fabric _ => true) stParam

/-- Bytes that fit (R357, R325). -/
def Pkt.room (p : Pkt) (ol : Nat) : Nat :=
  match p.src with
  | .ring => u32 p.b ol
  | .spi => 4096
  | .fabric _ => 0

/-- Deliver bulk data (R325, R357): the state, the bytes written and omitted, and whether the write failed on PCIe. -/
def Pkt.deliver (p : Pkt) (oa ol : Nat) (data : List Byte) (s : State) : State × Nat × Nat × Bool :=
  let n := min (p.room ol) data.length
  let part := data.take n
  match p.src with
  | .ring =>
    if p.wr then ((if n = 0 then s else s.emit (.hostWrite (BitVec.ofNat 64 (u64 p.b oa)) part)), n, data.length - n, false)
    else (s, 0, data.length, true)
  | .spi => ({ s with spi := { s.spi with dataBuf := slice part 0 4096 } }, n, data.length - n, false)
  | .fabric _ => (s, 0, data.length, false)

/-- The reply of a bulk read (R357): RESULT0 as given, RESULT1 written, RESULT2 omitted; UNIT_FAULT with RESULT0 = 3
when the write failed. `clear` acts only when every byte was written. -/
def Pkt.bulk (p : Pkt) (oa ol : Nat) (data : List Byte) (r0 : Nat) (clear : State → State) (s : State) :
    State × Res × After :=
  let (s', n, omitted, failed) := p.deliver oa ol data s
  if failed then (s, { status := stFault, r0 := 3 }, .done)
  else (if omitted = 0 then clear s' else s', { r0 := r0, r1 := n, r2 := omitted }, .done)

/-- An effect that replies OK with nothing else. -/
def okWith (f : State → State) (s : State) : State × Res × After := (f s, {}, .done)

end Sys2Proof.Machine
end

