-- ==== Sys2Proof/Machine/Health.lean ====
section
/-! DEFINITION. 13_resilience.md: the Statement (R448), SAFE_STATE (R446, R447), the Teller channels (R438–R445), the
monitors and throttling (R453, R454, R456), and the rewrites of the Ledger and the service record (R35, R462). -/
namespace Sys2Proof.Machine

/-! ### The Statement -/

def ChState.code : ChState → Nat
  | .check => 0
  | .lead => 1
  | .rejoining => 2
  | .failed => 3

def State.channel (s : State) (c : Nat) : Channel := s.teller.channels.getD c {}

/-- The lead channel, if any. -/
def State.leadOf (s : State) : Option Nat := (List.range 3).find? fun c => (s.channel c).st == .lead

/-- Channels in LEAD or CHECK (R443). -/
def State.voting (s : State) : Nat := s.teller.channels.countP Channel.active

/-- The reading of a sensor. -/
def State.reading (s : State) (i : Nat) : Int := (s.health.sensors.getD i {}).reading

/-- Highest TS reading (R448). -/
def State.tempMax (s : State) : Int :=
  let l := ((List.range 32).filter s.sensorPresent).map s.reading
  l.foldl max (l.headD 0)

/-- STATE of the Statement (R448): the highest that applies. -/
def State.healthState (s : State) : Nat :=
  if s.teller.safe then 3
  else if 0 < s.health.throttle then 2
  else if s.degraded || s.xa.degraded || (List.range 2).any (fun d => s.present 5 d && !s.usable 5 d)
      || s.reserve.ch.any (fun c => c.state == 2) then 1
  else 0

/-- LEAD as the Statement carries it (R448). -/
def State.leadCode (s : State) : Nat := if s.teller.safe then 0xFF else s.leadOf.getD 0xFF

def State.sensorBytes (s : State) : List Byte := s.health.sensors.flatMap fun x => leInt 2 x.reading

/-- Bytes 0–251 of the Statement (R448). -/
def State.statementBody (s : State) : List Byte :=
  le 4 0x4D54535A ++ le 2 0x0100 ++ le 2 256 ++ le 4 s.health.seq ++ le 4 s.ledger.generation.toNat ++ le 8 s.stamp.toNat
    ++ le 1 s.healthState ++ le 1 s.leadCode
    ++ le 1 ((s.channel 0).st.code + 4 * (s.channel 1).st.code + 16 * (s.channel 2).st.code) ++ le 1 s.health.throttle
    ++ le 4 s.eventFlags.toNat ++ le 1 s.teller.safeCause ++ le 1 s.health.cdcIsland ++ le 2 s.health.lastGap
    ++ le 4 s.health.takeovers ++ le 8 s.health.lastTakeover.toNat ++ le 4 s.health.replyDiscard
    ++ le 4 s.health.fwdUnmatched ++ le 4 s.health.portRefused ++ le 4 s.tk.sysrefMisalign ++ le 2 s.health.schedLateGap
    ++ leInt 2 s.tempMax ++ le 4 s.log.next ++ le 4 s.log.lost ++ le 4 s.health.gatedSubints ++ le 4 s.health.cdcOverrun
    ++ le 4 s.health.noPortDrop ++ List.replicate 8 0 ++ s.sensorBytes ++ List.replicate 12 0

/-- R448: a rewrite of the Statement; SEQ counts it. -/
def State.rewriteStatement (s : State) : State :=
  let s := s.updHealth fun h => { h with seq := satAdd 32 h.seq 1 }
  s.updHealth fun h => { h with statement := withCrc s.statementBody }

/-- R447: the frozen Statement with STAMP, TEMP_MAX and sensor readings of now. -/
def State.refreshedCopy (s : State) : List Byte :=
  let b := s.health.statement.take 252
  withCrc (patch (patch (patch b 16 (le 8 s.stamp.toNat)) 66 (leInt 2 s.tempMax)) 96 s.sensorBytes)

/-! ### SAFE_STATE (R446) -/

/-- A port drops its waiting DATA packets (R446, R110). -/
def Port.dropData (q : Port) : Port :=
  { q with txData := [], cnt := { q.cnt with txDrop := satAdd 32 q.cnt.txDrop q.txData.length } }

/-- R33, R332, R449: the second increment of a rewrite, with vector 3 and the LEDGER event. -/
def State.endRewrite (s : State) : State :=
  let s := { s with ledger := { s.ledger with
    generation := s.ledger.generation + 1, dirty := false, writeTime := if s.tk.isSet then s.stamp else 0 } }
  (s.sendVector 3).raise evLedger

/-- R446: records and packets stop, DATA in port queues counts as dropped, TRIG_OUT goes low; the Statement freezes
(R447). A rewrite in progress completes first, so that the Ledger stays readable (R37; notes/assumptions/130.md). -/
def State.enterSafe (cause : Nat) (s : State) : State :=
  if s.teller.safe then s
  else
    let s := if s.ledger.dirty then { s.endRewrite with ledger := { s.endRewrite.ledger with again := false } } else s
    let s := s.logAdd 0x0204 0 0xFF (le 1 cause)
    let s := s.updTeller fun t => { t with safe := true, safeCause := cause }
    let s := { s with
      ports := s.ports.map Port.dropData
      egress := s.egress.map fun (e : Nat × Egress) => (e.1, { e.2 with datagrams := [] })
      pins := { s.pins with trigOut := List.replicate 4 none } }
    let s := s.rewriteStatement
    s.updHealth fun h => { h with safeCopy := h.statement }

/-! ### Teller channels (R439–R445) -/

def State.updChannel (c : Nat) (f : Channel → Channel) (s : State) : State :=
  s.updTeller fun t => { t with channels := t.channels.modify c f }

/-- The next channel in LEAD or CHECK after c in the order A, B, C, A (R441). -/
def State.nextChannel (s : State) (c : Nat) : Option Nat :=
  [(c + 1) % 3, (c + 2) % 3].find? fun d => (s.channel d).active

/-- R441, R442: the next channel takes the lead; the gap is at most 96 TL cycles and otherwise the device's. -/
def State.takeover (old : Nat) (s : State) : State :=
  match s.nextChannel old with
  | none => s
  | some new =>
    let (v, s) := s.takeFree 16
    let gap := v % 97
    let s := s.updChannel new fun c => { c with st := .lead }
    let s := s.updHealth fun h => { h with
      takeovers := satAdd 32 h.takeovers 1, lastTakeover := s.stamp, lastGap := gap }
    (s.logAdd 0x0202 4 new (le 1 old ++ le 1 new ++ le 2 gap)).raise evTakeover

/-- One day in ticks (R445). -/
def tickDay : Nat := 86400 * tickSec

/-- R440–R443: a channel in LEAD or CHECK fails its diagnosis. Causes: 1 uncorrectable, 2 watchdog, 3 outvoted. -/
def State.channelFails (c cause : Nat) (s : State) : State :=
  let ch := s.channel c
  if !ch.active || s.teller.safe then s
  else
    let fails := ch.fails.filter (fun t => s.now < t + tickDay) ++ [s.now]
    let latched := fails.length ≥ 3
    let s := s.logAdd 0x0201 4 c (le 1 c ++ le 1 cause)
    let s := s.updChannel c fun x => { x with
      st := if latched then .failed else .rejoining, fails := fails, failedAt := s.now, transfer := false, latched := latched }
    let s := s.setUsable 4 c false
    if s.voting < 2 then s.enterSafe 1
    else if ch.st == .lead then s.takeover c
    else s

/-- R440: a channel fails, or logs a read that its check bits corrected; a vote that no majority resolves enters SAFE_STATE with
cause 3 among three channels, 2 among two (R439). -/
def State.tellerFault (ch : Nat) (cause : ChannelFault) (s : State) : State :=
  match cause with
  | .correctable o => if (s.channel ch).active then s.logAdd 0x0205 4 ch (le 1 ch ++ [0, 0, 0] ++ le 4 o) else s
  | .mismatch => if s.voting = 3 then s.enterSafe 3 else s.enterSafe 2
  | .uncorrectable => s.channelFails ch 1
  | .outvoted => if s.voting = 3 then s.channelFails ch 3 else s.enterSafe 2

def execTellerChannelFail (ch : Nat) (cause : ChannelFault) (s : State) : Host.Outcome State Fault Refusal :=
  settleFlags s (if s.tellerRuns then s.tellerFault ch cause else s)

/-- R440: the watchdog of a channel expires. -/
def execTellerWatchdogExpiry (ch : Nat) (s : State) : Host.Outcome State Fault Refusal :=
  settleFlags s (if s.health.stalled.contains 17 || !s.tellerRuns then s else s.channelFails ch 2)

/-- R445: a BIST failure; after three in a row the channel stays FAILED. -/
def State.bistFailed (c : Nat) (s : State) : State :=
  let s := s.logAdd 0x0201 4 c (le 1 c ++ le 1 4)
  s.updChannel c fun x => { x with st := .failed, bistFails := x.bistFails + 1, latched := x.latched || 3 ≤ x.bistFails + 1 }

/-- R444: the BIST of a rejoining channel ends; on a pass the lead streams voted memory to it. -/
def execRejoinBistDone (ch : Nat) (pass : Bool) (s : State) : Host.Outcome State Fault Refusal :=
  settleFlags s (
    if (s.channel ch).st == .rejoining && !(s.channel ch).transfer then
      if pass then s.updChannel ch fun x => { x with bistFails := 0, transfer := true } else s.bistFailed ch
    else s)

/-- R444: the transfer ends and the channel enters CHECK; not in SAFE_STATE, where no channel leads. -/
def execRejoinTransferDone (ch : Nat) (s : State) : Host.Outcome State Fault Refusal :=
  settleFlags s (
    if (s.channel ch).st == .rejoining && (s.channel ch).transfer && !s.teller.safe then
      let us := (s.now - (s.channel ch).failedAt) / (1000 * tickNs)
      let s := s.updChannel ch fun x => { x with st := .check, transfer := false }
      let s := s.logAdd 0x0203 4 ch (le 1 ch ++ [0, 0, 0] ++ le 4 us)
      s.setUsable 4 ch true
    else s)

/-- R445: a FAILED channel reruns its BIST, and on a pass rejoins under R444. -/
def execFailedBistRetry (ch : Nat) (pass : Bool) (s : State) : Host.Outcome State Fault Refusal :=
  settleFlags s (
    if (s.channel ch).st == .failed && !(s.channel ch).latched then
      if pass then s.updChannel ch fun x => { x with st := .rejoining, bistFails := 0, transfer := true }
      else s.bistFailed ch
    else s)

/-! ### Statement events -/

/-- R448. In SAFE_STATE the Statement is frozen (R447). -/
def execStatementRewrite (s : State) : Host.Outcome State Fault Refusal :=
  settleFlags s (if s.teller.safe then s else s.rewriteStatement)

/-- R447: the BAR0 copy is refreshed every 10 ms in SAFE_STATE. -/
def execSafeCopyRefresh (s : State) : Host.Outcome State Fault Refusal :=
  settleFlags s (if s.teller.safe then s.updHealth fun h => { h with safeCopy := s.refreshedCopy } else s)

/-! ### Monitors (R453–R456) -/

/-- Crossing event bit of a sensor class (R453). -/
def evOfClass (cls : Nat) : Nat := if cls = 1 then evTemp else if cls = 2 then evVoltage else evAgeing

/-- The re-arm margin is met: 16 units, 1 % of nominal or 1 % of count inside both thresholds (R453). -/
def Sensor.backInside (x : Sensor) (i : Nat) (v : Int) : Bool :=
  let c := sensorId i
  let m : Int := if c.1 = 1 then 1600 else if c.1 = 2 then (vmNominal.getD c.2 0 : Nat) else v
  100 * (x.hi - v) ≥ m && 100 * (v - x.lo) ≥ m

/-- One sample of one sensor: the new sensor, and whether it crosses now. -/
def Sensor.sample (x : Sensor) (i : Nat) (v : Int) : Sensor × Bool :=
  let outside := v > x.hi || v < x.lo
  let n := if outside then x.out + 1 else 0
  let m := if x.backInside i v then x.back + 1 else 0
  let crosses := x.armed && n ≥ 4
  ({ x with reading := v, out := min n 4, back := min m 4, armed := if crosses then false else x.armed || m ≥ 4 }, crosses)

/-- A crossing is logged, and raises its event if FLAGS[0] is set (R453). -/
def State.crossing (i : Nat) (x : Sensor) (s : State) : State :=
  let c := sensorId i
  let s := s.logAdd 0x0302 0 0xFF (le 1 c.1 ++ le 1 c.2 ++ le 1 (if x.reading > x.hi then 0 else 1) ++ [0] ++ leInt 2 x.reading)
  if x.raise then s.raise (evOfClass c.1) else s

/-- Sample the sensors that are present, from index i on. -/
def State.sampleAll : Nat → List Int → State → State
  | _, [], s => s
  | i, v :: t, s =>
    if s.sensorPresent i then
      let (x, hit) := (s.health.sensors.getD i {}).sample i v
      let s := s.updHealth fun h => { h with sensors := h.sensors.set i x }
      State.sampleAll (i + 1) t (if hit then s.crossing i x else s)
    else State.sampleAll (i + 1) t s

/-- The sensor that triggers throttling (R454): a TS at or above 100 °C, or a VDD_CORE monitor below 96 % of 750 mV. -/
def State.throttleTrigger (s : State) : Option Nat :=
  ((List.range 40).filter s.sensorPresent).find? fun i => if i < 32 then s.reading i ≥ 1600 else s.reading i < 720

/-- R454: every TS below 95 °C and every VDD_CORE monitor above 97 % of 750 mV. -/
def State.cooled (s : State) : Bool :=
  ((List.range 40).filter s.sensorPresent).all fun i => if i < 32 then s.reading i < 1520 else 100 * s.reading i > 97 * 750

/-- R456: some TS at or above 110 °C; some VDD_CORE monitor below 92 % of 750 mV. -/
def State.critHot (s : State) : Bool := (List.range 32).any fun i => s.sensorPresent i && s.reading i ≥ 1760
def State.critLow (s : State) : Bool := (List.range 8).any fun i => s.sensorPresent (32 + i) && s.reading (32 + i) < 690

/-- A change of THROTTLE is logged (R454, R458). -/
def State.throttleTo (level : Nat) (by_ : Option Nat) (s : State) : State :=
  let d := match by_ with
    | none => le 1 level
    | some i =>
      let c := sensorId i
      le 1 level ++ le 1 c.1 ++ le 1 c.1 ++ le 1 c.2 ++ leInt 2 (s.reading i)
  let now := s.now
  (s.updHealth fun h => { h with throttle := level, levels := lastN 256 (h.levels ++ [(now, level)]) }).logAdd 0x0301 0 0xFF d

/-- R454: a trigger held for 10 samples raises THROTTLE by 1, and each further 100 by 1 more, up to 3. -/
def State.throttleSample (s : State) : State :=
  match s.throttleTrigger with
  | none => s.updHealth fun h => { h with trigRun := 0 }
  | some i =>
    let n := s.health.trigRun + 1
    let s := s.updHealth fun h => { h with trigRun := n }
    if n % 100 = 10 && s.health.throttle < 3 then s.throttleTo (s.health.throttle + 1) (some i) else s

/-- R456: two samples 1 ms apart hold a limit for 1 ms. -/
def State.critSample (s : State) : State :=
  let hot := if s.critHot then s.health.hotRun + 1 else 0
  let low := if s.critLow then s.health.lowRun + 1 else 0
  let s := s.updHealth fun h => { h with hotRun := min hot 2, lowRun := min low 2 }
  if hot ≥ 2 then s.enterSafe 4 else if low ≥ 2 then s.enterSafe 5 else s

/-- R453, R454, R456: the 1 ms sample of every sensor. -/
def execMonitorSample (readings : List Int) (s : State) : Host.Outcome State Fault Refusal :=
  let s1 := State.sampleAll 0 (readings.take 72) s
  let s2 := s1.updHealth fun h => { h with cool := if s1.cooled then h.cool + 1 else 0 }
  settleFlags s s2.throttleSample.critSample

/-- R454: THROTTLE falls by 1 after 1 s, 1,000 samples, of every sensor below its limits. -/
def execThrottleFall (s : State) : Host.Outcome State Fault Refusal :=
  settleFlags s (
    if 0 < s.health.throttle && 1000 ≤ s.health.cool then
      (s.throttleTo (s.health.throttle - 1) none).updHealth fun h => { h with cool := 0 }
    else s)

/-! ### Ledger and service record -/

/-- R35: the rewrite in progress completes; changes that arose meanwhile start a further rewrite. In SAFE_STATE GENERATION
stops (R37). -/
def execLedgerRewrite (s : State) : Host.Outcome State Fault Refusal :=
  settleFlags s (
    if s.ledger.dirty && !s.teller.safe then
      let s := s.endRewrite
      if s.ledger.again then { s with ledger := { s.ledger with again := false } }.startRewrite else s
    else s)

/-- R462: a write of the service record to the boot flash; the two copies are written in turn (R505). -/
def execServiceRecordWrite (ok : Bool) (s : State) : Host.Outcome State Fault Refusal :=
  settleFlags s (
    if !s.service.dirty || s.health.stalled.contains 16 then s
    else if ok then
      let v := s.service
      { s with service := { v with flash := v.cur, dirty := false, seq := v.seq + 1, copy := 1 - v.copy } }.emit
        (.flash v.copy (v.seq + 1))
    else (s.logAdd 0x0122 0 0xFF []).raise evLedger)

/-! ### Pins that follow from the state -/

/-- R452, R520: FAULT_N is low from VDD_AO in range until the first rewrite, then in SAFE_STATE and while degraded. -/
def State.faultNHigh (s : State) : Bool :=
  !s.pins.vddAo || (s.ledger.firstDone && !s.teller.safe && !s.degraded)

/-- R452: HOT_ALERT_N is low after the first rewrite while THROTTLE is above 0 or a TS is at or above its HI. -/
def State.hotAlertNHigh (s : State) : Bool :=
  !(s.ledger.firstDone && (0 < s.health.throttle || (List.range 32).any fun i =>
    s.sensorPresent i && s.reading i ≥ (s.health.sensors.getD i {}).hi))

/-- R509: SPI_ATTN_N is low while a reply waits. -/
def State.spiAttnNHigh (s : State) : Bool := s.spi.replyQ.isEmpty

end Sys2Proof.Machine
end

