-- ==== Sys2Proof/Machine/Timekeeper.lean ====
section
/-! DEFINITION. 12_time.md: the voted counters (R415), PPS (R417, R418), the discipline loop and source selection
(R419–R423), the uncertainty budget and the status record (R428, R429). -/
namespace Sys2Proof.Machine

/-- 1,000 ns and 1 ms in ticks. -/
def tickUs : Nat := 1000 * tickNs
def tickMs : Nat := 1000000 * tickNs

/-- The discipline state codes (R419). -/
def TkState.code : TkState → Nat
  | .freerun => 0
  | .acquire => 1
  | .locked => 2
  | .holdover => 3

/-- Lock and unlock limits of the source, in ticks (R419). -/
def TimeSrc.lockLimit : TimeSrc → Nat
  | .pps => 20 * tickNs
  | _ => 2 * tickNs
def TimeSrc.unlockLimit : TimeSrc → Nat
  | .pps => 200 * tickNs
  | _ => 20 * tickNs

/-! ### Voted counters -/

/-- R415: counters that differ from the vote are reloaded and counted; without a majority in some field all take the
median, TIME_FAULT is set and ACQUIRE entered, unless TKREF is lost (R416). -/
def Tk.resolve (k : Tk) (held : List Nat) : Tk × Bool :=
  match voteCounters held with
  | some v => ({ k with cnt := [v, v, v], resync := satAdd 16 k.resync (held.countP (· != v)) }, false)
  | none =>
    let m := median3 (held.getD 0 0) (held.getD 1 0) (held.getD 2 0)
    let k := { k with cnt := [m, m, m], timeFault := true }
    (if k.tkref == .lost then k else k.toAcquire, true)

def execTkResync (held : List Nat) (s : State) : Host.Outcome State Fault Refusal :=
  let (k, fault) := s.tk.resolve held
  let s1 := { s with tk := k }
  settleFlags s (if fault then s1.raise evTimeFault else s1)

/-! ### The loop (R421) -/

/-- One lock decision per phase error (R419): 16 consecutive seconds within the lock limit, 4 beyond the unlock
limit. -/
def Tk.lockStep (k : Tk) (e : Int) : Tk :=
  let a := e.natAbs
  let inLock := a ≤ k.src.lockLimit
  let k := { k with lockRun := if inLock then k.lockRun + 1 else 0,
                    unlockRun := if a > k.src.unlockLimit then k.unlockRun + 1 else 0 }
  if k.state == .acquire && 16 ≤ k.lockRun then k.toLocked
  else if k.state == .locked && 4 ≤ k.unlockRun then k.toAcquire
  else k

/-- R421: Y_LOOP within its limits. -/
def clampLoop (y : Int) : Int := max (-50000000000000) (min 50000000000000 y)

/-- R421: a second without a phase error: the proportional term is held for one second only. -/
def Tk.unsteered (k : Tk) : Tk := { k with yLoop := clampLoop k.yI }

/-- R421: a phase error of e ticks acts on the loop. Quotients are in 10^-18, their rounding the device's. -/
def Tk.loop (k : Tk) (idle : Bool) (e : Int) : Tk :=
  let big := e.natAbs > tickUs
  let k := { k with phaseErr := e, errs := lastN 64 (k.errs ++ [e]) }
  if k.state == .acquire && big && idle then { k.move (-e) with lockRun := 0 }
  else
    let yi := if big then k.yI else k.yI - divOpen (e * 1000000000) (65536 * 256)
    let yp := -(divOpen (e * 1000000000) (65536 * 8))
    let yp := if big then max (-1000000000000) (min 1000000000000 yp) else yp
    ({ k with yI := yi, yLoop := clampLoop (yi + yp) }).lockStep e

/-! ### PPS (R417, R418) -/

/-- e of an edge at t: the stamp less its nearest whole second less PPS_OFFSET (R421), in ticks. -/
def Tk.ppsError (k : Tk) (t : Nat) : Int :=
  let near := (t + tickSec / 2) / tickSec * tickSec
  (t : Int) - (near : Int) - divOpen k.ppsOffset 1000000

/-- R418: the edge is accepted. -/
def Tk.ppsAccepts (k : Tk) (t highNs : Nat) : Bool :=
  100 ≤ highNs && (match k.lastEdge with | some l => l + tickSec / 2 ≤ t | none => true) &&
    (!(k.state == .locked || k.state == .holdover) || (k.ppsError t).natAbs < tickMs)

/-- R399: states in which TIME_SET and STEP are refused. -/
def State.timeBusy (s : State) : Bool := !s.idleForStep

/-- R399, R422: a waiting MODE 0 TIME_SET at its edge, which was stamped at t: the counters take the time given at the
edge and what has passed since, and the offsets clear. -/
def State.setAtEdge (t target : Nat) (s : State) : State :=
  let s := s.updTk fun k => { k with setWait := none }
  if s.timeBusy then s.finish (fun d => d.wait == .timeSet) { status := stState }
  else
    let s := s.stepTk fun k => { k.move ((target : Int) - (t : Int)) with
      ppsOffset := 0, slewLeft := 0, lastEdge := some target, lastPps := shortTime false s.holdover target }
    s.finish (fun d => d.wait == .timeSet) {}

/-- R418, R421, R399: a rising edge of PPS_IN with its stamp and how long it stays high. -/
def execPpsInEdge (stamp highNs : Nat) (s : State) : Host.Outcome State Fault Refusal :=
  settleFlags s (
    if s.tk.ppsAccepts stamp highNs then
      let e := s.tk.ppsError stamp
      let idle := s.idleForStep
      let s := s.updTk fun k => { k with lastEdge := some stamp, ppsValid := true, lastPps := s.stampAt stamp }
      match s.tk.setWait with
      | some target => s.setAtEdge stamp target
      | none => if s.tk.src == .pps then s.stepTk fun k => k.loop idle e else s
    else (s.updTk fun k => { k with ppsReject := satAdd 16 k.ppsReject 1 }).raise evPps)

/-- R418, R423: no edge was accepted within 1.5 s. -/
def execPpsValidExpiry (s : State) : Host.Outcome State Fault Refusal :=
  settleFlags s (
    if s.tk.ppsValid then
      let s := (s.updTk fun k => { k with ppsValid := false }).raise evPps
      if s.tk.src == .pps then s.updTk Tk.toHoldover else s
    else s)

/-- R417: PPS_OUT rises at a whole second and stays high for 1 ms; it runs on in SAFE_STATE (R446). -/
def execPpsOutSecond (s : State) : Host.Outcome State Fault Refusal :=
  settleFlags s { s with pins := { s.pins with ppsOut := true } }
def execPpsOutEnd (s : State) : Host.Outcome State Fault Refusal :=
  settleFlags s { s with pins := { s.pins with ppsOut := false } }

/-- R399: 2 s without an edge. -/
def execTimeSetTimeout (s : State) : Host.Outcome State Fault Refusal :=
  settleFlags s (
    if s.tk.setWait.isSome then
      (s.updTk fun k => { k with setWait := none }).finish (fun d => d.wait == .timeSet) { status := stFault }
    else s)

/-- R422: what is left of a slew has been removed: the time has moved by it and PPS_OFFSET holds it. -/
def execSlewEnd (s : State) : Host.Outcome State Fault Refusal :=
  settleFlags s (s.updTk fun k =>
    let c : Int := (k.voted : Int) + divOpen (k.slewLeft * 2 ^ 48) 1000000
    { k.setCnt c.toNat with ppsOffset := k.ppsOffset + k.slewLeft, slewLeft := 0 })

/-! ### TKREF (R416) -/

/-- The reference chosen at the release of RESET_N. -/
def TkrefMeasure.toTkref : TkrefMeasure → Tkref
  | .absent => .absent
  | .mhz10 => .mhz10
  | .mhz100 => .mhz100

/-- R416: the measurement at the release of RESET_N, while the device boots. -/
def execTkrefSelect (m : TkrefMeasure) (s : State) : Host.Outcome State Fault Refusal :=
  settleFlags s (
    if s.boot.phase == .off || s.boot.phase == .quiet || s.boot.tkrefDone then s
    else { s with tk := { s.tk with tkref := TkrefMeasure.toTkref m }, boot := { s.boot with tkrefDone := true } })

/-- R416: TKREF is lost. -/
def execTkrefLoss (s : State) : Host.Outcome State Fault Refusal :=
  settleFlags s (
    if s.tk.tkref == .mhz10 || s.tk.tkref == .mhz100 then
      (s.updTk fun k => { k.toHoldover with tkref := .lost }).raise evTkrefLost
    else s)

/-! ### The second (R420, R425) -/

/-- Sorted insertion. -/
def insertInt (x : Int) : List Int → List Int
  | [] => [x]
  | y :: t => if x ≤ y then x :: y :: t else y :: insertInt x t
def sortInts (l : List Int) : List Int := l.foldr insertInt []

/-- The median; of an even count, the mean of the middle two, its rounding the device's. -/
def medianInt (l : List Int) : Int :=
  let m := sortInts l
  let n := m.length
  if n % 2 = 1 then m.getD (n / 2) 0 else divOpen (m.getD (n / 2 - 1) 0 + m.getD (n / 2) 0) 2

/-- n² times the variance of n values. -/
def varSum (l : List Int) : Int :=
  let n : Int := l.length
  n * (l.map fun x => x * x).sum - l.sum * l.sum

/-- Close the second of one port (R425): its estimate from at least 32 values. -/
def PortTime.second (t : PortTime) : PortTime :=
  let e := if 32 ≤ t.thetas.length then some (medianInt t.thetas) else none
  { t with
    estimate := e
    lastTheta := e.getD t.lastTheta
    deltaMean := if t.deltas.isEmpty then t.deltaMean else meanInt t.deltas
    missed := if e.isSome then 0 else t.missed + 1 }

/-- The peer of a port shows LOCKED, and its HOP (R424). -/
def PortTime.peerLocked (t : PortTime) : Bool := t.rxAny && t.peerTk.toNat % 8 = 2
def PortTime.peerHop (t : PortTime) : Nat := t.peerTk.toNat / 16

/-- R420: a candidate port. -/
def Port.candidate (q : Port) : Bool := q.state == .up && q.time.peerLocked && q.time.peerHop ≤ 13

/-- The rank of a candidate: HOP, then calibrated, then peer (R420). -/
def Port.rank (q : Port) : Nat := q.time.peerHop * 64 + (if q.time.calibrated then 0 else 32) + q.entry.peer

/-- The best candidate port. -/
def State.bestPeer (s : State) : Option Nat :=
  ((List.range 64).filter fun p => (s.port p).candidate).foldl (fun b p =>
    match b with
    | none => some p
    | some c => if (s.port p).rank < (s.port c).rank then some p else some c) none

/-- R420: the source peer is lost. -/
def State.peerLost (s : State) (p : Nat) : Bool :=
  (s.port p).state != .up || !(s.port p).time.peerLocked || 3 ≤ (s.port p).time.missed

/-- A new source: what R428 keeps of errors and links is of the source (notes/assumptions/51.md). -/
def Tk.takeSource (k : Tk) (src : TimeSrc) (hop : Nat) : Tk := { k with src := src, hop := hop, errs := [], links := [] }

/-- R420: selection of a source at the second, and whether it changed. -/
def State.selectSource (s : State) : State × Bool :=
  let s := match s.tk.src with
    | .peer p => if s.peerLost p then s.updTk Tk.toHoldover else s
    | _ => s
  if s.tk.tkref == .lost then (s, false)
  else if s.tk.ppsValid then
    if s.tk.src == .pps then (s, false) else (s.updTk fun k => (k.toAcquire).takeSource .pps 0, true)
  else if s.tk.src == .none then
    match s.bestPeer with
    | some p => (s.updTk fun k => (k.toAcquire).takeSource (.peer p) ((s.port p).time.peerHop + 1), true)
    | none => (s, false)
  else (s, false)

/-- The per-second histories while LOCKED (R423, R428). -/
def Tk.history (k : Tk) (link : Option Nat) : Tk :=
  let k := if k.state == .locked then { k with ys := lastN 64 (k.ys ++ [k.y]), yls := lastN 64 (k.yls ++ [k.yLoop]) } else k
  match link with
  | some v => { k with links := lastN 64 (k.links ++ [v]) }
  | none => k

/-- n θ values of a second as their variance over n, in ticks² times 2^16 (R428 U_LINK). -/
def linkTerm (l : List Int) : Nat :=
  let n : Int := l.length
  (divOpen (varSum l * 65536) (n * n * n)).toNat

/-- R420, R421, R425: once in each second of voted time. A new source's first error counts from the next second. -/
def execDisciplineSecond (s : State) : Host.Outcome State Fault Refusal :=
  let samples := s.ports.map fun q => q.time.thetas
  let s1 := { s with ports := s.ports.map fun (q : Port) => { q with time := q.time.second } }
  let (s2, changed) := s1.selectSource
  let idle := s2.idleForStep
  let s3 := match s2.tk.src with
    | .peer p =>
      if changed then s2 else
      match (s2.port p).time.estimate with
      | some e => (s2.stepTk fun k => { k.loop idle e with hop := (s2.port p).time.peerHop + 1 }).updTk fun k =>
          k.history (some (linkTerm (samples.getD p [])))
      | none => s2.updTk fun k => { (k.history none).unsteered with lockRun := 0, unlockRun := 0 }
    | _ => s2.updTk fun k => k.history none
  settleFlags s { s3 with ports := s3.ports.map fun (q : Port) => { q with time := { q.time with thetas := [], deltas := [] } } }

/-! ### Uncertainty (R428) -/

/-- Squares are in (ps / 65,536)²: a tick is 1,000 of the unit and a picosecond 65,536. -/
def psUp (sq : Nat) : Nat := min 0xFFFFFFFF (ceilDiv (ceilSqrt sq) 65536)

/-- The mean square of ticks, in that unit. -/
def meanSq (l : List Int) : Nat :=
  if l.isEmpty then 0 else (divOpen ((l.map fun x => x * x).sum * 1000000) l.length).toNat

/-- Squared components U_STAMP, U_LOOP, U_LINK, U_ASYM, U_HOLD. -/
def State.uncertainty (s : State) : List Nat :=
  let k := s.tk
  let loop := meanSq k.errs
  let hold := if k.state == .holdover then
      let sigma := if k.ys.isEmpty then 0 else ceilSqrt (divOpen (varSum k.ys) (k.ys.length * k.ys.length)).toNat
      let drift := sigma + if k.tkref == .lost then 2000000000000 else 100000000
      let u := (divOpen (drift * (s.now - k.holdSince : Nat) * 1000) 1000000000000000000).toNat
      u * u
    else 0
  match k.src with
  | .peer p =>
    let t := (s.port p).time
    let link := if k.links.isEmpty then 0 else (divOpen (((k.links.sum : Nat) : Int) * 1000000) (65536 * k.links.length)).toNat
    let asym := if t.calibrated then
        (divOpen (varSum t.asymSamples * 1000000) (4 * t.asymSamples.length * t.asymSamples.length * t.asymSamples.length)).toNat
      else (t.deltaMean * t.deltaMean * 1000000).toNat
    [0, loop, link, asym, hold]
  | .pps => [(10 * 65536) * (10 * 65536), loop, 0, 0, hold]
  | .none => [0, loop, 0, 0, hold]

/-- U_TOTAL in ps (R428). -/
def State.uTotal (s : State) : Nat := if s.tk.state == .freerun then 0xFFFFFFFF else psUp s.uncertainty.sum

/-- Signed 32-bit saturation. -/
def sat32 (x : Int) : Int := clampBits 32 x

/-- Ticks to ps, the rounding the device's. -/
def tickPs (t : Int) : Int := divOpen (t * 1000) 65536

def Tkref.code : Tkref → Nat
  | .absent => 0
  | .mhz10 => 1
  | .mhz100 => 2
  | .lost => 3

/-- Table — Time port entry (R429). -/
def State.timePort (s : State) (p : Nat) : List Byte :=
  let q := s.port p
  le 1 p ++ le 1 (flagBit (q.state == .up) 0 + flagBit q.time.calibrated 1 + flagBit q.candidate 2) ++ le 1 q.entry.peer
    ++ le 1 q.time.peerTk.toNat ++ leInt 4 (sat32 (tickPs q.time.deltaMean)) ++ leInt 4 (sat32 (tickPs q.time.lastTheta))
    ++ leInt 4 (if q.time.calibrated then sat32 (tickPs q.time.asym) else 0)

/-- The 1,152 B record of TIME_STATUS (R429). -/
def State.timeRecord (s : State) : List Byte :=
  let k := s.tk
  let srcPort := match k.src with | .peer p => p | _ => 0xFF
  let srcPeer := match k.src with | .peer p => (s.port p).entry.peer | _ => 0xFF
  let cal := match k.src with | .peer p => (s.port p).time.calibrated | _ => false
  le 1 k.state.code ++ le 1 (match k.src with | .none => 0 | .pps => 1 | .peer _ => 2) ++ le 1 k.hop ++ le 1 srcPeer
    ++ le 1 srcPort ++ le 1 k.tkref.code ++ le 2 (flagBit k.timeFault 0 + flagBit (k.slewLeft != 0) 1 + flagBit cal 2)
    ++ fullImage s.now ++ le 8 k.lastPps.toNat ++ le 8 k.lastLock.toNat ++ leInt 8 k.yLoop ++ leInt 8 k.yHost
    ++ leInt 8 (divOpen k.slewLeft 1000000) ++ leInt 8 (divOpen k.ppsOffset 1000000) ++ leInt 4 (sat32 (tickPs k.phaseErr))
    ++ s.uncertainty.flatMap (fun u => le 4 (psUp u)) ++ le 4 s.uTotal ++ le 2 k.ppsReject ++ le 2 k.resync
    ++ le 2 k.schedLate ++ le 2 k.lockLoss ++ le 4 k.sysrefEdges ++ le 4 k.sysrefMisalign ++ List.replicate 12 0
    ++ (List.range 64).flatMap s.timePort

end Sys2Proof.Machine
end

