-- ==== Sys2Proof/Machine/Fabric.lean ====
section
/-! DEFINITION. The control traffic of fabric ports (04_lerdan_fabric.md): credits, HELLO, HEALTH, TIME, CMD, port
timeouts, DATA leaving a port, and commands forwarded to peers (R336, R337). -/
namespace Sys2Proof.Machine

/-! ### Credits (R105–R107, R111) -/

/-- Credited packets sent and not yet released by the partner (R106). -/
def Port.outstanding (q : Port) : Nat := (q.txSent + 65536 - q.txReleased % 65536) % 65536

/-- R106: a CREDIT block; it is ignored, and counts DROP_FORM, when its complement fails or the count would be negative
or above 32. -/
def execCreditBlockReceive (port : Nat) (released compl : BitVec 16) (s : State) : Host.Outcome State Fault Refusal :=
  settleFlags s (
    if s.portHears port && (s.port port).state == .up then
      let q := { s.port port with txReleased := released.toNat }
      if compl == ~~~ released && q.outstanding ≤ 32 then
        s.updPort port fun _ => { q with stalled := q.stalled && q.outstanding == 32 }
      else s.countUnsound port .form
    else s)

/-- R106: a CREDIT block is due, with the count of the credits released by now (R105). -/
def execCreditSend (port : Nat) (s : State) : Host.Outcome State Fault Refusal :=
  settleFlags s (
    if (s.port port).state == .up then
      let q := (s.port port).finish s.now
      (s.updPort port fun _ => { q with tx := { q.tx with credit := true } }).emit (.credit port (BitVec.ofNat 16 q.rxReleased))
    else s)

/-- A credited packet waits at a port: DATA in its queue, or PARTIAL for its peer (R110, R135). -/
def State.creditedWaits (s : State) (p : Nat) : Bool :=
  !(s.port p).txData.isEmpty || s.handles.live.any fun e => match e.obj with
    | .xprod x => x.shipping.any fun a => a.peer == (s.port p).entry.peer
    | _ => false

/-- R111: zero credits with a credited packet waiting for 1 ms. -/
def execCreditStall (port : Nat) (s : State) : Host.Outcome State Fault Refusal :=
  settleFlags s (
    if (s.port port).state == .up && (s.port port).outstanding == 32 && s.creditedWaits port && !(s.port port).stalled then
      (s.updPort port fun q => { q with stalled := true, cnt := { q.cnt with creditStall := satAdd 16 q.cnt.creditStall 1 } }).raise evPort
    else s)

/-! ### HELLO (R100, R115, R117) -/

/-- R107: credited packets whose framing was lost are added to both counts. -/
def Port.shortfall (q : Port) (txCredited : Nat) : Port :=
  let d := (txCredited + 2 ^ 32 - q.rxCount % 2 ^ 32) % 2 ^ 32
  if d < 2 ^ 31 then { q with rxCount := q.rxCount + d, rxReleased := q.rxReleased + d } else q

/-- DIE_ID of a peer since PLANE_JOIN (R117). -/
def State.dieIdOf (s : State) (peer : Nat) : Option (BitVec 64) := (s.plane.dieIds.find? fun e => e.1 == peer).map (·.2)
def State.setDieId (peer : Nat) (die : BitVec 64) (s : State) : State :=
  { s with plane := { s.plane with dieIds := (s.plane.dieIds.filter fun e => e.1 != peer) ++ [(peer, die)] } }

/-- R117: the DIE_ID of a HELLO differs from the recorded one: two entries with one TIME, and the port to LINKED. -/
def State.peerReplaced (p : Nat) (old new : BitVec 64) (s : State) : State :=
  let d (which : Nat) (v : BitVec 64) := le 1 p ++ le 1 which ++ List.replicate 6 0 ++ le 8 v.toNat
  let s := (s.logAdd 0x0601 0 0xFF (d 1 old)).logAdd 0x0601 0 0xFF (d 0 new)
  let s := s.setDieId (s.port p).entry.peer new
  (s.portTo p .linked false).raise evPort

/-- Enter UP under the partner's LINK_EPOCH (R107, R115); the partner's DIE_ID is recorded at the first UP (R117). -/
def State.portUp (p : Nat) (epoch : BitVec 32) (die : BitVec 64) (s : State) : State :=
  let s := s.portTo p .up false
  let s := s.updPort p fun q => q.enterUp epoch
  let peer := (s.port p).entry.peer
  if (s.dieIdOf peer).isNone then s.setDieId peer die else s

/-- What a valid HELLO on a port in LINKED or UP does to the port's state. -/
def State.helloState (p : Nat) (b : List Byte) (s : State) : State :=
  let flags := BitVec.ofNat 32 (u32 b 8)
  let epoch := BitVec.ofNat 32 (u32 b 12)
  let die := BitVec.ofNat 64 (u64 b 16)
  let lives := bit flags.toNat 0 && !bit flags.toNat 3 && !bit flags.toNat 1
  let s := s.updPort p fun q => { q with
    helloFlags := flags, mapGen := BitVec.ofNat 32 (u32 b 24), pendingGen := BitVec.ofNat 32 (u32 b 28)
    heard := true, helloAt := if lives then some s.now else q.helloAt }
  if bit flags.toNat 1 then s.portTo p .linked true
  else if bit flags.toNat 3 then s.portTo p .linked false
  else if !bit flags.toNat 0 then s
  else
    let s := match s.dieIdOf (s.port p).entry.peer with
      | some old => if old != die then s.peerReplaced p old die else s
      | none => s
    if (s.port p).state == .up then
      if (s.port p).epochAtUp == epoch then s else (s.portTo p .linked false).portUp p epoch die
    else s.portUp p epoch die

/-- A valid HELLO on a port in LINKED or UP acts; each compares the counts of credited packets (R107). -/
def State.hello (p : Nat) (b : List Byte) (s : State) : State := (s.helloState p b).updPort p fun q => q.shortfall (u32 b 40)

/-- R100: the bytes of a HELLO that arrived. -/
def State.helloIn (p : Nat) (b : List Byte) (s : State) : State :=
  let v := s.ctrlSound p 0x10 64 [(44, 16)] b
  let v := if v == .good && bits (u32 b 8) 31 5 != 0 then .form else v
  if v == .good then
    if (s.port p).state == .linked || (s.port p).state == .up then s.hello p b else s
  else s.countUnsound p v

/-- R100: a received HELLO. -/
def execHelloReceive (port : Nat) (a : Arrival) (s : State) : Host.Outcome State Fault Refusal :=
  settleFlags s (s.portIn port false a fun b s => s.helloIn port b)

/-- R100: the bytes of a HELLO; `leaving` for the last one of PLANE_LEAVE (R118). -/
def State.helloBytes (s : State) (p : Nat) (leaving : Bool) : List Byte :=
  let q := s.port p
  let flags := flagBit s.plane.joined 0 + flagBit leaving 1 + flagBit (s.tk.state == .locked) 2 + flagBit s.teller.safe 3
    + flagBit s.plane.pending.isSome 4
  withCrc (s.ctrlHeadFor p 0x10 64 ++ le 4 flags ++ le 4 q.epochOwn.toNat ++ le 8 s.fuse.dieId.toNat
    ++ le 4 ((s.plane.map.map (·.gen.toNat)).getD 0) ++ le 4 ((s.plane.pending.map (·.1.gen.toNat)).getD 0)
    ++ le 8 ((s.plane.pending.map (·.2.toNat)).getD 0) ++ le 4 (q.txSent % 2 ^ 32) ++ List.replicate 16 0)

/-- R100: HELLO leaves a port in LINKED or UP every 1 ms, in SAFE_STATE too (R446). -/
def execHelloSend (port : Nat) (s : State) : Host.Outcome State Fault Refusal :=
  settleFlags s (
    if (s.port port).state == .linked || (s.port port).state == .up then s.sendBulk port 0 (s.helloBytes port false) else s)

/-- R115: no such HELLO for 3.5 ms. -/
def execHelloTimeout (port : Nat) (s : State) : Host.Outcome State Fault Refusal :=
  settleFlags s (
    if (s.port port).state == .up then
      match (s.port port).helloAt with
      | some t => if t + 3500 * tickUs ≤ s.now then s.portTo port .linked false else s
      | none => s.portTo port .linked false
    else s)

/-- R128, R115: the hold-off ends; the port takes the state that alignment and markers give. -/
def execQuarantineEnd (port : Nat) (s : State) : Host.Outcome State Fault Refusal :=
  settleFlags s (
    if (s.port port).state == .quarantined && (s.port port).quarantineUntil ≤ s.now then
      s.portTo port (s.portSettled port) false
    else s)

/-! ### HEALTH (R101) -/

/-- Sums over ports of drops at source and on receipt. -/
def State.txDropSum (s : State) : Nat := (s.ports.map fun q => q.cnt.txDrop).sum
def State.rxDropSum (s : State) : Nat :=
  (s.ports.map fun q => q.cnt.dropCrc + q.cnt.dropForm + q.cnt.dropLate + q.cnt.dropEarly + q.cnt.dropNotOwner + q.cnt.dropDup).sum

/-- R101: LEAD in SAFE_STATE is 0xFF, as in the Statement (DESIGN CHOICE, notes/assumptions/149.md). -/
def execHealthSend (port : Nat) (s : State) : Host.Outcome State Fault Refusal :=
  settleFlags s (
    if (s.port port).state == .up then
      s.sendBulk port 0 (withCrc (s.ctrlHeadFor port 0x11 64 ++ le 1 s.healthState ++ le 1 s.leadCode ++ [0, 0]
        ++ le 4 s.ledger.generation.toNat ++ le 8 s.stamp.toNat ++ leInt 2 s.tempMax ++ [0, 0] ++ le 4 s.eventFlags.toNat
        ++ le 8 s.txDropSum ++ le 8 s.rxDropSum ++ List.replicate 12 0))
    else s)

/-- R101: the latest HEALTH of each peer is kept. -/
def State.healthIn (p : Nat) (b : List Byte) (s : State) : State :=
  let v := s.ctrlSound p 0x11 64 [(10, 2), (26, 2), (48, 12)] b
  if v == .good then
    if (s.port p).state == .linked || (s.port p).state == .up then
      let peer := u8 b 2
      { s with plane := { s.plane with health := (s.plane.health.filter fun e => e.1 != peer) ++ [(peer, b)] } }
    else s
  else s.countUnsound p v

def execHealthReceive (port : Nat) (a : Arrival) (s : State) : Host.Outcome State Fault Refusal :=
  settleFlags s (s.portIn port false a fun b s => s.healthIn port b)

/-! ### TIME (R102, R424–R426) -/

/-- R424: a TIME packet is queued; it leaves stamped `depart` at its port. One that finds the queue full is discarded before it
has its number (R109). -/
def execTimeSend (port depart : Nat) (s : State) : Host.Outcome State Fault Refusal :=
  settleFlags s (
    if (s.port port).state == .up && s.urgentFull port then s.sendUrgent port false []
    else if (s.port port).state == .up then
      let t := (s.port port).time
      let stamp (x : Nat) : Nat × Nat := ((s.stampAt x).toNat, ticksFrac x)
      let a := if t.rxAny then stamp t.rxArrival else (0, 0)
      let d := if t.tseq = 0 then (0, 0) else stamp t.prevDepart
      let b := withCrc (s.ctrlHeadFor port 0x20 64 ++ le 4 t.tseq ++ le 4 (if t.rxAny then t.rxTseq else 0) ++ le 8 a.1
        ++ le 2 a.2 ++ le 2 d.2 ++ List.replicate 4 0 ++ le 8 d.1 ++ le 1 (s.tk.state.code + 16 * s.tk.hop)
        ++ List.replicate 19 0)
      let s := s.updPort port fun q => { q with time := { q.time with
        tseq := (t.tseq + 1) % 2 ^ 32, prevDepart := depart, departs := lastN 256 (t.departs ++ [(t.tseq, depart)]) } }
      s.sendUrgent port false b
    else s)

/-- R425, R426: fwd and rev of a packet, when its four stamps are known. -/
def State.timePair (s : State) (t : PortTime) (b : List Byte) : Option (Int × Int) :=
  let t1 := u64 b 32
  let t4 := u64 b 16
  if t1 % 2 ^ 62 = 0 || t4 % 2 ^ 62 = 0 || !t.rxAny || u32 b 8 ≠ (t.rxTseq + 1) % 2 ^ 32 then none
  else match t.departs.find? fun e => e.1 == u32 b 12 with
    | none => none
    | some (_, t3) =>
      let f1 : Int := (s.full (BitVec.ofNat 64 t1) + u16 b 26 : Nat)
      let f4 : Int := (s.full (BitVec.ofNat 64 t4) + u16 b 24 : Nat)
      some ((t.rxArrival : Int) - f1, f4 - (t3 : Int))

/-- R426: the condition under which a port calibrates. -/
def State.calibrating (s : State) (peerTk : Nat) : Bool :=
  peerTk % 8 == 2 && peerTk / 16 == 0 && s.tk.state == .locked && s.tk.src == .pps

/-- R425, R426: what a packet gives to the second, and to the calibration of the port. -/
def PortTime.take (t : PortTime) (calibrating : Bool) (pair : Option (Int × Int)) : PortTime :=
  match pair with
  | none => t
  | some (fwd, rev) =>
    let delta := divOpen (fwd + rev) 2
    let theta := if calibrating then 0 else divOpen (fwd - rev - t.asym) 2
    let t := { t with thetas := t.thetas ++ [theta], deltas := t.deltas ++ [delta] }
    if calibrating then
      let v := lastN 1024 (t.asymSamples ++ [fwd - rev])
      if v.length = 1024 then { t with asymSamples := v, asym := meanInt v, calibrated := true } else { t with asymSamples := v }
    else t

/-- R425: the bytes of a TIME packet that arrived at `arrival`. -/
def State.timeIn (p arrival : Nat) (b : List Byte) (s : State) : State :=
  let v := s.ctrlSound p 0x20 64 [(28, 4), (41, 19)] b
  let v := if v == .good && bit (u8 b 40) 3 then .form else v
  if v == .good then
    if (s.port p).state == .up then
      let tkState := u8 b 40
      s.updPort p fun q =>
        let t := q.time.take (s.calibrating tkState) (s.timePair q.time b)
        { q with time := { t with rxTseq := u32 b 8, rxArrival := arrival, rxAny := true, peerTk := BitVec.ofNat 8 tkState } }
    else s
  else s.countUnsound p v

def execTimeReceive (port : Nat) (a : Arrival) (arrival : Nat) (s : State) : Host.Outcome State Fault Refusal :=
  settleFlags s (s.portIn port true a fun b s => s.timeIn port arrival b)

/-! ### CMD (R104, R124–R129, R337) -/

/-- R127: one more packet in this second; false beyond the rate. -/
def rateStep (now rate : Nat) (c : Nat × Nat) : (Nat × Nat) × Bool :=
  let sec := ticksSec now
  let n := if c.1 = sec then c.2 else 0
  if n < rate then ((sec, n + 1), true) else ((sec, n), false)

def State.ctrlDrop (p : Nat) (s : State) : State := s.countPort p fun c => { c with ctrlDrop := satAdd 32 c.ctrlDrop 1 }

/-- R337: a reply from a peer goes to the source of the oldest matching forward; FINAL closes the forward. -/
def State.peerReply (peer : Nat) (rep : List Byte) (s : State) : State :=
  let hit (f : Forward) : Bool := f.peer == peer && f.op == u8 rep 0 && f.tag.toNat == u32 rep 4
  match s.teller.forwards.find? hit with
  | none => (s.updHealth fun h => { h with fwdUnmatched := satAdd 32 h.fwdUnmatched 1 }).raise evReplyDiscard
  | some f =>
    let final := bit (u8 rep 1) 2
    let mark (l : List Forward) : List Forward :=
      if final then l.erase f else l.map fun g => if g == f then { g with replied := true } else g
    let s := s.updTeller fun t => { t with forwards := mark t.forwards }
    s.post f.src f.notify f.lost fun ph => patch (slice rep 0 32) 1 (le 1 (flagBit ph 0 + 2 + flagBit final 2 + 8 * (peer % 32)))

/-- R125, R126: tag and replay of a CMD body from the port's peer under its bound slot. -/
inductive AuthResult where
  | ok | badTag | replay
  deriving DecidableEq, Repr

def State.authCmd (s : State) (p : Nat) (pkt body : List Byte) (seqOf : Option Nat) : AuthResult :=
  let k := s.keySlot (s.port p).entry.cmdSlot
  let n := body.length - 8
  if cmdTag k.key pkt (body.take n) != body.drop n then .badTag
  else match seqOf with
    | none => .ok
    | some q => if q > k.highOf (s.port p).entry.peer then .ok else .replay

/-- R128, R129: a tag failure or a replay of a command: counted, answered, and towards quarantine. -/
def State.authRefused (p : Nat) (body : List Byte) (replay : Bool) (s : State) : State :=
  let s := s.countPort p fun c => if replay then { c with replay := satAdd 16 c.replay 1 } else { c with authFail := satAdd 16 c.authFail 1 }
  let s := s.fabricReply p (replyBytes (u8 body 0) false false true 0 (BitVec.ofNat 32 (u32 body 4))
    { status := if replay then stReplay else stAuth } s.stamp)
  s.authFailure p

/-- The body of a CMD packet: a command packet of LENGTH words, or a reply with its tag (R104). -/
def cmdBody (b : List Byte) : List Byte :=
  let room := b.length - 20
  let n := if u8 b 9 = 1 then 40 else 4 * u16 b 18
  (b.drop 16).take (if n ≤ room && room < n + 8 then n else room)

/-- Form of a CMD packet (R100, R104). Its PAD is not tested, and a KEY_SLOT above 15 breaks the form (DESIGN CHOICE,
notes/assumptions/150.md and 151.md). -/
def cmdFormOk (b : List Byte) : Bool :=
  u8 b 0 == 0x30 && u8 b 1 == 1 && u16 b 6 == b.length && 32 ≤ b.length && b.length ≤ 512 && b.length % 8 == 0
    && u8 b 8 < 16 && u8 b 9 < 2 && zeroAt b 10 6 && 8 ≤ (cmdBody b).length && (u8 b 9 == 0 || (cmdBody b).length == 40)

/-- R124: a received CMD, in the order framing, rate, key slot, tag, replay; then to the Teller or to the forward it
answers. -/
def State.cmdIn (p : Nat) (b : List Byte) (s : State) : State :=
  let (c, ok) := rateStep s.now (s.port p).entry.cmdRate (s.port p).cmdThisSecond
  let s := s.updPort p fun q => { q with cmdThisSecond := c }
  let body := cmdBody b
  let isReply := u8 b 9 == 1
  if !ok || (!isReply && 8 ≤ s.teller.fabQ.countP fun e => e.1 == p) then s.ctrlDrop p
  else if u8 b 8 ≠ (s.port p).entry.cmdSlot then
    (s.countPort p fun c => { c with authFail := satAdd 16 c.authFail 1 }).authFailure p
  else if (s.keySlot (s.port p).entry.cmdSlot).state = 0 then s.countUnsound p .form
  else
    match s.authCmd p b body (if isReply then none else some (u32 body 12)) with
    | .badTag => if isReply then (s.countPort p fun c => { c with authFail := satAdd 16 c.authFail 1 }).authFailure p
      else s.authRefused p body false
    | .replay => s.authRefused p body true
    | .ok =>
      if isReply then s.peerReply (s.port p).entry.peer (body.take 32)
      else
        let peer := (s.port p).entry.peer
        let s := s.acceptSeq (s.port p).entry.cmdSlot peer (u32 body 12)
        s.updTeller fun t => { t with fabQ := t.fabQ ++ [(p, { src := .fabric p, bytes := body })] }

/-- R124 step 1, and the rest for a CMD that passes it. -/
def State.cmdArrives (p : Nat) (b : List Byte) (s : State) : State :=
  let v : Sound := if !crcLastOk b then .crc
    else if cmdFormOk b && (s.port p).state == .up && s.addressed p (u8 b 2) (u8 b 3) (u16 b 4) then .good else .form
  if v == .good then s.cmdIn p b else s.countUnsound p v

def execCmdReceive (port : Nat) (a : Arrival) (s : State) : Host.Outcome State Fault Refusal :=
  settleFlags s (s.portIn port false a fun b s => s.cmdArrives port b)

/-! ### Forwarding (R336, R337) -/

/-- The checks of R336 in the order of R340. -/
def Pkt.forwardRefusal (p : Pkt) (s : State) : Option Res :=
  let n := 4 * p.len
  let dest := u8 p.b (n - 8)
  let port := s.portOfPeer dest
  let slot := (s.port (port.getD 0)).entry.cmdSlot
  firstFailure [
    failIf (!p.sourceLengthOk) stLength,
    failIf s.teller.safe stSafe,
    failIf (!s.ledger.firstDone) stState,
    failIf (p.flags ≥ 16 || p.paramErr || p.indirect || n > 492 || u32 p.b 12 != 0 || !zeroAt p.b (n - 7) 7
      || (s.plane.joined && dest == s.plane.peerId) || port.isNone) stParam,
    if (s.port (port.getD 0)).state == .up then none else some { status := stFault, r0 := 2 },
    failIf ((s.keySlot slot).state == 0 || (s.keySlot slot).cmdSend > 0xFFFFFFFF) stState,
    shortOf stResource 12 (s.teller.forwards.length + 1) 256]

/-- R336: the fabric CMD of a forwarded packet: SEQUENCE from the send counter, the tag in the trailer. -/
def Pkt.forwardTo (p : Pkt) (port : Nat) (s : State) : State :=
  let slot := (s.port port).entry.cmdSlot
  let k := s.keySlot slot
  let n := 4 * p.len
  let body := patch (slice p.b 0 (n - 8)) 12 (le 4 k.cmdSend)
  let head := s.ctrlHeadFor port 0x30 (cmdLength n)
  let fwd : Forward := { src := p.src, peer := (s.port port).entry.peer, op := p.op, tag := p.tag, notify := p.notify, sent := s.now, ctr := p.ctr, lost := p.lost }
  let s := s.updTeller fun t => { t with commits := t.commits + 1, forwards := t.forwards ++ [fwd] }
  let s := s.updKey slot fun k => { k with cmdSend := k.cmdSend + 1 }
  let s := if k.cmdSend = 0xFFFFFFFF then s.raise evSendSeq else s
  s.sendBulk port 0 (cmdPacket head slot 0 (body ++ cmdTag k.key head body))

/-- R336: a command with AUTH at the head of the ring or SPI is forwarded. -/
def execForward (src : Source) (s : State) : Host.Outcome State Fault Refusal :=
  settleFlags s (
    match s.pktOf src true .failed with
    | none => s
    | some p =>
      if p.isForward && s.canTake src p then
        let s := s.pop src
        match p.forwardRefusal s with
        | some r => p.reply true r (s.record p r.status)
        | none => p.forwardTo ((s.portOfPeer (u8 p.b (4 * p.len - 8))).getD 0) s
      else s)

/-- R337: no first reply within 100 ms. -/
def execForwardTimeout (n : Nat) (s : State) : Host.Outcome State Fault Refusal :=
  settleFlags s (
    match s.teller.forwards[n]? with
    | none => s
    | some f =>
      if !f.replied && f.sent + 100 * tickMs ≤ s.now then
        let s := s.updTeller fun t => { t with forwards := t.forwards.erase f }
        let c := s.stamp
        s.post f.src f.notify f.lost fun ph => replyBytes f.op ph false true 0 f.tag { status := stFault, r0 := 1 } c
      else s)

/-! ### DATA leaving a port (R108, R110, R121) -/

/-- The position of the waiting DATA packet with the earliest deadline. -/
def earliest (l : List TxData) : Option TxData :=
  l.foldl (fun b d => match b with | none => some d | some c => if d.deadline < c.deadline then some d else some c) none

/-- A DATA packet with its SEQ and CRC (R96, R97, R121). -/
def finishData (seq : Nat) (b : List Byte) : List Byte :=
  let b := patch b 18 (le 2 seq)
  patch b 28 (le 4 (crc32c (b.take 28 ++ b.drop 32)))

def execDataTransmit (port : Nat) (s : State) : Host.Outcome State Fault Refusal :=
  settleFlags s (
    match earliest (s.port port).txData with
    | none => s
    | some d =>
      if s.teller.safe || (s.port port).state != .up then s
      else if d.deadline < s.now then
        s.updPort port fun q => { q with txData := q.txData.erase d, cnt := { q.cnt with txDrop := satAdd 32 q.cnt.txDrop 1 } }
      else if (s.port port).outstanding ≥ 32 then s
      else
        let q := s.port port
        let s := s.updPort port fun q => { q with
          txData := q.txData.erase d, seqTx := (q.seqTx + 1) % 65536, txSent := q.txSent + 1,
          cnt := { q.cnt with txData := satAdd 32 q.cnt.txData 1 } }
        s.sendBulk port 1 (finishData q.seqTx d.bytes))

end Sys2Proof.Machine
end

