-- ==== Sys2Proof/Machine/CmdDevice.lean ====
section
/-! DEFINITION. Device, key and plane-membership commands of 11_command_reference.md: NOP to LOCK, PORT_BIND,
PLANE_JOIN, PLANE_LEAVE, FENCE, and an opcode that is not implemented. -/
namespace Sys2Proof.Machine

/-- An opcode that is not implemented (R48, R340 step 2). -/
def badOpcodeBody (p : Pkt) (_ : State) : Body :=
  { words := p.len, checks := [some { status := stOpcode }], effect := okWith id }

/-- R48: the head of a source carries an opcode that is not implemented. -/
def execBadOpcode (src : Source) (s : State) : Host.Outcome State Fault Refusal :=
  settleFlags s (
    match s.pktOf src true .failed with
    | none => s
    | some p =>
      if !opcodes.contains p.op && !p.isForward && s.canTake src p then
        let s := s.pop src
        p.run (badOpcodeBody p s) s
      else s)

/-! ### NOP, IDENTIFY, LEDGER_READ -/

/-- R361. -/
def nopBody (p : Pkt) (_ : State) : Body := { words := 4, checks := [p.noTarget], effect := okWith id }

def execNop (src : Source) (s : State) : Host.Outcome State Fault Refusal :=
  settleFlags s (runOp 0x00 nopBody src true .failed s)

/-- R362. -/
def identifyBody (p : Pkt) (s : State) : Body :=
  { words := 4, checks := [p.noTarget]
    effect := fun t => (t, {
      r0 := s.ledger.generation.toNat, r1 := s.ledger.fwVersion.toNat
      r2 := s.plane.ownPlane + s.plane.ownPeer * 2 ^ 16 + flagBit s.plane.joined 24 }, .done) }

def execIdentify (src : Source) (s : State) : Host.Outcome State Fault Refusal :=
  settleFlags s (runOp 0x01 identifyBody src true .failed s)

/-- R363. -/
def ledgerReadBody (p : Pkt) (s : State) : Body :=
  let o := u32 p.b 16
  { words := 10
    checks := [p.noTarget, p.reserved [(20, 4), (36, 4)], failIf (o % 4 != 0 || o ≥ 65536) stParam, p.destBad 24 32]
    effect := fun t => p.bulk 24 32 (s.ledgerImage.drop o) s.ledger.generation.toNat id t }

def execLedgerRead (src : Source) (wr : Bool) (s : State) : Host.Outcome State Fault Refusal :=
  settleFlags s (runOp 0x02 ledgerReadBody src wr .failed s)

/-! ### Keys -/

/-- Some bound port names the key slot (R113). -/
def State.slotBound (s : State) (n : Nat) : Bool :=
  s.ports.any fun q => q.entry.bound && (q.entry.cmdSlot == n || q.entry.trigSlot == n)

/-- R364: the slot after a load. -/
def loadedKey (p : Pkt) (h : Handle) : KeySlot :=
  { state := 1, usage := u8 p.b 17, keyId := BitVec.ofNat 32 (u32 p.b 20), key := slice p.b 24 16, handle := h }

/-- No free index (R342, R353 code 12). -/
def noIndex (s : State) : Option Res := if s.handles.next.isNone then shortOf stResource 12 4097 4096 else none

/-- R364. -/
def keyLoadBody (p : Pkt) (s : State) : Body :=
  let n := u8 p.b 16
  let k := s.keySlot n
  let fresh := p.target == 0
  { words := 10
    checks := [
      p.reserved [(18, 2)],
      failIf (n ≥ 16 || u8 p.b 17 == 0 || u8 p.b 17 > 2) stParam,
      if fresh then none else badKind s p.target [7],
      failIf (!fresh && (s.find p.target).isSome && (k.handle != p.target || (u8 p.b 17 != k.usage && s.slotBound n))) stParam,
      if fresh then none else stale s p.target,
      failIf (k.state == 2) stState,
      failIf (fresh && k.state != 0) stHeld,
      if fresh then noIndex s else none]
    effect := fun t =>
      if fresh then
        match t.handles.alloc (.keySlot n) with
        | some (h, hs) => (({ t with handles := hs }.updKey n fun _ => loadedKey p h).ledgerChange, { handle := h, r0 := n }, .done)
        | none => (t, { status := stResource }, .done)
      else ((t.updKey n fun _ => loadedKey p p.target).ledgerChange, { handle := p.target, r0 := n }, .done) }

def execKeyLoad (src : Source) (s : State) : Host.Outcome State Fault Refusal :=
  settleFlags s (runOp 0x03 keyLoadBody src true .failed s)

/-- R365. -/
def lockBody (p : Pkt) (s : State) : Body :=
  let m := u16 p.b 16
  let lockAll (l : List KeySlot) : List KeySlot :=
    (List.range 16).map fun i => let k := l.getD i {}; if bit m i && k.state == 1 then { k with state := 2 } else k
  { words := 5
    checks := [p.noTarget, p.reserved [(18, 2)], failIf ((List.range 16).any fun i => bit m i && (s.keySlot i).state == 0) stParam]
    effect := okWith fun t =>
      if (List.range 16).any fun i => bit m i && (t.keySlot i).state == 1 then
        { t with ledger := { t.ledger with keys := lockAll t.ledger.keys } }.ledgerChange
      else t }

def execLock (src : Source) (s : State) : Host.Outcome State Fault Refusal :=
  settleFlags s (runOp 0x04 lockBody src true .failed s)

/-! ### PORT_BIND (R113, R371) -/

/-- The expected-peer entry of a 64-bit word (R113). -/
def peerEntryOf (w : Nat) : PeerEntry :=
  { peer := bits w 4 0, bound := bit w 7, cmdSlot := bits w 11 8, trigSlot := bits w 15 12, cmdRate := bits w 31 16,
    trigRate := bits w 47 32, holdOff := bits w 63 48 }

/-- A key slot is loaded with another usage (R113). -/
def State.slotMismatch (s : State) (n usage : Nat) : Bool := (s.keySlot n).state != 0 && (s.keySlot n).usage != usage

def portBindBody (p : Pkt) (s : State) : Body :=
  let n := u8 p.b 16
  let w := u64 p.b 24
  let e := peerEntryOf w
  { words := 8
    checks := [
      p.noTarget, p.reserved [(17, 7)],
      failIf (n ≥ 64 || bits w 6 5 != 0 || e.cmdRate == 0 || e.trigRate == 0 || e.holdOff == 0 || e.holdOff > 3600) stParam,
      failIf ((s.octet n).role != 2 && s.present 7 n) stParam,
      failIf (s.plane.joined && e.peer == s.plane.peerId) stParam,
      failIf ((List.range 64).any fun i => i != n && (s.port i).entry.bound && (s.port i).entry.peer == e.peer) stParam,
      failIf (s.slotMismatch e.cmdSlot 1 || s.slotMismatch e.trigSlot 2) stParam,
      unitAbsent s 7 n, unitFault s 7 n]
    effect := okWith fun t =>
      let t := if (t.port n).state == .unbound then t else t.portTo n .down false
      let t := t.updPort n fun q => { q with entry := e, heard := false }
      t.portEval n }

def execPortBind (src : Source) (s : State) : Host.Outcome State Fault Refusal :=
  settleFlags s (runOp 0x13 portBindBody src true .failed s)

/-! ### Plane membership (R114, R118, R373) -/

/-- Re-evaluate every port (R115). -/
def State.evalPorts (s : State) : State := (List.range 64).foldl (fun s p => s.portEval p) s

def planeJoinBody (p : Pkt) (s : State) : Body :=
  let plane := u16 p.b 16
  let peer := u8 p.b 18
  { words := 5
    checks := [
      p.noTarget, p.reserved [(19, 1)],
      failIf (plane == 0 || peer > 31 || (s.ports.any fun q => q.entry.bound && q.entry.peer == peer)) stParam,
      failIf s.plane.joined stState]
    effect := okWith fun t =>
      State.evalPorts { t with
        plane := { t.plane with joined := true, planeId := BitVec.ofNat 16 plane, peerId := peer, dieIds := [] } } }

def execPlaneJoin (src : Source) (s : State) : Host.Outcome State Fault Refusal :=
  settleFlags s (runOp 0x18 planeJoinBody src true .failed s)

/-- An XPROD or BEAM handle is ARMED, RUNNING or STOPPING (R373). -/
def State.productActive (s : State) : Bool :=
  s.handles.live.any fun e => (e.obj.kind == 1 || e.obj.kind == 2) && e.st.active

def planeLeaveBody (p : Pkt) (s : State) : Body :=
  { words := 4
    checks := [p.noTarget, failIf (!s.plane.joined || s.plane.pending.isSome || s.productActive) stState]
    effect := okWith fun t =>
      let t := (List.range 64).foldl (fun (t : State) p =>
        if (t.port p).state == .up then t.sendBulk p 0 (t.helloBytes p true) else t) t
      State.evalPorts { t with plane := { t.plane with
        joined := false, planeId := 0, peerId := 0, map := none, switched := [], starts := [], old := [], accepted := [], partials := [] } } }

def execPlaneLeave (src : Source) (s : State) : Host.Outcome State Fault Refusal :=
  settleFlags s (runOp 0x1A planeLeaveBody src true .failed s)

/-! ### FENCE (R348, R412) -/

def fenceBody (p : Pkt) (_ : State) : Body :=
  { words := 4, checks := [p.noTarget], deferred := true, effect := fun t => (t, {}, .wait .fence) }

def execFence (src : Source) (s : State) : Host.Outcome State Fault Refusal :=
  settleFlags s (runOp 0x72 fenceBody src true .failed s)

end Sys2Proof.Machine
end

