-- ==== Sys2Proof/Machine/Vault.lean ====
section
/-! DEFINITION. The Vault (09_vault_reserve_integrity.md): pages and their allocation (R286–R289), the word code and its
readers (R291–R293), the Auditor (R294–R297), and the relocation of retired pages (R303). Words are numbered by
Vault address / 8, pages by die × 32,768 + bank × 512 + page. -/
namespace Sys2Proof.Machine

/-! ### Pages -/

/-- A page in no use. -/
def freePage : PageUse := { owner := 0, kind := 0 }

/-- Kinds of page use: product state, corner turn, weight bank, kernel region, system reserve. -/
def useState : Nat := 1
def useRing : Nat := 2
def useWeights : Nat := 3
def useKernel : Nat := 4
def useSystem : Nat := 9

def pageDie (p : Nat) : Nat := p / 32768
def pageBank (p : Nat) : Nat := p / 512 % 64
def wordPage (w : Nat) : Nat := w / 8192

def State.pageUse (s : State) (p : Nat) : PageUse := Memory.get freePage s.vault.pages p

/-- A page that may be allocated: its bank in service, itself not retired, in no use (R289, R303). -/
def State.pageFree (s : State) (p : Nat) : Bool :=
  s.bankUsable (pageDie p) (pageBank p) && !(s.die (pageDie p)).pages.contains (p % 32768) && s.pageUse p == freePage

/-- The lowest free page of bank b (0–127 over both dies). -/
def State.lowestFree (s : State) (b : Nat) : Option Nat :=
  if s.bankUsable (b / 64) (b % 64) then ((List.range 512).map (b * 512 + ·)).find? s.pageFree else none

/-- R289: the next page, from the bank after the last one used. -/
def State.nextPage (s : State) : Option Nat :=
  ((List.range 128).map fun i => (s.vault.lastBank + 1 + i) % 128).findSome? s.lowestFree

/-- R289: take one page. -/
def State.takePage (u : PageUse) (s : State) : Option (Nat × State) :=
  s.nextPage.map fun p =>
    (p, s.updVault fun v => { v with pages := Memory.set freePage v.pages p u, lastBank := p / 512 })

/-- R289: take up to n pages in turn. -/
def State.takePages (u : PageUse) : Nat → State → List Nat × State
  | 0, s => ([], s)
  | n + 1, s =>
    match s.takePage u with
    | none => ([], s)
    | some (p, s) =>
      let (t, s) := State.takePages u n s
      (p :: t, s)

/-- Free pages and clear their contents, so that a region starts at zero. -/
def State.releasePages (l : List Nat) (s : State) : State :=
  let targets := (s.vault.relocate.filter fun e => l.contains e.page).filterMap Moving.target
  (l ++ targets).foldl (fun s p => s.updVault fun v => { v with
    pages := Memory.set freePage v.pages p freePage
    words := Memory.clear v.words (p * 8192) ((p + 1) * 8192)
    relocate := v.relocate.filter fun e => e.page != p }) s

/-- Pages in use, the system reserve apart (R26, R27). -/
def State.pagesUsed (s : State) : Nat := s.vault.pages.countP fun e => e.2.kind != useSystem

/-- Free pages of a die (R319). -/
def State.pagesFree (s : State) (d : Nat) : Nat :=
  s.dieBytes d / 65536 - s.vault.pages.countP fun e => pageDie e.1 == d && !(s.vault.relocate.any fun r => r.page == e.1)

/-- Pages that products may hold (R26, R27): the capacity less the system reserve. -/
def State.pageCapacity (s : State) : Nat := s.vaultBytes / 65536

/-- The word at offset n of a region. -/
def regionWord (pages : List Nat) (n : Nat) : Nat := pages.getD (n / 8192) 0 * 8192 + n % 8192

/-- Where a word of a region lies: in the replacement of its page once it has been turned there (R303). -/
def State.placed (s : State) (w : Nat) : Nat :=
  match s.vault.relocate.find? fun m => m.page == wordPage w with
  | some m => match m.target with
    | some n => if m.turned.contains (w % 8192) then n * 8192 + w % 8192 else w
    | none => w
  | none => w

/-- Owner of the region that holds a page, as the log names it (R300). A shared corner-turn ring is named by its oldest
user. -/
def State.pageOwner (s : State) (p : Nat) : Handle :=
  let u := s.pageUse p
  if u.kind = useRing then ((s.xa.rings.find? fun r => r.pages.contains p).bind (·.users.head?)).getD 0 else u.owner

/-! ### The word code -/

def State.vword (s : State) (w : Nat) : VWord := Memory.get {} s.vault.words w

/-- Write a whole word with fresh check bits (R290), poisoned or clean. -/
def State.setWord (w : Nat) (data : BitVec 64) (poison : Bool) (s : State) : State :=
  s.updVault fun v => { v with words := Memory.set {} v.words w { data := data, poison := poison } }

/-- Data bits as stored, the inverted ones included. -/
def VWord.raw (x : VWord) : BitVec 64 :=
  x.flips.foldl (fun d i => if i < 64 then d ^^^ BitVec.ofNat 64 (2 ^ i) else d) x.data

/-- A decoded word: its class (R292), its data after correction or as read. -/
structure Decoded where
  cls : Nat
  data : BitVec 64
  deriving DecidableEq, Repr

/-- R291, R292. Four or more errors decode into any class, with any data where a miscorrection is reported. -/
def State.decode (x : VWord) (s : State) : Decoded × State :=
  let clean (c : Nat) : Decoded := { cls := if x.poison then 5 else c, data := x.data }
  match x.flips with
  | [] => (clean 0, s)
  | [i] => (clean (if i ≤ 64 then 1 else 2), s)
  | [_, _] => (clean 3, s)
  | [_, _, _] => ({ cls := 4, data := x.raw }, s)
  | _ =>
    let (c, s) := s.takeFree 8
    let (d, s) := s.takeFree 64
    let c := c % 6
    ({ cls := c, data := if c = 0 || c ≥ 4 then x.raw else BitVec.ofNat 64 d }, s)

/-- SOURCE codes of R300. -/
def srcAdder : Nat := 1
def srcAuditor : Nat := 2
def srcFetch : Nat := 3
def srcVector : Nat := 4
def srcWeights : Nat := 5
def srcReload : Nat := 6
def srcMatrix : Nat := 7

def State.updDie (d : Nat) (f : DieCounters → DieCounters) (s : State) : State :=
  s.updVault fun v => { v with cnt := v.cnt.modify d f }

/-- REPEAT of a word; 0 when it is not in the table (R300). -/
def State.repeatOf (s : State) (w : Nat) : Nat := ((s.vault.rep.find? fun e => e.addr == w).map (·.count)).getD 0

/-- Vault detail of a log entry (R300); SYNDROME is the device's. -/
def State.vaultDetail (w cls src flags : Nat) (s : State) : List Byte × State :=
  let (syn, s) := s.takeFree 15
  (le 4 (8 * w) ++ le 1 cls ++ le 1 src ++ le 1 (s.repeatOf w) ++ le 1 flags ++ le 2 syn ++ [0, 0]
    ++ le 4 (s.pageOwner (wordPage w)).toNat, s)

/-- The injected flag (R320): errors of the model's words are planted ones. -/
def VWord.injectedFlag (x : VWord) : Nat := flagBit (!x.flips.isEmpty) 2

/-- R293: a read of class 1–3 counts and is logged, merging under R301. -/
def State.noteCorrected (w cls src : Nat) (x : VWord) (s : State) : State :=
  let d := wordPage w / 32768
  let (b, s) := s.vaultDetail w cls src x.injectedFlag
  (s.updDie d fun c => { c with corr := satAdd 64 c.corr 1 }).logMerge 0x0101 5 d b [0, 1, 2, 3, 5]

/-- R293: a read of class 4 counts, is logged, and raises its event (R449). -/
def State.noteUncorrectable (w src : Nat) (x : VWord) (s : State) : State :=
  let d := wordPage w / 32768
  let (b, s) := s.vaultDetail w 4 src x.injectedFlag
  ((s.updDie d fun c => { c with uncorr := satAdd 32 c.uncorr 1 }).logAdd 0x0102 5 d b).raise evVaultUncorr

/-- R293: a read of class 5 counts. -/
def State.notePoison (w : Nat) (s : State) : State :=
  s.updDie (wordPage w / 32768) fun c => { c with poisonRead := satAdd 32 c.poisonRead 1 }

/-- One read of what word w holds by a reader that does not write back (R293): the data, and whether the word is uncorrectable
or poisoned. -/
def State.readHeld (src w : Nat) (x : VWord) (s : State) : BitVec 64 × Bool × State :=
  let (r, s) := s.decode x
  if r.cls = 0 then (r.data, false, s)
  else if r.cls ≤ 3 then (r.data, false, s.noteCorrected w r.cls src x)
  else if r.cls = 4 then (r.data, true, s.noteUncorrectable w src x)
  else (r.data, true, s.notePoison w)

def State.readWord (src w : Nat) (s : State) : BitVec 64 × Bool × State := s.readHeld src w (s.vword w)

/-- Reads of consecutive words of a region. -/
def State.readWords (src : Nat) (pages : List Nat) : Nat → Nat → State → List (BitVec 64 × Bool) × State
  | _, 0, s => ([], s)
  | o, n + 1, s =>
    let (d, bad, s) := s.readWord src (s.placed (regionWord pages o))
    let (t, s) := State.readWords src pages (o + 1) n s
    ((d, bad) :: t, s)

/-- Write consecutive words of a region, all clean. -/
def State.writeWords (pages : List Nat) : Nat → List (BitVec 64) → State → State
  | _, [], s => s
  | o, d :: t, s => State.writeWords pages (o + 1) t (s.setWord (s.placed (regionWord pages o)) d false)

/-- The pages of the system reserve (R26). -/
def State.systemPages (s : State) : List Nat := (s.vault.pages.filter fun e => e.2.kind == useSystem).map Prod.fst

/-! ### On-chip memories with SEC-DED codes (R305, R306) -/

/-- What a read of a code that corrects one error and detects two finds: 0 clean, 1 corrected, 2 uncorrectable. -/
def eccClass (flips : List Nat) (s : State) : Nat × State :=
  match flips with
  | [] => (0, s)
  | [_] => (1, s)
  | [_, _] => (2, s)
  | _ => let (v, s) := s.takeFree 8; (v % 3, s)

def EccCell.read (x : EccCell) (s : State) : Nat × State := eccClass x.flips s

/-- A memory event of an on-chip memory (R300, R305). -/
def State.memEvent (cls unit memory off : Nat) (h : Handle) (uncorr planted : Bool) (s : State) : State :=
  let (syn, s) := s.takeFree 16
  let d := le 1 memory ++ le 1 (flagBit planted 0) ++ [0, 0] ++ le 4 off ++ le 2 syn ++ [0, 0] ++ le 4 h.toNat
  if uncorr then s.logAdd 0x0122 cls unit d else s.logMerge 0x0121 cls unit d [0, 4, 5, 6, 7]

/-! ### Repeat table (R297) -/

/-- The entry that a new word replaces in a full table: the lowest REPEAT, the oldest among equals. -/
def repeatVictim (l : List Repeat) : Option Repeat :=
  l.foldl (fun b e => match b with | none => some e | some c => if e.count < c.count then some e else some c) none

/-- A word corrected and written back enters the table, or counts once more. -/
def Vault.noteRepeat (v : Vault) (w : Nat) : Vault :=
  if v.rep.any fun e => e.addr == w then
    { v with rep := v.rep.map fun e => if e.addr == w then { addr := w, count := satAdd 8 e.count 1, clean := 0 } else e }
  else
    let l := if v.rep.length < 64 then v.rep else match repeatVictim v.rep with | some e => v.rep.erase e | none => v.rep
    { v with rep := l ++ [{ addr := w, count := 0, clean := 0 }] }

/-- R297: the Auditor finds a word of the table clean. -/
def Vault.noteClean (v : Vault) (w : Nat) : Vault :=
  { v with rep := v.rep.map fun e => if e.addr == w then { e with found := true } else e }

/-- R297: a pass is complete: an entry leaves after two in which its word was clean. -/
def Vault.passDone (v : Vault) : Vault :=
  let l := v.rep.map fun e => { e with clean := e.clean + (if e.whole && e.found then 1 else 0), whole := true, found := false }
  { v with rep := l.filter fun e => e.clean < 2 }

/-- REPEAT values at which HARD_SUSPECT is logged. -/
def suspectAt : List Nat := [3, 6, 12, 24, 48, 96, 192]

/-- A correction by the Auditor or an adder: the repeat table, then the log, then HARD_SUSPECT (R297, R301). -/
def State.correctedBack (w cls src : Nat) (x : VWord) (s : State) : State :=
  let old := s.repeatOf w
  let s := s.updVault fun v => v.noteRepeat w
  let s := s.noteCorrected w cls src x
  if s.repeatOf w != old && suspectAt.contains (s.repeatOf w) then
    let d := wordPage w / 32768
    let (b, s) := s.vaultDetail w cls src x.injectedFlag
    ((s.updDie d fun c => { c with hardSuspect := satAdd 32 c.hardSuspect 1 }).logAdd 0x0103 5 d b).raise evHardSuspect
  else s

/-- A read by an adder (R199, R293, R297); the adder's own write renews the code. -/
def State.adderRead (w : Nat) (s : State) : BitVec 64 × Bool × State :=
  let x := s.vword w
  let (r, s) := s.decode x
  if r.cls = 0 then (r.data, false, s)
  else if r.cls ≤ 3 then (r.data, false, s.correctedBack w r.cls srcAdder x)
  else if r.cls = 4 then (r.data, true, s.noteUncorrectable w srcAdder x)
  else (r.data, true, s.notePoison w)

/-! ### The Auditor (R294–R296) -/

/-- One word of a visit: corrected back, poisoned, or counted. -/
def State.auditWord (w : Nat) (s : State) : State :=
  let x := s.vword w
  let (r, s) := s.decode x
  if r.cls = 0 then s.updVault fun v => v.noteClean w
  else if r.cls ≤ 3 then (s.correctedBack w r.cls srcAuditor x).setWord w r.data x.poison
  else if r.cls = 4 then (s.noteUncorrectable w srcAuditor x).setWord w r.data true
  else s.notePoison w

/-- The bank is audited: usable, or retired and still serving data (R294, R303). -/
def State.bankAudited (s : State) (b : Nat) : Bool :=
  s.usable 5 (b / 64) && (!(s.die (b / 64)).banks.contains (b % 64) || s.vault.relocate.any fun r => r.page / 512 == b)

/-- The page is audited (R294, R303). -/
def State.pageAudited (s : State) (p : Nat) : Bool :=
  (!(s.die (pageDie p)).pages.contains (p % 32768) && !(s.die (pageDie p)).banks.contains (pageBank p))
    || s.vault.relocate.any fun r => r.page == p

/-- Visits of a bank in one pass: 64 B each (R294). -/
def visitsPerBank : Nat := 524288

/-- R295: every audited bank has completed its rows, by a visit or because the last unfinished one has left; the next pass starts at
once. -/
def State.passEnds (s : State) : State :=
  let audited := (List.range 128).filter s.bankAudited
  if !audited.isEmpty && audited.all fun b => (s.vault.visit.getD b (0, 0)).2 == 1 then
    let s := s.updVault fun v => { v.passDone with visit := List.replicate 128 (0, 0) }
    (List.range 2).foldl (fun s d => if s.usable 5 d then
      s.updDie d fun c => { c with passes := satAdd 32 c.passes 1, passLast := s.stamp } else s) s
  else s

/-- R294–R296: the Auditor reads the next 64 B of a bank. -/
def execAuditorVisit (die bank : Nat) (s : State) : Host.Outcome State Fault Refusal :=
  settleFlags s (
    let b := die * 64 + bank
    let v := s.vault.visit.getD b (0, 0)
    if die < 2 && bank < 64 && !s.vault.auditHold && s.bankAudited b && v.2 == 0 && s.boot.phase == .up then
      let w := b * (visitsPerBank * 8) + v.1 * 8
      let s := if s.pageAudited (wordPage w) then (List.range 8).foldl (fun s i => s.auditWord (w + i)) s else s
      let n := v.1 + 1
      let next := if n < visitsPerBank then (n, 0) else (0, 1)
      (s.updVault fun t => { t with visit := t.visit.set b next }).passEnds
    else s)

/-! ### Faulted handles (R302, R304, R345, R346) -/

/-- The engines of a kernel stop. -/
def State.haltEngines (h : Handle) (s : State) : State :=
  let s := { s with clerks := s.clerks.map fun (c : Clerk) =>
    if c.owner == some h then { c with running := false, waiting := false } else c }
  match s.kernel? h with
  | some k => if k.vx then { s with vx := { s.vx with ctx := s.vx.ctx.modify 1 fun c => { c with running := false, wait := none } } } else s
  | none => s

/-- A handle moves to FAULTED: deferred commands on it end with UNIT_FAULT; a product stops where it is, a kernel's
engines stop. -/
def State.faultHandle (h : Handle) (s : State) : State :=
  if s.hstate h == .faulted || (s.find h).isNone then s
  else
    let s := ((s.haltEngines h).setState h .faulted).updCapture h fun c => { c with reading := none }
    s.finish (fun d => d.handle == h) { status := stFault }

/-- Handles with a region or a corner-turn ring on a page for which p holds. -/
def State.usersOf (s : State) (p : Nat → Bool) : List Handle :=
  s.handlesOf fun e =>
    let ring (id : Nat) : Bool := s.xa.rings.any fun r => r.id == id && r.pages.any p
    match e.obj with
    | .xprod x => x.statePages.any p || ring x.ringId
    | .beam x => x.statePages.any p || x.weightPages.any p || ring x.ringId
    | .kernel k => k.regions.any fun r => r.1.any p
    | _ => false

/-! ### Relocation (R303) -/

/-- A page number in a region's page list becomes another. -/
def swapPage (old new : Nat) (l : List Nat) : List Nat := l.map fun p => if p = old then new else p

/-- Every owner of a page moves to its replacement. -/
def Obj.movePage (old new : Nat) : Obj → Obj
  | .xprod x => .xprod { x with statePages := swapPage old new x.statePages }
  | .beam x => .beam { x with statePages := swapPage old new x.statePages, weightPages := swapPage old new x.weightPages }
  | .kernel k => .kernel { k with regions := k.regions.map fun r => (swapPage old new r.1, r.2) }
  | o => o

def State.movePage (old new : Nat) (s : State) : State :=
  { s with
    handles := { s.handles with live := s.handles.live.map fun e => { e with obj := e.obj.movePage old new } }
    xa := { s.xa with rings := s.xa.rings.map fun r => { r with pages := swapPage old new r.pages } } }

/-- Copy one word through correction; an uncorrectable one arrives poisoned (R303). -/
def State.copyWord (src dst : Nat) (s : State) : State :=
  if s.vword src == {} then s
  else
    let (d, bad, s) := s.readWord srcMatrix src
    s.setWord dst d bad

/-- A kernel region moves only while its kernel does not run (R303). -/
def State.pageMovable (s : State) (p : Nat) : Bool :=
  s.usersOf (· == p) |>.all fun h => !(handleKind h == 5 && s.hstate h == .running)

/-- R303: no page is left for a retired page's data: what uses it goes FAULTED. -/
def State.failMove (p : Nat) (s : State) : State :=
  (s.usersOf (· == p)).foldl (fun s h =>
    (s.faultHandle h).logAdd 0x0106 5 (pageDie p) (le 4 (p * 65536) ++ List.replicate 8 0 ++ le 4 h.toNat)) s

/-- R303: every word of a retired page that holds data lies in its replacement: the mapping switches; the last page of the region is
logged. -/
def State.endMove (p n : Nat) (s : State) : State :=
  let owner := s.pageOwner p
  let bank := s.vault.relocate.any fun r => r.page == p && r.bank
  let s := s.updVault fun v => { v with relocate := v.relocate.filter fun m => m.page != p }
  let s := (s.movePage p n).releasePages [p]
  let more := bank && s.vault.relocate.any fun r => r.bank && r.page / 512 == p / 512
  (if more then s
   else (s.logAdd 0x0105 5 (pageDie p) (le 4 (p * 65536) ++ [0, 0, 0] ++ le 1 (flagBit bank 0) ++ [0, 0, 0, 0] ++ le 4 owner.toNat)).ledgerChange).passEnds

/-- The replacement of a retired page, allocated under R289 when it is first needed. -/
def State.moveTarget (p : Nat) (s : State) : Option (Nat × State) :=
  match (s.vault.relocate.find? fun m => m.page == p).bind Moving.target with
  | some n => some (n, s)
  | none => (s.takePage (s.pageUse p)).map fun (n, s) =>
    (n, s.updVault fun v => { v with relocate := v.relocate.map fun m => if m.page == p then { m with target := some n } else m })

/-- R303: from now on these words of regions lie in the replacements of their pages. -/
def State.turnWords (l : List Nat) (s : State) : State :=
  (s.vault.relocate.filter fun m => l.any fun w => wordPage w == m.page).foldl (fun s m =>
    match s.moveTarget m.page with
    | none => s.failMove m.page
    | some (_, s) =>
      let new := (l.filter fun w => wordPage w == m.page).map (· % 8192)
      s.updVault fun v => { v with relocate := v.relocate.map fun e =>
        if e.page == m.page then { e with turned := e.turned ++ new.filter fun o => !e.turned.contains o } else e }) s

/-- The retired page's data is copied to the replacement and the mapping switched. -/
def State.relocatePage (p : Nat) (s : State) : State :=
  match s.moveTarget p with
  | none => s.failMove p
  | some (n, s) =>
    ((List.range 8192).foldl (fun s i => s.copyWord (p * 8192 + i) (n * 8192 + i)) s).endMove p n

/-! ### Records of R319 -/

def State.dieRecord (s : State) (d : Nat) : List Byte :=
  let c := s.vault.cnt.getD d {}
  le 1 d ++ le 1 (if !s.present 5 d then 2 else if s.usable 5 d then 0 else 1) ++ le 2 (s.die d).banks.length
    ++ le 4 (s.pagesFree d) ++ le 8 c.corr ++ le 4 c.uncorr ++ le 4 c.poisonRead ++ le 4 c.hardSuspect ++ le 4 c.passes
    ++ le 8 c.passLast.toNat ++ List.replicate 8 0

end Sys2Proof.Machine
end

