-- ==== Sys2Proof/Machine/Boot.lean ====
section
/-! DEFINITION. Power, boot and the device-wide resets (R457, R459, R461, R462, R497, R505–R508, R520), and tiles
leaving service (R50, R210, R211). -/
namespace Sys2Proof.Machine

/-! ### Tiles -/

/-- The lowest-numbered spare in state 1 (R50). -/
def State.freeSpare (s : State) : Option Nat :=
  ((List.range 4).find? fun i => (s.ledger.spares.getD i {}).state == 1).map (128 + ·)

def State.updSpare (tile : Nat) (f : Spare → Spare) (s : State) : State :=
  { s with ledger := { s.ledger with spares := s.ledger.spares.modify (tile - 128) f } }

def State.updService (f : SvcData → SvcData) (s : State) : State :=
  { s with service := { s.service with cur := f s.service.cur, dirty := true } }

/-- Spare sp takes over from tile t: its record, its USABLE bit and its position (R49, R50, R179). -/
def State.mapSpare (t sp : Nat) (s : State) : State :=
  let time := s.stamp
  let s := s.updSpare sp fun r => { r with state := 2, replaces := t, mapTime := time }
  let s := s.updUsable fun u => { u with tiles := (u.tiles.set sp true).set t false }
  s.updXa fun x => { x with pos := x.pos.map fun e => if e == some t then some sp else e }

/-- A tile is out of service; a spare among them has STATE 3 from then on (R49). -/
def State.tileFailed (t : Nat) (s : State) : State :=
  let s := s.updUsable fun u => { u with tiles := u.tiles.set t false }
  if 128 ≤ t then s.updSpare t fun r => { r with state := 3, replaces := 0xFFFF, mapTime := 0 } else s

/-- R210, R211: a tile leaves service; cause 1 residue, 2 BIST. -/
def State.tileOut (t cause : Nat) (s : State) : State :=
  let s := s.tileFailed t
  match s.freeSpare with
  | some sp =>
    let s := (s.mapSpare t sp).updService fun v => { v with spares := v.spares ++ [(sp, t)] }
    ((s.logAdd 0x0501 1 t (le 2 t ++ le 2 sp ++ le 1 cause)).raise evSpareMapped).ledgerChange
  | none =>
    let s := s.updXa fun x => { x with pos := x.pos.map fun e => if e == some t then none else e }
    (s.logAdd 0x0501 1 t (le 2 t ++ le 2 0xFFFF ++ le 1 cause)).ledgerChange

/-! ### Resets -/

/-- Everything at its reset value but what no reset touches: fuses, the flash, the TAP, the model's own fields, and the
levels the environment drives. -/
def State.cleared (s : State) : State :=
  { State.reset with
    fuse := s.fuse, pending := s.pending, out := s.out, freeCtr := s.freeCtr, jtag := s.jtag
    pins := { vddAo := s.pins.vddAo, resetN := s.pins.resetN, pwrOk := s.pins.pwrOk, perstN := s.pins.perstN }
    service := { flash := s.service.flash, seq := s.service.seq, copy := s.service.copy } }

/-- R457: the log after a reset begins with the mirror, renumbered from 0. -/
def Log.restarted (l : Log) : Log :=
  { entries := (List.range l.mirror.length).zip l.mirror, next := l.mirror.length, mirror := l.mirror }

/-- The boot phase that straps ask for (R506, R508). -/
def Boot.start (b : Boot) : Boot :=
  { b with
    phase := if b.testMode then .hold else if b.bootMode == 3 then .flash else .booting
    noImage := b.testMode }

/-- R497: the host port can become ready once PERST_N is high, unless HP_DISABLE holds it in reset (R506). -/
def State.portReady (s : State) : Bool := s.pins.perstN && !s.boot.hpDisable

/-- Restart the boot sequence of a powered device, with its straps kept, for a reset of a kind (R458, R461). -/
def State.reboot (kind : Nat) (s : State) : State :=
  let t := s.cleared
  let b : Boot := { bootMode := s.boot.bootMode, hpDisable := s.boot.hpDisable, testMode := s.boot.testMode, kind := kind }
  { t with boot := b.start, log := s.log.restarted }

/-- What a Teller restart keeps of a Reserve channel: its module as found and its temperature (R461). -/
def ResCh.kept (c : ResCh) : ResCh :=
  { state := c.state, ranks := c.ranks, rateMts := c.rateMts, vendor := c.vendor, capacity := c.capacity
    features := c.features, temp := c.temp, hot85 := c.hot85, throttled := c.throttled }

/-- What a Teller restart keeps of the Timekeeper: all but the Statement's counter, a TIME_SET that waited, and a peer as source,
whose port is no longer UP (R399, R420, R461). -/
def Tk.kept (k : Tk) : Tk :=
  let k := { k with sysrefMisalign := 0, setWait := none }
  match k.src with
  | .peer p => k.losePort p
  | _ => k

/-- R461: a Teller restart keeps the time, the host port and its link, and the Reserve in self-refresh. -/
def State.rebootTeller (s : State) : State :=
  let t := s.reboot 4
  { t with
    tk := s.tk.kept
    boot := { t.boot with tkrefDone := s.boot.tkrefDone, trained := s.boot.trained }
    host := { s.host with v0Hold := false, v0Owed := false, v2Hold := false, v2Owed := false, half := none }
    reserve := { ch := s.reserve.ch.map ResCh.kept, bytes := s.reserve.bytes, bad := s.reserve.bad } }

/-- The device's logic has power and is out of reset. -/
def State.powered (s : State) : Bool := s.boot.phase != .off && s.boot.phase != .quiet

/-- The host reaches BAR0 and BAR2 (R497, R498). -/
def State.hostReaches (s : State) : Bool := s.powered && s.host.ready && s.host.linkUp && !s.host.d3hot

/-- R520: VDD_AO comes into range and the AO island holds the device quiet. -/
def execSupplyVddAoUp (s : State) : Host.Outcome State Fault Refusal :=
  settle s (
    if s.boot.phase == .off then
      { s with boot := { s.boot with phase := .quiet, kind := 1 }, pins := { s.pins with vddAo := true } }
    else s)

/-- R520: the supplies leave their range; only the flash remembers. -/
def execSupplyLoss (s : State) : Host.Outcome State Fault Refusal :=
  settle s { s.cleared with pins := {}, jtag := {} }

/-- R520, R506: the release of RESET_N with PWR_OK high; the straps are sampled and boot starts with GENERATION 1. -/
def execResetNRelease (bootMode : BitVec 2) (hpDisable testMode : Bool) (s : State) : Host.Outcome State Fault Refusal :=
  settle s (
    if s.boot.phase == .quiet then
      let b : Boot := { bootMode := bootMode, hpDisable := hpDisable, testMode := testMode, kind := s.boot.kind }
      { s with boot := b.start, pins := { s.pins with resetN := true, pwrOk := true } }
    else s)

/-- R520, R461: RESET_N or PWR_OK falls. -/
def execPinReset (s : State) : Host.Outcome State Fault Refusal :=
  settle s (
    if s.powered then
      let t := s.cleared
      { t with boot := { phase := .quiet, kind := 2 }, log := s.log.restarted
               pins := { t.pins with resetN := false, pwrOk := false } }
    else s)

/-- The kind that a write of RESET_CTRL asks for; 0 where it is ignored (R461). -/
def resetKind (v : BitVec 32) : Nat := if bits v.toNat 31 16 = 0x5253 then bits v.toNat 1 0 else 0

/-- R461: a write of RESET_CTRL acts. -/
def State.resetCtrl (v : BitVec 32) (s : State) : State :=
  if resetKind v = 1 then s.rebootTeller else if resetKind v = 2 then s.reboot 3 else s

def execTellerRestart (v : BitVec 32) (s : State) : Host.Outcome State Fault Refusal :=
  settle s (if s.hostReaches && resetKind v == 1 then s.rebootTeller else s)

def execDeviceReset (v : BitVec 32) (s : State) : Host.Outcome State Fault Refusal :=
  settle s (if s.hostReaches && resetKind v == 2 then s.reboot 3 else s)

/-! ### Boot images (R505, R507) -/

/-- The image at the front of a flash region, if its MAGIC, LENGTH and CRC check. -/
def validImage (b : List Byte) : Option (Nat × BitVec 32) :=
  let n := u32 b 8
  if u32 b 0 = 0x4957465A ∧ 32 ≤ n ∧ n ≤ 1048576 ∧ n ≤ b.length
      ∧ crc32 (patch (b.take n) 20 [0, 0, 0, 0]) = u32 b 20 then
    some (u32 b 12, BitVec.ofNat 32 (u32 b 16))
  else none

/-- R507: the image to run: the forced one, or in automatic mode the valid image with the higher SEQ; image A where
both SEQ are equal. -/
def chooseImage (mode : BitVec 2) (forced : Option (BitVec 2)) (a b : Option (Nat × BitVec 32)) :
    Option (BitVec 2 × BitVec 32) :=
  let one (i : BitVec 2) : Option (BitVec 2 × BitVec 32) := (if i = 0 then a else b).map fun x => (i, x.2)
  match forced with
  | some i => one i
  | none =>
    if mode = 1 then one 0
    else if mode = 2 then one 1
    else match a, b with
      | some x, some y => if x.1 < y.1 then some (1, y.2) else some (0, x.2)
      | some x, none => some (0, x.2)
      | none, some y => some (1, y.2)
      | none, none => none

/-- R507: the boot ROM has read the flash: the Teller image starts, with the RESET entry of R457, or the device stays in
the boot hold. -/
def execBootImageLoad (imgA imgB : List Byte) (s : State) : Host.Outcome State Fault Refusal :=
  settle s (
    if s.boot.phase == .booting && s.boot.image.isNone then
      match chooseImage s.boot.bootMode s.boot.forced (validImage imgA) (validImage imgB) with
      | none => { s with boot := { s.boot with phase := .hold, noImage := true } }
      | some (i, fw) =>
        let (nx, s) := s.takeFree 4
        let (nb, s) := s.takeFree 4
        let s := { s with
          boot := { s.boot with image := some i, kernelNeeds := (nx, nb) }, ledger := { s.ledger with fwVersion := fw } }
        s.logAdd 0x0502 0 0xFF (le 1 s.boot.kind ++ [0, 0, 0] ++ le 4 fw.toNat)
    else s)

/-- R507: no first Ledger rewrite within 700 ms in automatic mode: the device resets itself and loads the other image;
when that image fails too, no image can be run. -/
def execBootFallbackTimeout (s : State) : Host.Outcome State Fault Refusal :=
  settle s (
    if s.boot.phase == .booting && s.boot.bootMode == 0 then
      match s.boot.image with
      | none => s
      | some i =>
        if s.boot.fallback then { s with boot := { s.boot with phase := .hold, noImage := true } }
        else
          let t := s.reboot 3
          { t with boot := { t.boot with forced := some (1 - i), fallback := true } }
    else s)

/-! ### Boot sequence (R459) -/

/-- R459, R443: BIST of the Teller channels: the first that passes leads; fewer than two means SAFE_STATE. -/
def execBootBistDone (a b c : Bool) (s : State) : Host.Outcome State Fault Refusal :=
  settleFlags s (
    if s.boot.phase == .booting && s.boot.image.isSome && !s.boot.bistDone then
      let ok := [a, b, c]
      let lead := (List.range 3).find? fun i => ok.getD i false
      let s := { s with boot := { s.boot with bistDone := true } }
      let chans : List Channel := (List.range 3).map fun i =>
        if lead == some i then { st := .lead } else if ok.getD i false then { st := .check } else { st := .failed, bistFails := 1 }
      let s := s.updTeller fun t => { t with channels := chans }
      let s := s.updUsable fun u => { u with teller := ok }
      let s := (List.range 3).foldl (fun s i => if ok.getD i false then s else s.logAdd 0x0201 4 i (le 1 i ++ le 1 4)) s
      if ok.countP id < 2 then s.enterSafe 1 else s
    else s)

/-- R307: a module that the channel accepts. -/
def spdAccepted (m : Spd) : Bool :=
  m.rdimm && m.x4 && m.rating == 6400
    && ((m.density == 16 && m.ranks == 1 && m.capacity == 2 ^ 35) || (m.density == 16 && m.ranks == 2 && m.capacity == 2 ^ 36)
      || (m.density == 32 && m.ranks == 1 && m.capacity == 2 ^ 36))

/-- The MEMORY entry of a Reserve channel after SPD reads and training (R45, R308). -/
def ResCh.trained (c : ResCh) : Training → ResCh
  | .empty => { c with state := 0, ranks := 0, rateMts := 0, vendor := 0, capacity := 0, features := 0 }
  | .module m ok =>
    let st := if !spdAccepted m then 3 else if ok then 1 else 2
    { c with
      state := st, ranks := m.ranks, rateMts := if st = 1 then 6400 else 0, vendor := m.vendor
      capacity := if spdAccepted m then m.capacity else 0
      features := BitVec.ofNat 32 (flagBit m.rfm 0 + flagBit (m.density == 32) 1) }

/-- R308: SPD reads and training of the eight channels end. -/
def execReserveTrainingDone (results : List Training) (s : State) : Host.Outcome State Fault Refusal :=
  settle s (
    if s.boot.phase == .booting && s.fuse.variant == .a && !s.boot.trained then
      let s := { s with boot := { s.boot with trained := true } }
      s.updRes fun r => { r with ch := (List.range 8).map fun i => (r.ch.getD i {}).trained (results.getD i .empty) }
    else s)

/-- Whether a unit passes at boot (R42): present, its BIST passed, and for a Reserve channel in STATE 1. -/
def State.bootUsable (s : State) (failed : List UnitRef) (cls n : Nat) : Bool :=
  s.present cls n && !failed.contains ⟨cls, n⟩ && (cls != 6 || (s.ch n).state == 1)

/-- USABLE of every class but the Teller channels, spares not yet mapped. -/
def State.bootUnits (failed : List UnitRef) (s : State) : State :=
  let f (cls k : Nat) : List Bool := (List.range k).map (s.bootUsable failed cls)
  let tiles : List Bool := (List.range 132).map fun t => t < 128 && s.bootUsable failed 1 t
  s.updUsable fun u => { u with
    tiles := tiles, clerks := f 2 16, dma := f 3 4, dies := f 5 2, resCh := f 6 8, octets := f 7 64
    beamformer := s.bootUsable failed 8 0, trigger := s.bootUsable failed 9 0, reserve := s.bootUsable failed 10 0 }

/-- R462: spare mappings and retirements of the service record take effect, the mappings in the order in which they were made: a
tile replaced by a spare stays out of service, and so does a spare that was itself replaced (R42, R49). A spare that no mapping names
has STATE 3 if its BIST failed. -/
def State.applyService (failed : List UnitRef) (s : State) : State :=
  let v := s.service.flash
  let s := { s with service := { s.service with cur := v } }
  let s := { s with ledger := { s.ledger with dies := v.dies } }
  let spare (i : Nat) : Spare := { state := if failed.contains ⟨1, 128 + i⟩ then 3 else 1 }
  let s := { s with ledger := { s.ledger with spares := (List.range 4).map spare } }
  let positions : List (Option Nat) := (List.range 128).map fun t => if s.present 1 t then some t else none
  let s := s.updXa fun x => { x with pos := positions }
  v.spares.foldl (fun s m => (s.tileFailed m.2).mapSpare m.2 m.1) s

/-- R459, R210, R50: a tile of the array, or a spare mapped into it, that failed its BIST leaves service. -/
def State.bootTiles (failed : List UnitRef) (s : State) : State :=
  (List.range 132).foldl (fun s t =>
    if failed.contains ⟨1, t⟩ && s.xa.pos.contains (some t) then s.tileOut t 2 else s) s

/-- R462, R453: the first-boot count of each PM, and the lower thresholds that follow from it. -/
def State.bootMonitors (s : State) : State :=
  let s := if s.service.cur.pm.isEmpty then
      s.updService fun v => { v with pm := (List.range 16).map fun i => (s.reading (56 + i)).toNat }
    else s
  let low (i : Nat) : Int := ((s.service.cur.pm.getD i 0 * 95 + 99) / 100 : Nat)
  s.updHealth fun h => { h with sensors := (List.range h.sensors.length).map fun i =>
    let x : Sensor := h.sensors.getD i {}
    if 56 ≤ i then { x with lo := low (i - 56) } else x }

/-- R459: the boot sequence ends: units, service record, system reserve (R26), and GENERATION 2 with vector 3. -/
def execFirstLedgerRewrite (failed : List UnitRef) (s : State) : Host.Outcome State Fault Refusal :=
  settleFlags s (
    if s.boot.phase == .booting && s.boot.bistDone && !s.teller.safe && (s.fuse.variant != .a || s.boot.trained) then
      let before := s.ledger.changes
      let s := (((s.bootUnits failed).applyService failed).bootTiles failed).bootMonitors
      let s := (s.takePages { owner := 0, kind := useSystem } 1024).2
      let s := { s with
        boot := { s.boot with phase := .up }
        ledger := { s.ledger with
          generation := s.ledger.generation + 1, firstDone := true, writeTime := if s.tk.isSet then s.stamp else 0
          shown := s.ledgerView, changes := before } }
      s.sendVector 3
    else s)

end Sys2Proof.Machine
end

