-- ==== Sys2Proof/Machine/Reserve.lean ====
section
/-! DEFINITION. The Reserve controller (R307–R319): where blocks lie, the Till, refresh, neighbour refresh, temperature,
faults, reads with their error handling, patrol, and the channel record. -/
namespace Sys2Proof.Machine

/-! ### Placement (R309, R467) -/

/-- The usable channels, in ascending order (R467). -/
def State.resChans (s : State) : List Nat := (List.range 8).filter fun c => (s.ch c).state == 1

/-- The location of a byte: channel, channel block, offset. -/
def resKey (c q off : Nat) : Nat := (c * 2097152 + q) * 65536 + off

/-- Where a burst of a channel block lies on the DIMM (R309). -/
structure DimmPos where
  subch : Nat
  bg : Nat
  col : Nat
  bank : Nat
  rank : Nat
  row : Nat
  deriving DecidableEq, Repr

def dimmPos (ranks q u : Nat) : DimmPos :=
  let r := max ranks 1
  { subch := u % 2, bg := u / 2 % 8, col := 16 * (64 * (q / (4 * r) % 2) + u / 16), bank := q % 4, rank := q / 4 % r
    row := q / (8 * r) }

/-- Channel and channel block of block k of a capture, ring first, then index (R245). -/
def Capture.qOf (c : Capture) (k : Nat) : Nat :=
  let n := max c.chans.length 1
  let rec go : List (Nat × Nat) → Nat → Nat
    | [], _ => 0
    | (f, m) :: t, i => if i < m then f + i else go t (i - m)
  go c.stripes (k / n)
def Capture.chOf (c : Capture) (k : Nat) : Nat := c.chans.getD (k % max c.chans.length 1) 0

/-- Blocks of a capture's ring (R245). -/
def Capture.ringBlocks (c : Capture) : Nat := c.units * 1024

/-- The live captures. -/
def State.captures (s : State) : List (Handle × Capture) :=
  s.handles.live.filterMap fun e => match e.obj with | .capture c => some (e.h, c) | _ => none

/-- A channel block lies in a capture's ranges. -/
def Capture.holds (c : Capture) (ch q : Nat) : Bool :=
  c.chans.contains ch && c.stripes.any fun r => r.1 ≤ q && q < r.1 + r.2

/-- The capture to which a channel block belongs. -/
def State.captureAt (s : State) (ch q : Nat) : Option (Handle × Capture) := s.captures.find? fun e => e.2.holds ch q

/-- The marker byte of a format (R246). -/
def markerOf (format : Nat) : Byte := if format = 1 then 0x80 else 0x88

/-! ### Policy word (R313) -/

def ResCh.pdIdle (c : ResCh) : Nat := bits c.policy.toNat 63 48
def ResCh.actThresh (c : ResCh) : Nat := bits c.policy.toNat 47 32
def ResCh.panicMark (c : ResCh) : Nat := bits c.policy.toNat 23 20
def ResCh.debtMax (c : ResCh) : Nat := bits c.policy.toNat 15 12
def ResCh.directed (c : ResCh) : Bool := bit c.policy.toNat 2
def ResCh.refMode (c : ResCh) : Bool := bit c.policy.toNat 1

/-- Till level in units of 64 KiB. -/
def ResCh.level (c : ResCh) : Nat := c.till.length

/-! ### Logging -/

/-- Reserve detail of a log entry (R300). -/
def resDetail (p : DimmPos) (device cls src : Nat) (h : Handle) : List Byte :=
  le 1 p.rank ++ le 1 (p.bg * 4 + p.bank) ++ le 1 p.subch ++ le 1 device ++ le 4 p.row ++ le 2 p.col ++ le 1 cls ++ le 1 src
    ++ le 4 h.toNat

/-- R316: a channel leaves service with STATE 2; captures with blocks on it go FAULTED. -/
def State.channelFault (c : Nat) (s : State) : State :=
  if (s.ch c).state != 1 then s
  else
    let s := s.updCh c fun x => { x with state := 2, till := [] }
    let s := s.logAdd 0x0113 6 c (resDetail ⟨0, 0, 0, 0, 0, 0⟩ 0xFF 2 0 0)
    let s := if s.usable 6 c then s.setUsable 6 c false else s.ledgerChange
    let hit := (s.captures.filter fun e => e.2.chans.contains c).map (·.1)
    (hit.foldl (fun s h => s.faultHandle h) s).raise evReserve

/-- An uncorrectable burst counts, is logged, and towards the 64 in 1 s of R316. -/
def State.noteResUncorr (c q u src : Nat) (s : State) : State :=
  let h := ((s.captureAt c q).map (·.1)).getD 0
  let p := dimmPos (s.ch c).ranks q u
  let s := s.logAdd 0x0112 6 c (resDetail p 0xFF 2 src h)
  let times := lastN 64 (((s.ch c).uncorrTimes.filter fun t => s.now < t + tickSec) ++ [s.now])
  let s := s.updCh c fun x => { x with uncorr := satAdd 32 x.uncorr 1, uncorrTimes := times }
  if times.length ≥ 64 then s.channelFault c else s

/-- A corrected burst counts and is logged, merging under R301. -/
def State.noteResCorr (c q u device src : Nat) (s : State) : State :=
  let h := ((s.captureAt c q).map (·.1)).getD 0
  let p := dimmPos (s.ch c).ranks q u
  (s.updCh c fun x => { x with corr := satAdd 32 x.corr 1 }).logMerge 0x0111 6 c (resDetail p device 1 src h)
    [0, 1, 2, 4, 5, 6, 7, 8, 9, 11]

/-! ### Activates and power-down (R314, R318) -/

/-- One activate in a bank's table: the new table, and whether a row reached the threshold. -/
def actStep (thresh row : Nat) (l : List (Nat × Nat)) : List (Nat × Nat) × Bool :=
  let done (n : Nat) : Nat × Bool := if n ≥ thresh then (0, true) else (n, false)
  match l.find? fun e => e.1 == row with
  | some (_, n) =>
    let (v, hit) := done (n + 1)
    (l.map fun e => if e.1 == row then (row, v) else e, hit)
  | none =>
    if l.length < 32 then
      let (v, hit) := done 1
      (l ++ [(row, v)], hit)
    else
      let low := l.foldl (fun b e => if e.2 < b.2 then e else b) (l.getD 0 (0, 0))
      let (v, hit) := done (low.2 + 1)
      (l.erase low ++ [(row, v)], hit)

/-- Rows of a bank: two blocks of each bank and rank share one (R309). -/
def ResCh.rows (x : ResCh) : Nat := x.capacity / 65536 / (8 * max x.ranks 1)

/-- The rows at ±1 and ±2 that exist (R314). -/
def ResCh.neighbours (x : ResCh) (row : Nat) : List Nat :=
  ((if 2 ≤ row then [row - 2] else []) ++ (if 1 ≤ row then [row - 1] else []) ++ [row + 1, row + 2]).filter (· < x.rows)

/-- R314: an activate of a row; at the threshold its neighbours are refreshed, by RFM or by activates that count in turn. -/
def State.activateRow (c : Nat) (p : DimmPos) : Nat → Nat → State → State
  | 0, _, s => s
  | n + 1, row, s =>
    let key := (p.rank, p.bg + 8 * p.subch, p.bank)
    let x := s.ch c
    let old := ((x.acts.find? fun e => e.1 == key).map (·.2)).getD []
    let (t, hit) := actStep x.actThresh row old
    let s := s.updCh c fun x => { x with
      acts := (x.acts.filter fun e => e.1 != key) ++ [(key, t)], powerDown := x.powerDown.set p.rank false }
    if hit then
      let rfm := bit x.features.toNat 0 && !x.directed
      let rows := x.neighbours row
      let s := (s.updCh c fun x => { x with neighbourRef := satAdd 32 x.neighbourRef 1 }).emit
        (.neighbours c p.subch p.rank p.bg p.bank rfm rows)
      if rfm then s else rows.foldl (fun (s : State) r => State.activateRow c p n r s) s
    else s

/-- The activate of an access; every directed activate of its cascade belongs to a row at least 256 activates old. -/
def State.activate (c : Nat) (p : DimmPos) (s : State) : State := s.activateRow c p 64 p.row

/-- A whole block opens its row in every bank group of both subchannels (R309). -/
def State.activateBlock (c q : Nat) (s : State) : State :=
  (List.range 16).foldl (fun s u => s.activate c (dimmPos (s.ch c).ranks q u)) s

/-! ### The Till (R310, R311) -/

/-- R312, R318: the debt of every rank is paid; a rank leaves power-down for it. -/
def State.payAll (c : Nat) (s : State) : State :=
  let x := s.ch c
  let s := (List.range 2).foldl (fun s r =>
    (List.range (x.debt.getD r 0)).foldl (fun s _ => s.emit (.dram c r (if x.refMode then 0 else 2) 0)) s) s
  s.updCh c fun x => { x with
    debt := [0, 0], powerDown := x.powerDown.zipIdx.map fun e => if x.debt.getD e.2 0 = 0 then e.1 else false }

/-- R310, R312: below PANIC_MARK the debt is paid when no write is left in the Till (notes/assumptions/145.md). -/
def State.payDebt (c : Nat) (s : State) : State := if (s.ch c).till.isEmpty then s.payAll c else s

/-- Index entry of a block (R247). -/
def CapBlock.entry (b : CapBlock) : List Byte :=
  le 6 b.first ++ le 2 b.group ++ le 2 b.cblock ++ le 2 b.flags.toNat ++ le 4 b.valid

/-- Write the index entry of a ring position (R247). -/
def State.writeIndex (h : Handle) (pos : Nat) (s : State) : State :=
  match s.capture? h with
  | none => s
  | some c =>
    match c.blocks.find? fun b => b.pos == pos with
    | none => s
    | some b =>
      let k := c.ringBlocks + pos / 4096
      let u := pos % 4096 / 4
      if (s.ch (c.chOf k)).state == 1 then
        (s.activate (c.chOf k) (dimmPos (s.ch (c.chOf k)).ranks (c.qOf k) u)).updRes fun r => { r with bytes := Memory.setRange 0 r.bytes (resKey (c.chOf k) (c.qOf k) (pos % 4096 * 16)) b.entry }
      else s

/-- Change one block of a capture. -/
def Capture.updBlock (c : Capture) (pos : Nat) (f : CapBlock → CapBlock) : Capture :=
  { c with blocks := c.blocks.map fun b => if b.pos == pos then f b else b }

/-- The bits of an index entry's FLAGS (R247). -/
def fWritten : BitVec 16 := 1
def fGap : BitVec 16 := 2
def fMarked : BitVec 16 := 4
def fSuspect : BitVec 16 := 8
def fSettling : BitVec 16 := 16
def fTest : BitVec 16 := 32
def fProtected : BitVec 16 := 64
def fPoisoned : BitVec 16 := 128

/-- The bursts of a block written to the DIMM: old errors are gone, a pending burst injection strikes (R320), and an
uncorrectable Till word leaves its burst uncorrectable (R305). -/
def State.writeBursts (c : Nat) (b : TillBlock) (s : State) : State :=
  let k := resKey c b.q 0
  let s := s.updRes fun r => { r with
    bytes := Memory.setRange 0 (Memory.clear r.bytes k (k + 65536)) k b.data
    bad := Memory.clear r.bad (k / 64) (k / 64 + 1024) }
  let s := match s.reserve.injectBurst with
    | some (n, sub, devs) =>
      if n = c then s.updRes fun r => { r with injectBurst := none, bad := Memory.set ([], false) r.bad (k / 64 + sub) (devs, true) }
      else s
    | none => s
  if b.bitErrs = 0 then s
  else
    -- which 64 KiB of the Till held the block is the controller's
    let (slot, s) := s.takeFree 4
    let s := s.memEvent 6 c 7 (slot * 65536) b.handle (b.bitErrs != 1) true
    if b.bitErrs = 1 then s
    else s.updRes fun r => { r with bad := Memory.set ([], false) r.bad (k / 64) ([0, 1], true) }

/-- R310: the oldest block of the Till leaves for the DIMM, and its index entry is then written with WRITTEN. -/
def State.tillWrite (c : Nat) (s : State) : State :=
  match (s.ch c).till with
  | [] => s
  | b :: t =>
    let s := (s.updCh c fun x => { x with till := t }).writeBursts c b
    let s := s.activateBlock c b.q
    let s := s.updCapture b.handle fun x => x.updBlock b.pos fun y => { y with flags := y.flags ||| fWritten }
    (s.writeIndex b.handle b.pos).payDebt c

def execTillBlockWritten (ch : Nat) (s : State) : Host.Outcome State Fault Refusal :=
  settleFlags s (if s.teller.safe || (s.ch ch).state != 1 then s else s.tillWrite ch)

/-! ### Reads (R310, R317) -/

/-- A queued write matches the row of a read of burst u of block q (R310); a block's bursts go to every subchannel and bank group. -/
def ResCh.rowMatches (c : ResCh) (q u : Nat) : Bool :=
  let x := dimmPos c.ranks q u
  c.till.any fun b =>
    let y := dimmPos c.ranks b.q u
    x.bank == y.bank && x.rank == y.rank && x.row == y.row

/-- R310: reads come after the writes of the Till and owed refresh; a read whose row matches a queued write switches the bank to arrival
order until no write to it remains. -/
def State.inOrder (c q u : Nat) (s : State) : State :=
  let s := if (s.ch c).rowMatches q u then s.updCh c fun x => { x with inOrder := satAdd 32 x.inOrder 1 } else s
  (s.ch c).till.foldl (fun s _ => s.tillWrite c) s

/-- Stored 64 B of a burst. -/
def State.burstBytes (s : State) (c q u : Nat) : List Byte := Memory.getRange 0 s.reserve.bytes (resKey c q (u * 64)) 64

/-- Errors of a burst: the devices struck, and whether they were planted. -/
def State.burstBad (s : State) (c q u : Nat) : List Nat × Bool := Memory.get ([], false) s.reserve.bad (resKey c q (u * 64) / 64)

/-- The byte that stands for an uncorrectable burst: the marker of the block's format; the device's where no capture
holds the block. -/
def State.markerAt (c q : Nat) (s : State) : Byte × State :=
  match s.captureAt c q with
  | some (_, x) => (markerOf x.format, s)
  | none =>
    let (v, s) := s.takeFree 8
    (BitVec.ofNat 8 v, s)

/-- R317: one burst read: its data and whether it is uncorrectable. -/
def State.readBurst (src c q u : Nat) (s : State) : List Byte × Bool × State :=
  let s := (s.inOrder c q u).activate c (dimmPos (s.ch c).ranks q u)
  match s.burstBad c q u with
  | ([], _) => (s.burstBytes c q u, false, s)
  | ([d], planted) => (s.burstBytes c q u, false, s.noteResCorr c q u d (if planted then 5 else src))
  | (_, planted) =>
    let (m, s) := s.markerAt c q
    (List.replicate 64 m, true, s.noteResUncorr c q u (if planted then 5 else src))

/-- Reserve address A: channel, channel block and burst (R467). -/
def State.resLocate (s : State) (a : Nat) : Nat × Nat × Nat :=
  let l := s.resChans
  let n := max l.length 1
  let b := a / 65536
  (l.getD (b % n) 0, b / n, a % 65536 / 64)

/-- Bytes of the Reserve from an address: the data, whether some burst was uncorrectable, and the state. -/
def State.readReserve (src a len : Nat) (s : State) : List Byte × Bool × State :=
  let first := a / 64
  let count := (a + len + 63) / 64 - first
  let (d, bad, s) := (List.range count).foldl (fun (r : List Byte × Bool × State) i =>
    let (c, q, u) := r.2.2.resLocate ((first + i) * 64)
    let (x, b, s) := r.2.2.readBurst src c q u
    (r.1 ++ x, r.2.1 || b, s)) ([], false, s)
  ((d.drop (a % 64)).take len, bad, s)

/-- R317: the patrol of a protected block: corrected bursts are written back, uncorrectable ones logged. An
uncorrectable burst found in the DIMM stays so. -/
def execPatrol (ch block : Nat) (bursts : List (Nat × BurstRead)) (s : State) : Host.Outcome State Fault Refusal :=
  settleFlags s (
    let prot := s.captures.any fun e => e.2.blocks.any fun b =>
      e.2.chOf b.pos == ch && e.2.qOf b.pos == block && b.flags &&& fProtected != 0
    if (s.ch ch).state != 1 || !prot then s
    else
      let found (s : State) (u : Nat) : State :=
        let k := resKey ch block (u * 64) / 64
        let (_, bad, t) := s.readBurst 3 ch block u
        if bad then t else t.updRes fun r => { r with bad := Memory.set ([], false) r.bad k ([], false) }
      let s := (List.range 1024).foldl (fun s u => if (s.burstBad ch block u).1.isEmpty then s else found s u) s
      bursts.foldl (fun s (e : Nat × BurstRead) =>
        match e.2 with
        | .clean => s
        | .corrected d => s.noteResCorr ch block e.1 d 3
        | .uncorrectable =>
          let k := resKey ch block (e.1 * 64) / 64
          (s.updRes fun r => { r with bad := Memory.set ([], false) r.bad k ([0, 1], false) }).noteResUncorr ch block e.1 3) s)

/-! ### Refresh, temperature, faults -/

/-- R310, R312, R313: a refresh interval of a rank falls due. At or below PANIC_MARK it is owed while writes are left in the Till, up to the
limit, and served with the debt when none is (notes/assumptions/145.md). -/
def execRefreshDue (ch rank : Nat) (s : State) : Host.Outcome State Fault Refusal :=
  settleFlags s (
    if (s.ch ch).state != 1 || rank ≥ max (s.ch ch).ranks 1 then s
    else
      let s := s.updCh ch fun x => { x with
        policy := x.policyNext.getD x.policy, policyNext := none, powerDown := x.powerDown.set rank false }
      let x := s.ch ch
      if x.level > x.panicMark then
        if x.debt.getD rank 0 < x.debtMax then s.updCh ch fun x => { x with debt := x.debt.modify rank (· + 1) }
        else (s.updCh ch fun x => { x with forcedRef := satAdd 32 x.forcedRef 1 }).emit (.dram ch rank 1 0)
      else if !x.till.isEmpty && x.debt.getD rank 0 < x.debtMax then s.updCh ch fun x => { x with debt := x.debt.modify rank (· + 1) }
      else (s.payAll ch).emit (.dram ch rank (if x.refMode then 0 else 2) 0))

/-- R314: the tables clear at the start of each refresh window. -/
def execRefreshWindowClear (ch : Nat) (s : State) : Host.Outcome State Fault Refusal :=
  settle s (s.updCh ch fun x => { x with acts := [] })

/-- R315: the module temperature in 1/16 °C: above 85 °C the interval halves; above 95 °C the channel takes no capture
blocks until it reads below 90 °C. -/
def execModuleTempRead (ch : Nat) (temp : Int) (s : State) : Host.Outcome State Fault Refusal :=
  settleFlags s (
    if (s.ch ch).state != 1 then s
    else
      let was := (s.ch ch).throttled
      let now := if temp > 1520 then true else if temp < 1440 then false else was
      let s := s.updCh ch fun x => { x with temp := temp, hot85 := temp > 1360, throttled := now }
      if now && !was then s.raise evReserve else s)

/-- R315, R316: the sensor did not answer for 1 s. -/
def execReserveSensorTimeout (ch : Nat) (s : State) : Host.Outcome State Fault Refusal :=
  settleFlags s (s.channelFault ch)

/-- R316: a command fails its parity check; it is replayed up to 3 times. -/
def execCaParityAlert (ch failedReplays : Nat) (s : State) : Host.Outcome State Fault Refusal :=
  settleFlags s (
    if (s.ch ch).state != 1 then s
    else
      let s := s.updCh ch fun x => { x with caRetry := satAdd 16 x.caRetry (min 3 (failedReplays + 1)) }
      if 3 ≤ failedReplays then s.channelFault ch else s)

/-- R318: a rank idle for PD_IDLE enters power-down. -/
def execPowerDownIdle (ch rank : Nat) (s : State) : Host.Outcome State Fault Refusal :=
  settle s (
    if (s.ch ch).state == 1 && (s.ch ch).pdIdle != 0 && rank < (s.ch ch).ranks && !(s.ch ch).powerDown.getD rank false then
      (s.updCh ch fun x => { x with powerDown := x.powerDown.set rank true }).emit (.dram ch rank 6 0)
    else s)

/-- The channel record (R319). -/
def State.channelRecord (s : State) (c : Nat) : List Byte :=
  let x := s.ch c
  le 1 c ++ le 1 x.state ++ le 1 (maxOf x.debt) ++ le 1 (flagBit x.hot85 0 + flagBit x.throttled 1 + flagBit (x.powerDown.any id) 2)
    ++ le 4 (x.level * 65536) ++ le 4 x.tillPeak ++ le 4 x.forcedRef ++ le 4 x.neighbourRef ++ le 4 x.corr ++ le 4 x.uncorr
    ++ le 4 x.gapBlocks ++ le 2 x.caRetry ++ leInt 2 x.temp ++ le 4 x.inOrder ++ List.replicate 8 0

end Sys2Proof.Machine
end

