-- ==== Sys2Proof/Machine/Runs.lean ====
section
/-! DEFINITION. Kernel runs and how they end (R279, R282–R284), and the protected memories of the clerks and the vector
engine (R255, R272, R305, R306). -/
namespace Sys2Proof.Machine

/-! ### Run endings (R283) -/

def exitCycles : Nat := 0xFFFFFF01
def exitIllegal : Nat := 0xFFFFFF02
def exitAccess : Nat := 0xFFFFFF03
def exitAborted : Nat := 0xFFFFFF04
def exitNest : Nat := 0xFFFFFF05
def exitDma : Nat := 0xFFFFFF06
def exitUncorr : Nat := 0xFFFFFF07

/-- STATUS of a run's final reply (R283). -/
def exitStatus (e : Nat) : Nat :=
  if e ≤ 0x7FFFFFFF ∨ e = exitAborted then stOk else if e = exitUncorr then stPoison else stFault

def State.updCtx (c : Nat) (f : VxCtx → VxCtx) (s : State) : State := { s with vx := { s.vx with ctx := s.vx.ctx.modify c f } }
def State.ctx (s : State) (c : Nat) : VxCtx := s.vx.ctx.getD c {}

/-- The kernel that holds the VX user context (R252). -/
def State.vxKernel (s : State) : Option Handle :=
  (s.handles.live.find? fun e => match e.obj with | .kernel k => k.vx | _ => false).map (·.h)

/-- A clerk with its memories, and nothing else, kept. -/
def Clerk.kept (c : Clerk) : Clerk := { mem := c.mem, prog := c.prog, progFlips := c.progFlips }

/-- Clerks that hold the system kernels of a product (R285). -/
def State.servants (s : State) (h : Handle) : List Nat :=
  (List.range 16).filter fun n => (s.clerk n).system && (s.clerk n).owner == some h

/-- The clerks of the kernel that a clerk runs, in their order: a user kernel's, or those of a system kernel. -/
def State.kernelClerks (s : State) (n : Nat) : List Nat :=
  let c := s.clerk n
  match c.system, c.owner with
  | true, some h => s.servants h
  | true, none => ((s.fe.delayClerks.find? fun e => e.2.contains n).map (·.2)).getD []
  | false, o => ((o.bind s.kernel?).map (·.clerks)).getD []

/-- The cycles a clerk has waited are the device's (notes/assumptions/19.md). -/
def State.waitCycles (n : Nat) (s : State) : State :=
  let (d, s) := s.takeFree 32
  s.updClerk n fun c => { c with cyc := c.cyc + BitVec.ofNat 48 d }

/-- Clerks that are stopped in a wait count its cycles (R282). -/
def State.cutWaits (l : List Nat) (s : State) : State :=
  l.foldl (fun (s : State) n => if (s.clerk n).running && (s.clerk n).waiting then s.waitCycles n else s) s

/-- The largest CYC of a kernel's engines (R282). -/
def State.kernelCycles (s : State) (k : Kernel) : Nat :=
  if k.vx then (s.ctx 1).regs.cyc.toNat else maxOf (k.clerks.map fun n => (s.clerk n).cyc.toNat)

/-- R282, R345, R354: the run of a kernel has ended: STOPPED, then the final replies of KERNEL_RUN and of an ABORT. -/
def State.finishRun (h : Handle) (s : State) : State :=
  match s.kernel? h with
  | none => s
  | some k =>
    if s.hstate h != .running then s
    else
      let s := (s.cutWaits k.clerks).haltEngines h
      let t := s.stamp
      let s := s.updEntry h fun e => { e with st := .stopped, completed := true, doneAt := t }
      let r : Res := { status := exitStatus k.exit.toNat, r0 := k.exit.toNat, r1 := s.kernelCycles k % 2 ^ 32, r2 := k.faulted.toNat }
      let s := s.finish (fun d => d.wait == .kernelRun h) r
      s.finish (fun d => d.wait == .abort h) {}

/-- R282: a kernel's run ends by a fault on one of its engines; EXIT is the first to fault's. -/
def State.faultRun (h : Handle) (index exit : Nat) (s : State) : State :=
  let s := s.updKernel h fun k => { k with
    exit := if k.faulted == 0 then BitVec.ofNat 32 exit else k.exit, faulted := k.faulted ||| BitVec.ofNat 32 (2 ^ index) }
  s.finishRun h

/-- The position of a clerk within its kernel. -/
def Kernel.indexOf (k : Kernel) (n : Nat) : Nat := k.clerks.idxOf n

/-- A clerk faults: its kernel's run ends (R282); a system kernel's clerks stop until its reload (R285). -/
def State.clerkFault (n exit : Nat) (s : State) : State :=
  let stop (s : State) (m : Nat) : State := s.updClerk m fun c => { c with running := false, waiting := false, halted := true }
  if (s.clerk n).system then (s.kernelClerks n).foldl stop (stop s n)
  else
    let s := stop s n
    match (s.clerk n).owner.bind fun h => (s.kernel? h).map fun k => (h, k) with
    | some (h, k) => s.faultRun h (k.indexOf n) exit
    | none => s

/-- A vector context faults: context 1 ends its kernel's run; context 0 stops until the formatter is reloaded (R305). -/
def State.vxFault (c exit : Nat) (s : State) : State :=
  let s := s.updCtx c fun x => { x with running := false, wait := none, issue := none }
  if c = 1 then match s.vxKernel with | some h => s.faultRun h 0 exit | none => s else s

/-- R279: an event becomes pending in every engine of a kernel. -/
def State.kernelEvent (h : Handle) (b : Nat) (s : State) : State :=
  match s.kernel? h with
  | none => s
  | some k =>
    if k.vx then s.updCtx 1 fun c => { c with regs := { c.regs with evt := c.regs.evt ||| BitVec.ofNat 8 (2 ^ b) } }
    else k.clerks.foldl (fun s n => s.updClerk n fun c => { c with evt := c.evt ||| BitVec.ofNat 32 (2 ^ b) }) s

/-- R279: an event becomes pending in clerks of system kernels. -/
def State.clerkEvent (l : List Nat) (b : Nat) (s : State) : State :=
  l.foldl (fun (s : State) n => s.updClerk n fun c => { c with evt := c.evt ||| BitVec.ofNat 32 (2 ^ b) }) s

/-- R284: a stop is requested; the 10 µs run from the first request. -/
def State.requestStop (h : Handle) (s : State) : State :=
  let now := s.now
  (s.kernelEvent h 1).updKernel h fun k => { k with stopAt := some (k.stopAt.getD now) }

/-! ### Memories with SEC-DED codes (R305, R306) -/

/-- MEMORY and OFFSET of a clerk address: bank X or Y (R300). -/
def clerkBank (a : Nat) : Nat × Nat := if a < 0x20000 then (1, a) else (2, a - 0x20000)

/-- One byte of a clerk's data memory: value and whether it is uncorrectable; a correction is written back (R305). -/
def State.readClerkByte (n a : Nat) (s : State) : Nat × Bool × State :=
  let x := Memory.get {} (s.clerk n).mem a
  let (c, s) := x.read s
  let h := (s.clerk n).owner.getD 0
  let (bank, off) := clerkBank a
  if c = 0 then (x.data, false, s)
  else if c = 1 then
    (x.data, false, (s.memEvent 2 n bank off h false true).updClerk n fun k =>
      { k with mem := Memory.set {} k.mem a { data := x.data } })
  else (0, true, s.memEvent 2 n bank off h true true)

/-- Write one byte with fresh check bits. -/
def State.writeClerkByte (n a v : Nat) (s : State) : State :=
  s.updClerk n fun k => { k with mem := Memory.set {} k.mem a { data := v % 256 } }

/-- Consecutive bytes of a clerk's memory. -/
def State.readClerk (n a : Nat) : Nat → State → List Byte × Bool × State
  | 0, s => ([], false, s)
  | len + 1, s =>
    let (v, b, s) := s.readClerkByte n a
    let (t, c, s) := State.readClerk n (a + 1) len s
    (BitVec.ofNat 8 v :: t, b || c, s)

/-- One 32-bit word of VX data memory (R255), by word number. -/
def State.readVxWord (w : Nat) (s : State) : Nat × Bool × State :=
  let x := Memory.get {} s.vx.data w
  let (c, s) := x.read s
  let h := if 4 * w < 0x180000 then 0 else s.vxKernel.getD 0
  if c = 0 then (x.data, false, s)
  else if c = 1 then
    let s := s.memEvent 0 0xFF 4 (4 * w) h false true
    (x.data, false, { s with vx := { s.vx with data := Memory.set {} s.vx.data w { data := x.data } } })
  else (0, true, s.memEvent 0 0xFF 4 (4 * w) h true true)

def State.writeVxWord (w v : Nat) (s : State) : State :=
  { s with vx := { s.vx with data := Memory.set {} s.vx.data w { data := v % 2 ^ 32 } } }

/-- Consecutive words of VX data memory. -/
def State.readVx (w : Nat) : Nat → State → List Nat × Bool × State
  | 0, s => ([], false, s)
  | len + 1, s =>
    let (v, b, s) := s.readVxWord w
    let (t, c, s) := State.readVx (w + 1) len s
    (v :: t, b || c, s)

/-- Which of consecutive words of VX data memory cannot be read. -/
def State.badVxWords (w : Nat) : Nat → State → List Bool × State
  | 0, s => ([], s)
  | len + 1, s =>
    let (_, b, s) := s.readVxWord w
    let (t, s) := State.badVxWords (w + 1) len s
    (b :: t, s)

/-- A code of a program memory that corrects one error and detects two is read at its address a (R305): false where the word is lost. -/
def State.readCode (m : Mem (List Nat)) (a : Nat) (note : Bool → State → State) (fix : Mem (List Nat) → State → State) (s : State) :
    Bool × State :=
  let (c, s) := eccClass (Memory.get [] m a) s
  if c = 0 then (true, s)
  else if c = 1 then (true, fix (Memory.set [] m a []) (note false s))
  else (false, note true s)

/-- The instruction at a clerk's pc. -/
def State.fetchClerk (n : Nat) (s : State) : Bool × State :=
  let c := s.clerk n
  s.readCode c.progFlips c.pc (fun bad s => s.memEvent 2 n 3 (8 * c.pc) (c.owner.getD 0) bad true)
    fun m s => s.updClerk n fun c => { c with progFlips := m }

/-- The bundle at a context's pc. -/
def State.fetchVx (c : Nat) (s : State) : Bool × State :=
  let x := s.ctx c
  s.readCode (s.vx.progFlips.getD c []) x.pc
    (fun bad s => s.memEvent 0 0xFF 5 (20 * x.pc) (if c = 1 then s.vxKernel.getD 0 else 0) bad true)
    fun m s => { s with vx := { s.vx with progFlips := s.vx.progFlips.set c m } }

/-- The parameter block addresses (R255, R272). -/
def vxParam : Nat := 0x1FFF00
def clerkParam : Nat := 0x3FF00

/-- R281: the parameter block reaches every engine of the kernel. -/
def State.writeParams (k : Kernel) (b : List Byte) (s : State) : State :=
  if k.vx then
    (List.range ((b.length + 3) / 4)).foldl (fun s i => s.writeVxWord (vxParam / 4 + i) (u32 b (4 * i))) s
  else k.clerks.foldl (fun s n =>
    (List.range b.length).foldl (fun s i => s.writeClerkByte n (clerkParam + i) (u8 b i)) s) s

end Sys2Proof.Machine
end

