-- ==== Sys2Proof/Machine/Matrix.lean ====
section
/-! DEFINITION. The bus matrix (R466–R476): address map, paths, and reads and writes at each target, beat by beat. -/
namespace Sys2Proof.Machine

/-! ### Address map (R466) -/

/-- Where a matrix address leads. -/
inductive Target where
  | vault (a : Nat)
  | clerk (n off : Nat)
  | vx (off : Nat)
  | control (off : Nat)
  | boot (off : Nat)
  | reserve (a : Nat)
  | host (a : Nat)
  | none
  deriving DecidableEq, Repr

/-- R466: the decode of an address, whatever the state of the target. -/
def targetOf (a : Nat) : Target :=
  if a < 0x100000000 then .vault a
  else if a < 0x110000000 then
    let o := a - 0x100000000
    if o / 0x1000000 < 16 && o % 0x1000000 < 0x40000 then .clerk (o / 0x1000000) (o % 0x1000000) else .none
  else if a < 0x110200000 then .vx (a - 0x110000000)
  else if a < 0x120000000 then .none
  else if a < 0x130000000 then .control (a - 0x120000000)
  else if a < 0x134000000 then .boot (a - 0x130000000)
  else if a < 0x10000000000 then .none
  else if a < 0x8000000000000000 then .reserve (a - 0x10000000000)
  else if a < 0x10000000000000000 then .host (a - 0x8000000000000000)
  else .none

/-- An island has stalled (R476, R495), by INDEX. -/
def State.stalled (s : State) (i : Nat) : Bool := s.health.stalled.contains i

/-- How a target answers: 0 serves, 1 TGT_ERR while or after it leaves service (R476), 2 DECODE_ERR where it is absent or
not usable (R466). -/
def State.targetState (s : State) : Target → Nat
  | .vault a => let d := a / 0x80000000; if s.stalled (6 + d) then 1 else if s.usable 5 d then 0 else 2
  | .clerk n _ => if s.stalled 3 then 1 else if s.usable 2 n then 0 else 2
  | .vx _ => if s.stalled 2 then 1 else 0
  | .reserve a => if s.stalled 8 then 1 else if a < s.reserveBytes then 0 else 2
  | .boot _ => if s.stalled 16 then 1 else 0
  | .none => 2
  | _ => 0

/-- R468: the paths. -/
def pathAllowed (m : Master) (write : Bool) : Target → Bool
  | .vault _ => match m with | .hostPort => !write | _ => true
  | .clerk _ _ => m != .hostPort
  | .vx _ => m != .hostPort
  | .control _ => match m with | .dma _ => false | _ => true
  | .reserve _ => !write
  | .host _ => m != .hostPort
  | .boot _ => m == .teller
  | .none => false

/-- Responses (R473). -/
def respOk : Nat := 0
def respTgt : Nat := 1
def respDecode : Nat := 2
def respTimeout : Nat := 3

/-! ### One beat -/

/-- Bytes of consecutive Vault words. -/
def State.readVaultBytes (a len : Nat) (s : State) : List Byte × Bool × State :=
  let w := a / 8
  let n := (a + len + 7) / 8 - w
  let (d, bad, s) := (List.range n).foldl (fun (r : List Byte × Bool × State) i =>
    let (x, b, s) := r.2.2.readWord srcMatrix (w + i)
    (r.1 ++ le 8 x.toNat, r.2.1 || b, s)) ([], false, s)
  ((d.drop (a % 8)).take len, bad, s)

/-- Bytes of VX data memory. -/
def State.readVxBytes (a len : Nat) (s : State) : List Byte × Bool × State :=
  let w := a / 4
  let n := (a + len + 3) / 4 - w
  let (d, bad, s) := s.readVx w n
  (((d.flatMap fun v => le 4 v).drop (a % 4)).take len, bad, s)

/-- Bytes of free values, from a target whose contents the manual does not give. -/
def State.freeBytes : Nat → State → List Byte × State
  | 0, s => ([], s)
  | n + 1, s =>
    let (v, s) := s.takeFree 8
    let (t, s) := State.freeBytes n s
    (BitVec.ofNat 8 v :: t, s)

/-- The response of a host-memory read (R499): UNCORR for a poisoned completion, TIMEOUT otherwise. -/
def hostResp : ReadResult → Nat
  | .ok _ => respOk
  | .poisoned => respTgt
  | .failed => respTimeout

/-- One read beat of `len` bytes; `host` is what host memory returns for it while the link is up. A beat that fails returns zeros (R473). -/
def State.readBeat (m : Master) (a len : Nat) (host : ReadResult) (s : State) : Nat × List Byte × State :=
  let zeros := List.replicate len (0 : Byte)
  let t := targetOf a
  let fin (r : List Byte × Bool × State) : Nat × List Byte × State :=
    if r.2.1 then (respTgt, zeros, r.2.2) else (respOk, r.1, r.2.2)
  if !pathAllowed m false t then (respDecode, zeros, s)
  else if s.targetState t != 0 then (s.targetState t, zeros, s)
  else match t with
    | .vault o => fin (s.readVaultBytes o len)
    | .clerk n o => fin (s.readClerk n o len)
    | .vx o => fin (s.readVxBytes o len)
    | .reserve o => fin (s.readReserve 2 o len)
    | .host _ => match host with
      | .ok d => if s.host.linkUp then (respOk, slice d 0 len, s) else (respTimeout, zeros, s)
      | r => (hostResp r, zeros, s)
    | _ => let (d, s) := s.freeBytes len; (respOk, d, s)

/-- R290: the Vault words of a write beat by their strobes; true when some word is refused. -/
def State.writeVaultWords (a : Nat) : List (List Byte × List Bool) → State → Bool × State
  | [], s => (false, s)
  | (d, st) :: t, s =>
    let whole := st.length == 8 && st.all id
    let s := if whole then s.setWord (a / 8) (BitVec.ofNat 64 (leNat 8 d)) false else s
    let (bad, s) := State.writeVaultWords (a + 8) t s
    (bad || (!whole && st.any id), s)

/-- Cut a beat into pieces of n bytes with their strobes. -/
def cutBeat (n : Nat) : Nat → List Byte → List Bool → List (List Byte × List Bool)
  | 0, _, _ => []
  | f + 1, d, st => if d.isEmpty then [] else (d.take n, st.take n) :: cutBeat n f (d.drop n) (st.drop n)

/-- A write to host memory of the strobed bytes. -/
def State.hostBytes (o : Nat) (d : List Byte) (st : List Bool) (s : State) : State :=
  if st.length == d.length && st.all id then s.emit (.hostWrite (BitVec.ofNat 64 o) d)
  else (List.range d.length).foldl (fun s i =>
    if st.getD i false then s.emit (.hostWrite (BitVec.ofNat 64 (o + i)) [d.getD i 0]) else s) s

/-- One write beat with byte strobes; `accepts` says whether host memory takes it. A beat that does not begin on a word
boundary of the Vault covers its first word in part. -/
def State.writeBeat (m : Master) (a : Nat) (d : List Byte) (st : List Bool) (accepts : Bool) (s : State) : Nat × State :=
  let t := targetOf a
  if !pathAllowed m true t then (respDecode, s)
  else if s.targetState t != 0 then (s.targetState t, s)
  else match t with
    | .vault o =>
      let d' := List.replicate (o % 8) (0 : Byte) ++ d
      let st' := List.replicate (o % 8) false ++ st
      let (bad, s) := s.writeVaultWords (o / 8 * 8) (cutBeat 8 9 d' st')
      (if bad then respTgt else respOk, s)
    | .clerk n o =>
      (respOk, (List.range d.length).foldl (fun s i => if st.getD i false then s.writeClerkByte n (o + i) (u8 d i) else s) s)
    | .vx o =>
      let d' := List.replicate (o % 4) (0 : Byte) ++ d
      let st' := List.replicate (o % 4) false ++ st
      let words := cutBeat 4 17 d' st'
      if words.any fun w => w.2.any id && !(w.2.length == 4 && w.2.all id) then (respTgt, s)
      else
        (respOk, ((List.range words.length).zip words).foldl (fun s (e : Nat × List Byte × List Bool) =>
          if e.2.2.any id then s.writeVxWord (o / 4 + e.1) (leNat 4 e.2.1) else s) s)
    | .host o => if accepts && s.host.linkUp then (respOk, s.hostBytes o d st) else (respTimeout, s)
    | _ => (respOk, s)

/-! ### Bursts (R470, R471) -/

/-- The beats of a burst: start and length of each, cut at 64 B boundaries. -/
def beatsOf : Nat → Nat → Nat → List (Nat × Nat)
  | 0, _, _ => []
  | f + 1, a, len =>
    if len = 0 then [] else
      let n := min len (64 - a % 64)
      (a, n) :: beatsOf f (a + n) (len - n)

/-- The part of a host-memory result that one beat takes. -/
def hostPart (o n : Nat) : ReadResult → ReadResult
  | .ok d => .ok (slice d o n)
  | r => r

/-- A piece of a read: each beat's response and data go to the master. -/
def State.readPiece (m : Master) (a len : Nat) (host : ReadResult) (s : State) : List (Nat × List Byte) × State :=
  (beatsOf (len + 1) a len).foldl (fun (r : List (Nat × List Byte) × State) b =>
    let (resp, d, s) := r.2.readBeat m b.1 b.2 (hostPart (b.1 - a) b.2 host)
    (r.1 ++ [(resp, d)], s)) ([], s)

/-- A piece of a write: the responses of its beats. -/
def State.writePiece (m : Master) (a : Nat) (d : List Byte) (st : List Bool) (accepts : Bool) (s : State) : List Nat × State :=
  (beatsOf (d.length + 1) a d.length).foldl (fun (r : List Nat × State) b =>
    let o := b.1 - a
    let (resp, s) := r.2.writeBeat m b.1 ((d.drop o).take b.2) ((st.drop o).take b.2) accepts
    (r.1 ++ [resp], s)) ([], s)

/-- R470: the pieces of a burst from its beat-aligned start: cut at every 16th beat and at every 1 KiB boundary. -/
def piecesOf (start : Nat) : Nat → Nat → Nat → List (Nat × Nat)
  | 0, _, _ => []
  | f + 1, a, len =>
    if len = 0 then [] else
      let n := min len (min (1024 - a % 1024) (1024 - (a - start) % 1024))
      (a, n) :: piecesOf start f (a + n) (len - n)

/-- The pieces of a burst of `len` bytes at a. -/
def splitBurst (a len : Nat) : List (Nat × Nat) := piecesOf (a / 64 * 64) (len + 1) a len

/-! ### Arbitration (R469) -/

/-- The port of an access: one for each target of the address map, and the default target's. -/
def portOf (m : Master) (write : Bool) (a : Nat) : Nat :=
  let t := targetOf a
  if !pathAllowed m write t then 22
  else match t with
    | .vault _ => 0
    | .clerk n _ => 1 + n
    | .vx _ => 17
    | .control _ => 18
    | .boot _ => 19
    | .reserve _ => 20
    | .host _ => 21
    | .none => 22

/-- Priority of a path (Table — Matrix paths). -/
def pathPrio (m : Master) (port : Nat) : Nat :=
  match m with
  | .teller => 3
  | .hostPort => if port = 18 then 2 else 1
  | .dma _ => 2

/-- Place of a master in the round of masters: the table's order (notes/assumptions/47.md). -/
def masterPlace : Master → Nat
  | .teller => 0
  | .hostPort => 1
  | .dma e => 2 + e % 4

def State.mxPort? (s : State) (port : Nat) : Option MxPort := s.matrix.ports.find? fun p => p.port == port

/-- Masters that come before m in the round after the one a port granted last. -/
def State.roundPlace (s : State) (port : Nat) (m : Master) : Nat :=
  (masterPlace m + 5 - ((s.mxPort? port).map fun p => masterPlace p.parked).getD 5) % 6

/-- Ticks of 1,024 BM cycles. -/
def mxAge : Nat := 1024 * tickNs

/-- The first request of each master in a list (R471). -/
def firstOfEach (l : List MxRequest) : List MxRequest :=
  l.foldl (fun k r => if k.any fun q => q.m == r.m then k else k ++ [r]) []

/-- The request that a port grants next: the oldest that has waited 1,024 cycles; else the highest path priority, in the round of
masters. -/
def State.mxWinner (s : State) (port : Nat) (l : List MxRequest) : Option MxRequest :=
  let c := firstOfEach l
  match c.find? fun r => r.since + mxAge ≤ s.now with
  | some r => some r
  | none => c.foldl (fun b r => match b with
    | none => some r
    | some q =>
      if pathPrio q.m port < pathPrio r.m port
          || (pathPrio q.m port == pathPrio r.m port && s.roundPlace port r.m < s.roundPlace port q.m) then some r else some q) none

/-- A port is granted to a master, for the beats of n bytes. -/
def State.parkOn (port : Nat) (m : Master) (n : Nat) (s : State) : State :=
  { s with matrix := { s.matrix with
      ports := (s.matrix.ports.filter fun p => p.port != port) ++ [{ port := port, parked := m, busy := s.now + ceilDiv n 64 * tickNs }] } }

/-- A waiting request is granted and completes. -/
def State.grantRequest (r : MxRequest) (s : State) : State :=
  let s := { s with matrix := { s.matrix with waiting := s.matrix.waiting.erase r } }
  if r.write then
    let (l, s) := (s.parkOn r.port r.m r.data.length).writePiece r.m r.addr r.data r.strobes r.accepts
    l.foldl (fun s e => s.emit (.beat e [])) s
  else
    let (l, s) := (s.parkOn r.port r.m r.len).readPiece r.m r.addr r.len r.host
    l.foldl (fun s (e : Nat × List Byte) => s.emit (.beat e.1 e.2)) s

/-- The requests that wait at a port. -/
def State.mxWaiting (s : State) (port : Nat) : List MxRequest := s.matrix.waiting.filter fun r => r.port == port

/-- The requests that a port grants before one that master m makes now; n bounds their number. -/
def State.grantAhead (own : MxRequest) : Nat → State → State
  | 0, s => s
  | n + 1, s =>
    match s.mxWinner own.port (s.mxWaiting own.port ++ [own]) with
    | some r => if r == own then s else State.grantAhead own n (s.grantRequest r)
    | none => s

/-- A master's access of n bytes at a is granted (R469). -/
def State.granted (m : Master) (write : Bool) (a n : Nat) (s : State) : State :=
  let own : MxRequest := { port := portOf m write a, m := m, write := write, addr := a, len := n, since := s.now }
  (s.grantAhead own s.matrix.waiting.length).parkOn own.port m n

/-- A burst comes to wait, piece by piece. -/
def State.enqueue (l : List MxRequest) (s : State) : State := { s with matrix := { s.matrix with waiting := s.matrix.waiting ++ l } }

def State.readRequests (s : State) (m : Master) (a len : Nat) (host : ReadResult) : List MxRequest :=
  (splitBurst a len).map fun p =>
    { port := portOf m false p.1, m := m, write := false, addr := p.1, len := p.2, host := hostPart (p.1 - a) p.2 host, since := s.now }

def State.writeRequests (s : State) (m : Master) (a : Nat) (d : List Byte) (st : List Bool) (accepts : Bool) : List MxRequest :=
  (splitBurst a d.length).map fun p =>
    { port := portOf m true p.1, m := m, write := true, addr := p.1, data := (d.drop (p.1 - a)).take p.2
      strobes := (st.drop (p.1 - a)).take p.2, accepts := accepts, since := s.now }

/-- A read burst whose pieces its ports grant in turn. -/
def State.readBurstBeats (m : Master) (a len : Nat) (host : ReadResult) (s : State) : List (Nat × List Byte) × State :=
  (splitBurst a len).foldl (fun (r : List (Nat × List Byte) × State) p =>
    let (l, s) := (r.2.granted m false p.1 p.2).readPiece m p.1 p.2 (hostPart (p.1 - a) p.2 host)
    (r.1 ++ l, s)) ([], s)

/-- A write burst whose pieces its ports grant in turn: the responses of its beats. -/
def State.writeBurstBeats (m : Master) (a : Nat) (d : List Byte) (st : List Bool) (accepts : Bool) (s : State) :
    List Nat × State :=
  (splitBurst a d.length).foldl (fun (r : List Nat × State) p =>
    let (l, s) := (r.2.granted m true p.1 p.2).writePiece m p.1 ((d.drop (p.1 - a)).take p.2) ((st.drop (p.1 - a)).take p.2) accepts
    (r.1 ++ l, s)) ([], s)

/-- R475: the matrix ends a reset master's transactions: its writes with every strobe cleared, its reads discarded. -/
def State.dropRequests (m : Master) (s : State) : State :=
  { s with matrix := { s.matrix with waiting := s.matrix.waiting.filter fun r => r.m != m } }

/-- Each port that no piece occupies grants the next request that waits at it. -/
def State.matrixTick (s : State) : State :=
  (List.range 23).foldl (fun (s : State) p =>
    if ((s.mxPort? p).map MxPort.busy).getD 0 ≤ s.now then
      match s.mxWinner p (s.mxWaiting p) with
      | some r => s.grantRequest r
      | none => s
    else s) s

end Sys2Proof.Machine
end

