-- ==== Sys2Proof/Machine/Dma.lean ====
section
/-! DEFINITION. The DMA channels (R477–R489) and the rows of the bus matrix (R471, R474). Channel numbers are engine × 16
+ channel; host channel h is 56 + h (R477). -/
namespace Sys2Proof.Machine

/-! ### Descriptors (R480) -/

/-- Fields of a descriptor image. -/
structure Desc where
  src : Nat
  dst : Nat
  xLen : Nat
  yCount : Nat
  srcStride : Int
  dstStride : Int
  flags : Nat
  next : Nat
  deriving DecidableEq, Repr

def descOf (b : List Byte) : Desc :=
  { src := u64 b 0, dst := u64 b 8, xLen := u32 b 16, yCount := u32 b 20, srcStride := sext 32 (u32 b 24)
    dstStride := sext 32 (u32 b 28), flags := u32 b 32, next := u64 b 40 }

def Desc.irqHalf (d : Desc) : Bool := bit d.flags 0
def Desc.irqFull (d : Desc) : Bool := bit d.flags 1
def Desc.fill (d : Desc) : Bool := bit d.flags 2
def Desc.total (d : Desc) : Nat := d.xLen * d.yCount

/-- R481: the start of row r, by stride. -/
def rowStart (base : Nat) (stride : Int) (r : Nat) : Nat := ((base : Int) + r * stride).toNat % 2 ^ 64

/-- Host channel number of a channel (R477). -/
def hostChannel (ch : Nat) : Option Nat := if 56 ≤ ch ∧ ch < 64 then some (ch - 56) else none

/-- ERR_CAUSE codes (R478). -/
def causeDecode : Nat := 1
def causePath : Nat := 2
def causeTimeout : Nat := 3
def causeUncorr : Nat := 4
def causeStrobe : Nat := 5
def causeAlign : Nat := 6
def causeWindow : Nat := 7
def causeChain : Nat := 8
def causeDesc : Nat := 9

/-! ### Halts, interrupts (R487, R488, R501) -/

/-- A host channel with IRQ_EN raises its vector (R478, R501). -/
def State.dmaVector (ch : Nat) (s : State) : State :=
  match hostChannel ch with
  | some h => if (s.dmaCh ch).irqEn then s.sendVector (4 + h) else s
  | none => s

/-- DONE in the descriptor's own memory (R487, R488). -/
def State.writeDone (ch v : Nat) (accepts : Bool) (s : State) : Nat × State :=
  (s.granted (.dma (ch / 16)) true ((s.dmaCh ch).curDesc.toNat + 56) 4).writeBeat (.dma (ch / 16)) ((s.dmaCh ch).curDesc.toNat + 56) (le 4 v) [true, true, true, true] accepts

/-- R488: the channel halts with its cause, direction and address; a kernel's run ends, a host channel interrupts. -/
def State.dmaHalt (ch cause : Nat) (write : Bool) (addr : Nat) (s : State) : State :=
  let c := s.dmaCh ch
  let s := s.updDma ch fun x => { x with
    st := .halted, errCause := cause, errDir := write, errAddr := BitVec.ofNat 64 addr, shadowValid := false, loaded := false }
  let s := if c.chain && c.loaded then (s.writeDone ch (3 + 256 * cause) true).2 else s
  match c.owner with
  | some h =>
    let e := if cause = causeUncorr then exitUncorr else exitDma
    if s.hstate h == .running then (s.updKernel h fun k => { k with exit := BitVec.ofNat 32 e }).finishRun h else s
  | none => s.dmaVector ch

/-- The cause of a beat's response (R488). -/
def causeOf (resp : Nat) (write : Bool) (allowed : Bool) : Nat :=
  if resp = respTgt then (if write then causeStrobe else causeUncorr)
  else if resp = respDecode then (if allowed then causeDecode else causePath)
  else causeTimeout

/-! ### Register operations (R478, R483, R484, R489) -/

/-- R484: a HEAD write. -/
def State.dmaHead (ch : Nat) (addr : BitVec 64) (s : State) : State :=
  let c := s.dmaCh ch
  if c.st == .idle || c.st == .halted then
    s.updDma ch fun x => { x with
      st := .running, errCause := 0, errDir := false, kickPending := false, shadowValid := false, dbErr := false, half := false
      full := false, chainCount := 0, chain := true, nextAddr := addr, loaded := false, nextRead := false, doneOut := false, kickDue := false }
  else s.updDma ch fun x => { x with dbErr := true }

/-- NEXT of the descriptor held, from its own memory (R484). -/
def State.readNext (ch : Nat) (host : ReadResult) (s : State) : Nat × Nat × State :=
  let (resp, d, s) := (s.granted (.dma (ch / 16)) false ((s.dmaCh ch).curDesc.toNat + 40) 8).readBeat (.dma (ch / 16))
    ((s.dmaCh ch).curDesc.toNat + 40) 8 host
  (resp, leNat 8 d, s)

/-- R484: a read of NEXT that fails halts the channel. -/
def State.nextFailed (ch resp : Nat) (s : State) : State :=
  s.dmaHalt ch (causeOf resp false true) false ((s.dmaCh ch).curDesc.toNat + 40)

/-- R484: an end-mark read of NEXT is outstanding: every byte is out and the last read gave the end mark. -/
def State.endMarkRead (s : State) (ch : Nat) : Bool :=
  let c := s.dmaCh ch
  c.st == .running && c.loaded && c.chain && c.nextRead && c.lastNext == 0 && c.bytesDone == (descOf c.active).total

/-- R484: a KICK. -/
def State.dmaKick (ch : Nat) (host : ReadResult) (s : State) : State :=
  let s := s.updDma ch fun x => { x with chainCount := 0 }
  if (s.dmaCh ch).st == .parked then
    let (resp, n, s) := s.readNext ch host
    if resp != respOk then s.nextFailed ch resp
    else if n = 0 then s
    else s.updDma ch fun x => { x with st := .running, nextAddr := BitVec.ofNat 64 n, loaded := false, nextRead := false, doneOut := false }
  else if s.endMarkRead ch then s.updDma ch fun x => { x with kickPending := true }
  else s

/-- The shadow set becomes the active one (R483). -/
def DmaCh.takeShadow (x : DmaCh) : DmaCh :=
  { x with
    active := x.shadow, shadowValid := false, st := .running, chain := false, curDesc := 0, loaded := false, nextRead := false
    doneOut := false }

/-- R483: ARM. -/
def State.dmaArm (ch : Nat) (s : State) : State :=
  let c := s.dmaCh ch
  if c.shadowValid || c.st == .parked || c.st == .halted then s.updDma ch fun x => { x with dbErr := true }
  else if c.st == .idle then s.updDma ch DmaCh.takeShadow
  else s.updDma ch fun x => { x with shadowValid := true }

/-- R489: STOP. -/
def State.dmaStop (ch : Nat) (s : State) : State :=
  let c := s.dmaCh ch
  if c.st == .running then s.updDma ch fun x => { x with st := .stopping }
  else if c.st == .parked then s.updDma ch fun x => { x with st := .idle, shadowValid := false }
  else s

/-- The owner of the channel acts through the doorbells or the host's block; a channel exists while its engine is
usable. -/
def State.dmaExists (s : State) (ch : Nat) : Bool := ch < 64 && s.usable 3 (ch / 16)

def execDmaHead (ch : Nat) (addr : BitVec 64) (s : State) : Host.Outcome State Fault Refusal :=
  settleFlags s (if s.dmaExists ch then s.dmaHead ch addr else s)

def execKick (ch : Nat) (host : ReadResult) (s : State) : Host.Outcome State Fault Refusal :=
  settleFlags s (if s.dmaExists ch then (s.updDma ch fun x => { x with kickDue := false }).dmaKick ch host else s)

def execArm (ch : Nat) (s : State) : Host.Outcome State Fault Refusal :=
  settleFlags s (if s.dmaExists ch && (hostChannel ch).isSome then s.dmaArm ch else s)

def execStop (ch : Nat) (s : State) : Host.Outcome State Fault Refusal :=
  settleFlags s (if s.dmaExists ch then s.dmaStop ch else s)

/-! ### Checks before a descriptor moves (R482) -/

/-- Reserved bits, ranges and place of a descriptor. -/
def descBad (b : List Byte) (d : Desc) : Bool :=
  d.flags ≥ 16 || !zeroAt b 36 4 || !zeroAt b 48 8 || !zeroAt b 60 4 || d.xLen < 4 || d.xLen > 16777216 || d.xLen % 4 != 0
    || d.yCount = 0 || d.yCount > 65536

/-- R482: where a descriptor may lie. -/
def descPlace (a : Nat) : Bool :=
  a % 64 == 0 && match targetOf a with
  | .clerk _ _ => true
  | .vx o => 0x180000 ≤ o
  | .host _ => true
  | _ => false

/-- R481. -/
def descAlign (d : Desc) : Bool :=
  (d.fill || (d.src % 4 == 0 && d.srcStride % 4 == 0)) && d.dst % 4 == 0 && d.dstStride % 4 == 0 &&
  (match targetOf d.dst with
   | .vault _ => d.dst % 8 == 0 && d.dstStride % 8 == 0 && d.xLen % 8 == 0
   | _ => true)

/-- Two addresses lie in one target. -/
def sameTarget (a b : Nat) : Bool :=
  match targetOf a, targetOf b with
  | .vault _, .vault _ => true
  | .clerk m _, .clerk n _ => m == n
  | .vx _, .vx _ => true
  | .reserve _, .reserve _ => true
  | .host _, .host _ => true
  | _, _ => false

/-- A row's extent lies on a path the channel may use (R482, R468). -/
def rowPath (ch a len : Nat) (write : Bool) : Bool :=
  sameTarget a (a + len - 1) && pathAllowed (.dma (ch / 16)) write (targetOf a) &&
  (if (hostChannel ch).isSome then
    match targetOf a with
    | .vault _ => !write
    | .reserve _ => !write
    | .host _ => true
    | _ => false
  else true)

/-- A row's extent stays within what a kernel may reach (R280, R396, R482). -/
def State.rowWindow (s : State) (k : Kernel) (a len : Nat) (write : Bool) : Bool :=
  match targetOf a with
  | .clerk n _ => k.clerks.contains n && s.usable 2 n
  | .vx o => k.vx && 0x180000 ≤ o
  | .vault o => (List.range (((o + len - 1) / 65536) - o / 65536 + 1)).all fun i =>
      k.regions.any fun r => r.1.contains (o / 65536 + i) && (!write || r.2)
  | .host o => k.windows.any fun w =>
      w.1.toNat ≤ o && o + len ≤ w.1.toNat + w.2.1.toNat && bit w.2.2.toNat (if write then 1 else 0)
  | _ => false

/-- R482: every check of a descriptor; the cause of a failure. -/
def State.descCause (s : State) (ch : Nat) (b : List Byte) (chain : Bool) (addr : Nat) : Option Nat :=
  let d := descOf b
  let rows := List.range d.yCount
  let ok (p : Nat → Nat → Bool → Bool) : Bool :=
    rows.all fun r => (d.fill || p (rowStart d.src d.srcStride r) d.xLen false) && p (rowStart d.dst d.dstStride r) d.xLen true
  if descBad b d || (chain && !descPlace addr) then some causeDesc
  else if !descAlign d then some causeAlign
  else if !ok (rowPath ch) then some causePath
  else match (s.dmaCh ch).owner.bind s.kernel? with
    | some k => if ok (s.rowWindow k) then none else some causeWindow
    | none => none

/-- R280, R482: a descriptor and its DONE lie where the channel's owner may read and write them; the cause where they do not. -/
def State.descHeld (s : State) (ch a : Nat) : Option Nat :=
  match (s.dmaCh ch).owner.bind s.kernel? with
  | some k => if s.rowWindow k a 64 false && s.rowWindow k (a + 56) 4 true then none else some causeWindow
  | none => if rowPath ch a 64 false && rowPath ch (a + 56) 4 true then none else some causePath

/-- R482, R486: the engine fetches a descriptor and checks it, and halts on a failed check or past CHAIN_LIMIT. -/
def State.descriptorStart (ch : Nat) (host : ReadResult) (s : State) : State :=
  let c := s.dmaCh ch
  if !(c.st == .running || c.st == .stopping) || c.loaded then s
  else if c.chainCount ≥ c.chainLimit then s.dmaHalt ch causeChain false c.nextAddr.toNat
  else
    let a := c.nextAddr.toNat
    let place := if !c.chain then none else if !descPlace a then some causeDesc else s.descHeld ch a
    match place with
    | some cause => s.dmaHalt ch cause false a
    | none =>
    let (resp, b, s) := if c.chain then (s.granted (.dma (ch / 16)) false a 64).readBeat (.dma (ch / 16)) a 64 host else (respOk, c.active, s)
    if resp != respOk then s.dmaHalt ch (causeOf resp false true) false a
    else
      let s := s.updDma ch fun x => { x with
        active := b, chainCount := x.chainCount + 1, bytesDone := 0, loaded := true, nextRead := false, doneOut := false
        lastNext := 0, kickPending := false
        curDesc := if x.chain then x.nextAddr else 0
        shadow := if x.chain && !x.shadowValid then b else x.shadow }
      match s.descCause ch b c.chain a with
      | some cause => s.dmaHalt ch cause false a
      | none => s

def execDescriptorStart (ch : Nat) (host : ReadResult) (s : State) : Host.Outcome State Fault Refusal :=
  settleFlags s (if s.dmaExists ch then s.descriptorStart ch host else s)

/-! ### Moving bytes (R481, R487, R488) -/

/-- The next piece of a descriptor: source, destination and length, within one row and one 1 KiB block of each. -/
def Desc.piece (d : Desc) (done : Nat) : Nat × Nat × Nat :=
  let r := done / d.xLen
  let o := done % d.xLen
  let a := rowStart d.src d.srcStride r + o
  let b := rowStart d.dst d.dstStride r + o
  (a, b, min (d.xLen - o) (min (1024 - b % 1024) (if d.fill then 1024 else 1024 - a % 1024)))

/-- The address of the first beat that failed. -/
def firstBad (beats : List (Nat × Nat)) (resp : List Nat) : Option (Nat × Nat) :=
  (beats.zip resp).findSome? fun e => if e.2 != respOk then some (e.1.1, e.2) else none

/-- Bytes acknowledged advance; HALF at the half point (R487). -/
def State.dmaAdvance (ch n : Nat) (d : Desc) (s : State) : State :=
  let half := (d.total + 1) / 2
  let old := (s.dmaCh ch).bytesDone
  let s := s.updDma ch fun x => { x with bytesDone := old + n }
  if d.irqHalf && old < half && half ≤ old + n then
    (s.updDma ch fun x => { x with half := true }).dmaVector ch
  else s

/-- R481: the next piece is read and written; a beat that fails halts the channel. -/
def State.dmaPiece (ch : Nat) (host : ReadResult) (accepts : Bool) (s : State) : State :=
  let c := s.dmaCh ch
  let d := descOf c.active
  if !(c.st == .running || c.st == .stopping) || !c.loaded || d.total ≤ c.bytesDone then s
  else
    let m : Master := .dma (ch / 16)
    let (a, b, n) := d.piece c.bytesDone
    let (rd, s) := if d.fill then ([], s) else s.readBurstBeats m a n host
    match firstBad (beatsOf (n + 1) a n) (rd.map (·.1)) with
    | some (bad, resp) => s.dmaHalt ch (causeOf resp false (pathAllowed m false (targetOf bad))) false bad
    | none =>
      let data := if d.fill then (List.range n).map fun i => BitVec.ofNat 8 (d.src / 256 ^ (i % 4)) else rd.flatMap (·.2)
      let (wr, s) := s.writeBurstBeats m b data (List.replicate n true) accepts
      match firstBad (beatsOf (n + 1) b n) wr with
      | some (bad, resp) => s.dmaHalt ch (causeOf resp true (pathAllowed m true (targetOf bad))) true bad
      | none => s.dmaAdvance ch n d

/-- R484: NEXT is read again at the descriptor's last read beat, or for a kick that a kernel's doorbell left with a parked
channel whose descriptor lies in host memory. -/
def State.dmaNextRead (ch : Nat) (host : ReadResult) (s : State) : State :=
  let c := s.dmaCh ch
  if c.kickDue && c.st == .parked then (s.updDma ch fun x => { x with kickDue := false }).dmaKick ch host
  else if !(c.st == .running || c.st == .stopping) || !c.loaded || !c.chain || c.nextRead
      || c.bytesDone < (descOf c.active).total then s
  else
    let (resp, n, s) := s.readNext ch host
    if resp != respOk then s.nextFailed ch resp
    else s.updDma ch fun x => { x with nextRead := true, lastNext := BitVec.ofNat 64 n }

/-- What follows a completed descriptor (R483, R484, R489). -/
def State.dmaContinue (ch next : Nat) (s : State) : State :=
  let c := s.dmaCh ch
  if c.st == .stopping then s.updDma ch fun x => { x with st := .idle, shadowValid := false, loaded := false }
  else if next ≠ 0 then s.updDma ch fun x => { x with chain := true, nextAddr := BitVec.ofNat 64 next, loaded := false }
  else if c.shadowValid then s.updDma ch DmaCh.takeShadow
  else if c.chain then
    if c.kickPending then s.updDma ch fun x => { x with kickPending := false }
    else s.updDma ch fun x => { x with st := .parked, loaded := false }
  else s.updDma ch fun x => { x with st := .idle, loaded := false }

/-- FULL, with its interrupt or kernel event (R479, R487). -/
def State.dmaFull (ch : Nat) (s : State) : State :=
  let c := s.dmaCh ch
  if (descOf c.active).irqFull then
    let s := s.updDma ch fun x => { x with full := true }
    match c.owner with
    | some h => match s.kernel? h with
      | some k => s.kernelEvent h (2 + k.channels.idxOf ch)
      | none => s
    | none => s.dmaVector ch
  else s

/-- R487: every write of the descriptor is acknowledged: DONE, then FULL, then the next descriptor or the end mark. -/
def State.descriptorComplete (ch : Nat) (host : ReadResult) (doneOk : Bool) (s : State) : State :=
  let c := s.dmaCh ch
  if !(c.st == .running || c.st == .stopping) || !c.loaded || c.bytesDone < (descOf c.active).total
      || (c.chain && !c.nextRead) then s
  else if !c.chain then (s.dmaFull ch).dmaContinue ch (descOf c.active).next
  else
    let (resp, s) := if c.doneOut then (respOk, s) else s.writeDone ch 1 doneOk
    if resp != respOk then s.dmaHalt ch (causeOf resp true true) true (c.curDesc.toNat + 56)
    else
      let s := if c.doneOut then s else (s.updDma ch fun x => { x with doneOut := true }).dmaFull ch
      if c.lastNext != 0 then s.dmaContinue ch c.lastNext.toNat
      else
        let (resp, n, s) := s.readNext ch host
        if resp != respOk then s.nextFailed ch resp else s.dmaContinue ch n

def execDescriptorComplete (ch : Nat) (host : ReadResult) (doneOk : Bool) (s : State) :
    Host.Outcome State Fault Refusal :=
  settleFlags s (if s.dmaExists ch then s.descriptorComplete ch host doneOk else s)

/-! ### Matrix rows -/

/-- Table — BAR2 completions. -/
def bar2Kind (resp : Nat) : Nat := if resp = respOk then 0 else if resp = respTgt then 1 else if resp = respDecode then 2 else 3

/-- A master that may issue bursts: an engine in service, a host port with its link (R475). -/
def State.masterActive (s : State) : Master → Bool
  | .teller => !s.teller.safe && s.boot.phase == .up
  | .hostPort => s.hostReaches
  | .dma e => s.usable 3 e

/-- R491: a PULSE crossing loses events: its flag is set, and the loss is counted, raised and logged. -/
def State.pulseOverrun (a b lost : Nat) (s : State) : State :=
  let s := s.updHealth fun h => { h with
    cdcOverrun := satAdd 32 h.cdcOverrun 1, overruns := if h.overruns.contains (a, b) then h.overruns else h.overruns ++ [(a, b)] }
  (s.logAdd 0x0402 0 0xFF (le 1 a ++ le 1 b ++ [0, 0] ++ le 4 lost)).raise evCdcOverrun

/-- R471: a granted burst completes at its target; read data and responses go to the master. -/
def execMatrixBurst (b : Burst) (s : State) : Host.Outcome State Fault Refusal :=
  settleFlags s (match b with
    | .read m a len host =>
      if s.masterActive m then
        let (beats, s) := s.readBurstBeats m a.toNat len host
        beats.foldl (fun s (e : Nat × List Byte) => s.emit (.beat e.1 e.2)) s
      else s
    | .write m a data strobes ok =>
      if s.masterActive m then
        let (beats, s) := s.writeBurstBeats m a.toNat data strobes ok
        beats.foldl (fun s r => s.emit (.beat r [])) s
      else s
    | .waitRead m a len host => if s.masterActive m then s.enqueue (s.readRequests m a.toNat len host) else s
    | .waitWrite m a data strobes ok => if s.masterActive m then s.enqueue (s.writeRequests m a.toNat data strobes ok) else s
    | .dmaPiece ch host ok => if s.dmaExists ch then s.dmaPiece ch host ok else s
    | .dmaNext ch host => if s.dmaExists ch then s.dmaNextRead ch host else s
    | .overrun a b n => if s.powered then s.pulseOverrun a b n else s)

/-- R474: a burst passes its bound; the default target completes it with TIMEOUT, which halts a DMA channel (R488) and ends a BAR2
read with a Completer Abort (R504). -/
def execMatrixTimeout (m : Master) (ch : Nat) (addr : BitVec 64) (write : Bool) (s : State) :
    Host.Outcome State Fault Refusal :=
  settleFlags s (match m with
    | .dma e =>
      let n := e * 16 + ch % 16
      if s.dmaExists n && ((s.dmaCh n).st == .running || (s.dmaCh n).st == .stopping) then
        s.dmaHalt n causeTimeout write addr.toNat
      else s
    | .hostPort =>
      if s.hostReaches then ({ s with host := { s.host with bar2Err := true } }).emit (.completion (bar2Kind respTimeout) []) else s
    | .teller => s.emit (.beat respTimeout []))

/-! ### Reading the registers (R478) -/

def DmaSt.code : DmaSt → Nat
  | .idle => 0
  | .running => 1
  | .parked => 2
  | .stopping => 3
  | .halted => 4

/-- Table — DMA STATUS. -/
def DmaCh.status (c : DmaCh) : Nat :=
  c.errCause * 2 ^ 24 + flagBit c.errDir 19 + flagBit c.kickPending 18 + flagBit c.shadowValid 17 + flagBit c.dbErr 16
    + flagBit c.half 7 + flagBit c.full 6 + c.st.code

/-- A channel back at its reset values, its owner apart. -/
def DmaCh.cleared (c : DmaCh) : DmaCh := { owner := c.owner }

end Sys2Proof.Machine
end

