-- ==== Sys2Proof/Machine/Host.lean ====
section
/-! DEFINITION. The host port (15_host_pins_power.md R496–R504), the ring registers and command fetch (R326–R333), and the
SPI management port (R334, R335). -/
namespace Sys2Proof.Machine

/-! ### Link loss (R333, R497, R498) -/

/-- R333: fetching stops, ENABLE clears, and the replies of ring commands under way can no longer be written. -/
def State.ringLost (s : State) : State :=
  { s with
    ring := { s.ring with enable := false }
    teller := { s.teller with
      ringQ := s.teller.ringQ.map fun (c : Cmd) => { c with lost := true }
      deferred := s.teller.deferred.map fun (d : Deferred) => if d.src == .ring then { d with lost := true } else d
      forwards := s.teller.forwards.map fun (f : Forward) => if f.src == .ring then { f with lost := true } else f } }

def execPcieLinkDown (s : State) : Host.Outcome State Fault Refusal :=
  settleFlags s (
    let t := s.ringLost.dropRequests .hostPort
    { t with host := { t.host with linkUp := false, linkWidth := 0, linkSpeed := 0, half := none } })

def execBusMasterClear (s : State) : Host.Outcome State Fault Refusal := settleFlags s s.ringLost

/-- R497: PERST_N low resets the host port. -/
def execPerstAssert (s : State) : Host.Outcome State Fault Refusal :=
  settleFlags s (
    let t := s.ringLost.dropRequests .hostPort
    { t with host := {}, pins := { t.pins with perstN := false } })

def execPerstDeassert (s : State) : Host.Outcome State Fault Refusal :=
  settleFlags s { s with pins := { s.pins with perstN := true } }

/-- R497: the link trains; the port is ready, unless it is held in reset. -/
def execPcieLinkUp (width speed : Nat) (s : State) : Host.Outcome State Fault Refusal :=
  settleFlags s (
    if s.powered && s.portReady && [1, 2, 4, 8].contains width && 1 ≤ speed && speed ≤ 4 then
      { s with host := { s.host with ready := true, linkUp := true, linkWidth := width, linkSpeed := speed } }
    else s)

/-- R498. -/
def execFunctionLevelReset (s : State) : Host.Outcome State Fault Refusal :=
  settleFlags s (
    if s.hostReaches then
      let t := s.ringLost
      let t := { t with host := { t.host with bar2Sel := 0, msix := List.replicate 64 {}, half := none } }
      (List.range 8).foldl (fun t h => t.updDma (56 + h) DmaCh.cleared) t
    else s)

def execD3hotEntry (s : State) : Host.Outcome State Fault Refusal :=
  settleFlags s (
    let t := s.ringLost
    { t with host := { t.host with d3hot := true } })

def execD3hotExit (s : State) : Host.Outcome State Fault Refusal :=
  settleFlags s { s with host := { s.host with d3hot := false } }

/-! ### MSI-X (R332, R450, R501) -/

/-- A vector is unmasked: what its pending bit holds is sent. -/
def State.unmask (v : Nat) (s : State) : State :=
  let e := s.host.msix.getD v {}
  let s := { s with host := { s.host with msix := s.host.msix.modify v fun e => { e with masked := false, pending := false } } }
  if e.masked && e.pending then s.sendVector v else s

def execMsixUnmask (vector : Nat) (s : State) : Host.Outcome State Fault Refusal :=
  settleFlags s (if s.hostReaches then s.unmask vector else s)

/-- R332, R450: the limit of vector 0 or 2 ends. -/
def execMsixHoldoffEnd (vector : Nat) (s : State) : Host.Outcome State Fault Refusal :=
  settleFlags s (
    if vector = 0 then
      let t := { s with host := { s.host with v0Hold := false, v0Owed := false } }
      if s.host.v0Owed then t.sendVector0 else t
    else if vector = 2 then
      let t := { s with host := { s.host with v2Hold := false, v2Owed := false } }
      if s.host.v2Owed then t.sendVector2 else t
    else s)

/-! ### Ring registers (R326, R327) -/

/-- Ring commands fetched and not yet given their first reply (IN_FLIGHT COMMANDS). -/
def State.inFlight (s : State) : Nat :=
  s.teller.ringQ.length + s.teller.forwards.countP fun f => f.src == .ring && !f.replied

/-- IDLE of RING_STATUS. -/
def State.ringIdle (s : State) : Bool := !s.ring.enable && s.inFlight == 0

/-- R331: a reply slot is free beyond those owed. -/
def State.replySlotFree (s : State) : Bool :=
  s.teller.ringQ.countP (fun c => !c.lost) + s.owed .ring < s.replySlots .ring

/-- RUNNING of RING_STATUS. -/
def State.ringRuns (s : State) : Bool := s.ring.enable && !s.ring.hold && !s.ring.entryErr

/-- REPLY_FULL of RING_STATUS. -/
def State.replyFull (s : State) : Bool := s.ringRuns && s.ring.cmdHead != s.ring.cmdTail && !s.replySlotFree

/-- Table — RING_STATUS. -/
def State.ringStatus (s : State) : Nat :=
  flagBit s.teller.safe 7 + flagBit (bit s.ledger.generation.toNat 0) 6 + flagBit s.ring.fetchErr 5
    + flagBit s.ring.doorbellErr 4 + flagBit s.ring.baseErr 3 + flagBit s.replyFull 2 + flagBit s.ringIdle 1
    + flagBit s.ringRuns 0

/-- Table — IN_FLIGHT. -/
def State.inFlightWord (s : State) : Nat := s.teller.deferred.length % 2048 * 65536 + s.inFlight % 8192

/-- R327: a write of CMD_BASE (false) or RPL_BASE (true). -/
def State.writeBase (rpl : Bool) (v : BitVec 64) (s : State) : State :=
  let a := BitVec.ofNat 64 (v.toNat / 4096 * 4096)
  if s.ringIdle then
    { s with ring := if rpl then { s.ring with rplBase := a } else { s.ring with cmdBase := a } }
  else { s with ring := { s.ring with baseErr := true } }

/-- R326: a write of RING_CTRL. -/
def State.ringCtrl (v : Nat) (s : State) : State :=
  let r := if bit v 0 && !s.ring.enable then
      { s.ring with cmdTail := 0, cmdHead := 0, rplHead := 0, rplTail := 0 }
    else s.ring
  { s with ring := { r with notifyAll := bit v 2, hold := bit v 1, enable := bit v 0 } }

/-- The command counter of the oldest unreplied entry; CMD_HEAD when there is none (R327). -/
def State.oldestUnreplied (s : State) : BitVec 13 :=
  let l := (s.teller.ringQ.filter fun c => !c.lost).map (·.ctr)
    ++ (s.teller.forwards.filter fun f => f.src == .ring && !f.replied && !f.lost).map (·.ctr)
  l.foldl (fun b c => if (s.ring.cmdHead - b).toNat < (s.ring.cmdHead - c).toNat then c else b) s.ring.cmdHead

/-- R327: a command doorbell. -/
def State.doorbell (v : Nat) (s : State) : State :=
  let t := BitVec.ofNat 13 v
  let old := s.oldestUnreplied
  if t == s.ring.cmdTail then s
  else if (t - old).toNat ≤ 4096 && (s.ring.cmdHead - old).toNat ≤ (t - old).toNat then
    { s with ring := { s.ring with cmdTail := t } }
  else ({ s with ring := { s.ring with doorbellErr := true } }).sendVector 1

/-- W1C of RING_STATUS. -/
def State.ringStatusClear (v : Nat) (s : State) : State :=
  { s with ring := { s.ring with
    fetchErr := s.ring.fetchErr && !bit v 5, entryErr := s.ring.entryErr && !bit v 5
    doorbellErr := s.ring.doorbellErr && !bit v 4, baseErr := s.ring.baseErr && !bit v 3 } }

/-! ### BAR0 (R500) -/

/-- Table — HOST_STATUS. -/
def State.hostStatus (s : State) : Nat :=
  flagBit s.boot.noImage 15 + flagBit s.boot.fallback 14 + (s.boot.image.getD 0).toNat * 4096 + flagBit s.host.bar2Err 11
    + flagBit s.host.bar2Write 10 + s.host.linkWidth % 64 * 16 + s.host.linkSpeed % 16

/-- A 4 B write into the block of host channel h (R478); a CHAIN_LIMIT of 0 is outside its range and is not stored. KICK
needs what a read of NEXT returns and has its row. -/
def State.dmaRegWrite (h o v : Nat) (s : State) : State :=
  let ch := 56 + h
  if o < 0x40 then s.updDma ch fun x => { x with shadow := patch x.shadow o (le 4 v) }
  else if o = 0x80 then
    let s := s.updDma ch fun x => { x with irqEn := bit v 8, prio := BitVec.ofNat 2 (bits v 5 4) }
    let s := if bit v 0 then s.dmaArm ch else s
    if bit v 1 then s.dmaStop ch else s
  else if o = 0x84 then
    s.updDma ch fun x => { x with dbErr := x.dbErr && !bit v 16, half := x.half && !bit v 7, full := x.full && !bit v 6 }
  else if o = 0x8C then (if v % 2 ^ 24 = 0 then s else s.updDma ch fun x => { x with chainLimit := v % 2 ^ 24 })
  else s

/-- A 4 B write into the MSI-X table. -/
def State.msixWrite (o v : Nat) (s : State) : State :=
  let i := o / 16
  let put (f : Msix → Msix) : State := { s with host := { s.host with msix := s.host.msix.modify i f } }
  match o % 16 with
  | 0 => put fun e => { e with addr := BitVec.ofNat 64 (e.addr.toNat / 2 ^ 32 * 2 ^ 32 + v) }
  | 4 => put fun e => { e with addr := BitVec.ofNat 64 (v * 2 ^ 32 + e.addr.toNat % 2 ^ 32) }
  | 8 => put fun e => { e with data := BitVec.ofNat 32 v }
  | _ => if bit v 0 then put fun e => { e with masked := true } else s.unmask i

/-- 64-bit registers that take their value with their high half: CMD_BASE, RPL_BASE and each HEAD. -/
def wideReg (o : Nat) : Bool := o == 0x10000 || o == 0x10008 || (0x20000 ≤ o && o < 0x20800 && o % 0x100 == 0x90)

/-- The low half that a 64-bit register takes: the one just written, or what it holds. -/
def State.lowHalf (s : State) (o : Nat) : Nat :=
  match s.host.half with
  | some (p, v) => if p = o then v.toNat else 0
  | none => if o = 0x10000 then s.ring.cmdBase.toNat % 2 ^ 32 else if o = 0x10008 then s.ring.rplBase.toNat % 2 ^ 32 else 0

/-- A 64-bit register takes its value. -/
def State.wideWrite (o : Nat) (v : BitVec 64) (s : State) : State :=
  if o = 0x10000 then s.writeBase false v
  else if o = 0x10008 then s.writeBase true v
  else if s.dmaExists (56 + (o - 0x20000) / 0x100) then s.dmaHead (56 + (o - 0x20000) / 0x100) v
  else s

/-- One 4 B write to BAR0. -/
def State.bar0Write4 (o v : Nat) (s : State) : State :=
  if wideReg o then { s with host := { s.host with half := some (o, BitVec.ofNat 32 v) } }
  else if wideReg (o - 4) && 4 ≤ o then
    let full := BitVec.ofNat 64 (v * 2 ^ 32 + s.lowHalf (o - 4))
    State.wideWrite (o - 4) full { s with host := { s.host with half := none } }
  else if o = 0x10010 then s.ringCtrl v
  else if o = 0x10014 then s.ringStatusClear v
  else if o = 0x10018 then s.doorbell v
  else if o = 0x10020 then { s with ring := { s.ring with rplHead := BitVec.ofNat 13 v } }
  else if o = 0x10100 then s.resetCtrl (BitVec.ofNat 32 v)
  else if o = 0x12000 then
    { s with host := { s.host with bar2Err := s.host.bar2Err && !bit v 11, bar2Write := s.host.bar2Write && !bit v 10 } }
  else if o = 0x12004 then { s with host := { s.host with bar2Sel := BitVec.ofNat 32 v &&& 0xFF01 } }
  else if 0x20000 ≤ o && o < 0x20800 then
    let h := (o - 0x20000) / 0x100
    if s.dmaExists (56 + h) then s.dmaRegWrite h ((o - 0x20000) % 0x100) v else s
  else if 0x30000 ≤ o && o < 0x30400 then s.msixWrite (o - 0x30000) v
  else s

/-- R500: naturally aligned writes of 4 B and 8 B; any other is discarded. -/
def State.bar0Write (w : BarWrite) (s : State) : State :=
  let v := w.value.toNat
  if w.size = 4 && w.off % 4 = 0 then s.bar0Write4 w.off (v % 2 ^ 32)
  else if w.size = 8 && w.off % 8 = 0 then (s.bar0Write4 w.off (v % 2 ^ 32)).bar0Write4 (w.off + 4) (v / 2 ^ 32)
  else s

/-- The DMA channel registers as a host reads them (R478). -/
def DmaCh.block (c : DmaCh) : List Byte :=
  c.shadow ++ c.active ++ le 4 (flagBit c.irqEn 8 + 16 * c.prio.toNat) ++ le 4 c.status ++ le 4 0 ++ le 4 c.chainLimit
    ++ le 8 0 ++ le 8 c.curDesc.toNat ++ le 4 c.bytesDone ++ le 4 c.chainCount ++ le 8 c.errAddr.toNat ++ List.replicate 80 0

/-- An MSI-X table entry as it reads. -/
def Msix.image (e : Msix) : List Byte := le 8 e.addr.toNat ++ le 4 e.data.toNat ++ le 4 (flagBit e.masked 0)

/-- The registers of BAR0 from 0x0001_0000 on, by region (R500): start and bytes. -/
def State.bar0Regions (s : State) : List (Nat × List Byte) :=
  [(0x10000, le 8 s.ring.cmdBase.toNat ++ le 8 s.ring.rplBase.toNat
      ++ le 4 (flagBit s.ring.notifyAll 2 + flagBit s.ring.hold 1 + flagBit s.ring.enable 0) ++ le 4 s.ringStatus ++ le 4 0
      ++ le 4 s.ring.cmdHead.toNat ++ le 4 0 ++ le 4 s.ring.rplTail.toNat ++ le 4 s.inFlightWord),
   (0x11000, if s.teller.safe then s.health.safeCopy else List.replicate 256 0),
   (0x12000, le 4 s.hostStatus ++ le 4 s.host.bar2Sel.toNat),
   (0x20000, (List.range 8).flatMap fun h => (s.dmaCh (56 + h)).block),
   (0x30000, s.host.msix.flatMap Msix.image),
   (0x31000, le 8 (bitmap 64 fun i => (s.host.msix.getD i {}).pending))]

/-- What a host read of BAR0 returns (R500, R502): the Ledger below 64 KiB, the registers, zero elsewhere. -/
def State.bar0Byte (s : State) (o : Nat) : Byte :=
  if o < 0x10000 then s.ledgerImage.getD o 0
  else ((s.bar0Regions.find? fun r => r.1 ≤ o && o < r.1 + r.2.length).map fun r => r.2.getD (o - r.1) 0).getD 0

/-- A BAR0 write of the host takes effect if the host reaches the device. -/
def State.hostWrite0 (w : BarWrite) (s : State) : State := if s.hostReaches then s.bar0Write w else s

def execBaseWrite (w : BarWrite) (s : State) : Host.Outcome State Fault Refusal := settleFlags s (s.hostWrite0 w)
def execRegisterWrite (w : BarWrite) (s : State) : Host.Outcome State Fault Refusal := settleFlags s (s.hostWrite0 w)
def execRingEnable (v : BitVec 32) (s : State) : Host.Outcome State Fault Refusal :=
  settleFlags s (if s.hostReaches then s.ringCtrl v.toNat else s)
def execRingDisable (v : BitVec 32) (s : State) : Host.Outcome State Fault Refusal :=
  settleFlags s (if s.hostReaches then s.ringCtrl v.toNat else s)
def execRingHold (v : BitVec 32) (s : State) : Host.Outcome State Fault Refusal :=
  settleFlags s (if s.hostReaches then s.ringCtrl v.toNat else s)
def execCmdDoorbell (v : BitVec 32) (s : State) : Host.Outcome State Fault Refusal :=
  settleFlags s (if s.hostReaches then s.doorbell v.toNat else s)
def execRplDoorbell (v : BitVec 32) (s : State) : Host.Outcome State Fault Refusal :=
  settleFlags s (
    if s.hostReaches then { s with ring := { s.ring with rplHead := BitVec.ofNat 13 v.toNat } } else s)

/-! ### Command fetch (R328–R330) -/

/-- The Teller can fetch: R326, R328, R330, R331; in SAFE_STATE while some channel serves (R447). -/
def State.canFetch (s : State) : Bool :=
  s.hostReaches && s.ringRuns && s.ring.cmdHead != s.ring.cmdTail && s.replySlotFree
    && (s.boot.phase == .up || (s.boot.phase == .booting && s.boot.bistDone))
    && (!s.teller.safe || s.teller.channels.any fun c => c.st != .failed)

/-- R330: the entry at CMD_HEAD cannot be read. -/
def State.entryFailed (s : State) : State :=
  ({ s with ring := { s.ring with fetchErr := true, entryErr := true, hold := true } }).sendVector 1

/-- The packet of an entry and of its indirect parameters (R329): the command, and whether a read failed. -/
def fetchedCmd (ctr : BitVec 13) (e : List Byte) (params : ReadResult) : Cmd × Bool :=
  let n := u16 e 2
  if !bit (u8 e 1) 1 then ({ src := .ring, bytes := slice e 0 64, ctr := ctr }, false)
  else if n < 4 || n > 16384 then ({ src := .ring, bytes := e.take 16, ctr := ctr }, false)
  else if !zeroAt e 24 40 || u64 e 16 % 8 != 0 then ({ src := .ring, bytes := e.take 16, paramErr := true, ctr := ctr }, false)
  else match params with
    | .ok d => ({ src := .ring, bytes := e.take 16 ++ slice d 0 (4 * n - 16), ctr := ctr }, false)
    | _ => ({ src := .ring, bytes := e.take 16, paramErr := true, ctr := ctr }, true)

/-- R328. -/
def State.fetch (entry params : ReadResult) (s : State) : State :=
  match entry with
  | .ok e =>
    let (c, failed) := fetchedCmd s.ring.cmdHead (slice e 0 64) params
    let s := s.updTeller fun t => { t with ringQ := t.ringQ ++ [c] }
    { s with ring := { s.ring with cmdHead := s.ring.cmdHead + 1, fetchErr := s.ring.fetchErr || failed } }
  | _ => s.entryFailed

def execCommandFetch (entry params : ReadResult) (s : State) : Host.Outcome State Fault Refusal :=
  settleFlags s (if s.canFetch then s.fetch entry params else s)

/-! ### Completions (R474, R499) -/

/-- The host-memory address that a DMA channel reads next: its descriptor, its source, or NEXT. -/
def State.dmaReadAddr (s : State) (ch : Nat) : Nat :=
  let c := s.dmaCh ch
  let d := descOf c.active
  if !c.loaded then c.nextAddr.toNat
  else if c.bytesDone < d.total then (d.piece c.bytesDone).1
  else c.curDesc.toNat + 40

/-- A read of the device fails. -/
def State.readFails (rd : DeviceRead) (poisoned : Bool) (s : State) : State :=
  match rd with
  | .ringEntry => if s.canFetch then s.entryFailed else s
  | .indirect => if s.canFetch then { s with ring := { s.ring with fetchErr := true } } else s
  | .dma ch =>
    if s.dmaExists ch && ((s.dmaCh ch).st == .running || (s.dmaCh ch).st == .stopping) then
      s.dmaHalt ch (if poisoned then causeUncorr else causeTimeout) false (s.dmaReadAddr ch)
    else s

/-- R499: the data of a successful completion are the operands of the row whose read it answers. -/
def execPcieCompletion (rd : DeviceRead) (res : ReadResult) (s : State) : Host.Outcome State Fault Refusal :=
  settleFlags s (match res with
    | .ok _ => s
    | .poisoned => s.readFails rd true
    | .failed => s.readFails rd false)

def execPcieCompletionTimeout (rd : DeviceRead) (s : State) : Host.Outcome State Fault Refusal :=
  settleFlags s (s.readFails rd false)

/-! ### BAR2 (R503, R504) -/

/-- The matrix address of a BAR2 offset; none where WINDOW is not 0 for the Vault. -/
def State.bar2Addr (s : State) (off : Nat) : Option Nat :=
  let sel := s.host.bar2Sel.toNat
  let w := bits sel 15 8
  if bit sel 0 then some (0x10000000000 + w * 2 ^ 32 + off) else if w = 0 then some off else none

def execBar2Read (off len : Nat) (s : State) : Host.Outcome State Fault Refusal :=
  settleFlags s (
    if s.hostReaches && off + len ≤ 2 ^ 32 then
      match s.bar2Addr off with
      | none => ({ s with host := { s.host with bar2Err := true } }).emit (.completion 2 [])
      | some a =>
        let (beats, t) := s.readBurstBeats .hostPort a len .failed
        match (beats.map (·.1)).find? (· != respOk) with
        | none => t.emit (.completion 0 (beats.flatMap (·.2)))
        | some r =>
          ({ t with host := { t.host with bar2Err := true } }).emit
            (.completion (bar2Kind r) (if r = respTgt then List.replicate len 0 else []))
    else s)

def execBar2Write (_off : Nat) (_data : List Byte) (s : State) : Host.Outcome State Fault Refusal :=
  settleFlags s (if s.hostReaches then { s with host := { s.host with bar2Write := true } } else s)

/-! ### SPI (R334, R335) -/

def State.frameError (s : State) : State := { s with spi := { s.spi with frameErr := true } }

/-- R335: a WRITE frame, without its first byte. -/
def execSpiWrite (frame : List Byte) (s : State) : Host.Outcome State Fault Refusal :=
  settleFlags s (
    let n := u16 frame 0
    if !s.powered || s.stalled 16 then s
    else if n < 16 || n > 4096 || n % 4 != 0 || frame.length != n + 6 || !crcLastOk frame then s.frameError
    else if 16 ≤ s.spi.cmdQ.length then { s with spi := { s.spi with overflow := true } }
    else { s with spi := { s.spi with cmdQ := s.spi.cmdQ ++ [{ src := .spi, bytes := (frame.drop 2).take n }] } })

/-- R334, R335: READ_REPLY with so many bytes clocked after the first. -/
def execSpiReadReply (clocked : Nat) (s : State) : Host.Outcome State Fault Refusal :=
  settleFlags s (
    if !s.powered || s.stalled 16 then s
    else
      let body := match s.spi.replyQ with
        | r :: _ => [1] ++ slice r 0 32
        | [] => List.replicate 33 0
      let t := s.emit (.spi ((withCrc body).take (clocked - 1)))
      if 38 ≤ clocked then { t with spi := { t.spi with replyQ := t.spi.replyQ.drop 1 } } else t)

/-- STATUS of READ_STATUS (R334). -/
def State.spiStatus (s : State) : Nat :=
  flagBit (!s.spi.replyQ.isEmpty) 0 + flagBit s.spi.frameErr 1 + flagBit (16 ≤ s.spi.cmdQ.length) 2
    + flagBit s.spi.overflow 3 + flagBit s.teller.safe 4 + flagBit (bit s.ledger.generation.toNat 0) 5

def execSpiReadStatus (s : State) : Host.Outcome State Fault Refusal :=
  settleFlags s (
    if !s.powered || s.stalled 16 then s
    else
      ({ s with spi := { s.spi with frameErr := false, overflow := false } }).emit
        (.spi (le 1 s.spiStatus ++ le 1 s.spi.replyQ.length)))

/-- R334: READ_DATA. What a frame outside its limits returns is the device's. -/
def execSpiReadData (offset count : Nat) (s : State) : Host.Outcome State Fault Refusal :=
  settleFlags s (
    if !s.powered || s.stalled 16 then s
    else if offset % 4 = 0 && count % 4 = 0 && 4 ≤ count && offset + count ≤ 4096 then
      s.emit (.spi (withCrc (slice s.spi.dataBuf offset count)))
    else
      let (d, t) := s.freeBytes count
      t.emit (.spi d))

def execSpiUnknownFrame (_first : Byte) (s : State) : Host.Outcome State Fault Refusal :=
  settleFlags s (if s.powered && !s.stalled 16 then s.frameError else s)

end Sys2Proof.Machine
end

