-- ==== Sys2Proof/Machine/CmdHealth.lean ====
section
/-! DEFINITION. HEALTH_READ, LOG_READ, SCRUB_SET and MONITOR_SET (R404, R405, R407, R408, R294, R312, R313, R320). -/
namespace Sys2Proof.Machine

/-! ### HEALTH_READ -/

/-- R404, R101: the latest HEALTH packet of a peer, zeros where none was heard. -/
def State.peerHealth (s : State) (n : Nat) : List Byte :=
  ((s.plane.health.find? fun e => e.1 == n).map fun e => slice e.2 0 64).getD (List.replicate 64 0)

/-- The bulk data of each WHAT. -/
def State.healthData (s : State) (what first count : Nat) : List Byte :=
  match what with
  | 1 => s.health.statement
  | 2 => (List.range count).flatMap fun i => s.dieRecord (first + i)
  | 3 => (List.range count).flatMap fun i => s.channelRecord (first + i)
  | _ => (List.range count).flatMap fun i => s.peerHealth (first + i)

/-- CLEAR zeroes the counters of a die; AUDIT_LAST is the time of a pass and stays (R73, R319). -/
def DieCounters.cleared (c : DieCounters) : DieCounters := { passLast := c.passLast }

/-- What CLEAR clears: the event bits (R449), die counters or channel counters (R319). -/
def State.healthClear (what first count : Nat) (s : State) : State :=
  let named (i : Nat) : Bool := first ≤ i && i < first + count
  match what with
  | 0 => s.updHealth fun h => { h with events := 0 }
  | 1 => s.updHealth fun h => { h with events := 0 }
  | 2 => s.updVault fun v => { v with cnt := (List.range 2).map fun i => if named i then (v.cnt.getD i {}).cleared else v.cnt.getD i {} }
  | 3 => (List.range 8).foldl (fun s i => if named i then s.updCh i fun x => { x with
      tillPeak := x.level * 65536, forcedRef := 0, neighbourRef := 0, corr := 0, uncorr := 0, gapBlocks := 0, caRetry := 0
      inOrder := 0 } else s) s
  | _ => s

/-- Objects that WHAT can name. -/
def healthCount (what : Nat) : Nat :=
  match what with
  | 2 => 2
  | 3 => 8
  | 4 => 32
  | _ => 0

/-- The units that a WHAT names and that must be present (R2): Reserve channels. A record of a Vault die says itself that the die is
absent, in STATE (R319). -/
def healthUnits (what first count : Nat) : List (Nat × Nat) :=
  if what = 3 then (List.range count).map fun i => (6, first + i) else []

def healthReadBody (p : Pkt) (s : State) : Body :=
  let what := u8 p.b 16
  let first := u8 p.b 18
  let count := u8 p.b 19
  let clear := bit (u8 p.b 17) 0
  { words := 10
    checks := [
      p.noTarget, p.reserved [(20, 4), (36, 4)],
      failIf (what > 4 || u8 p.b 17 > 1) stParam,
      failIf (isFabric p.src && what != 0) stParam,
      failIf (2 ≤ what && (count == 0 || first + count > healthCount what)) stParam,
      if what = 0 then none else p.destBad 24 32,
      (healthUnits what first count).findSome? fun u => unitAbsent s u.1 u.2]
    effect := fun t =>
      if what = 0 then
        (if clear then t.healthClear 0 0 0 else t,
          { r0 := s.eventFlags.toNat, r1 := wrapBits 32 s.tempMax, r2 := s.ledger.generation.toNat }, .done)
      else p.bulk 24 32 (s.healthData what first count) 0 (fun u => if clear then u.healthClear what first count else u) t }

def execHealthRead (src : Source) (wr : Bool) (s : State) : Host.Outcome State Fault Refusal :=
  settleFlags s (runOp 0x60 healthReadBody src wr .failed s)

/-! ### LOG_READ -/

/-- Entries of the log from a number on. -/
def Log.upTo (l : Log) (first count : Nat) : List (Nat × List Byte) :=
  (l.entries.filter fun e => first ≤ e.1).take count

/-- R405: entries from FROM, or from the oldest held; those written count as covered (R448). -/
def logReadBody (p : Pkt) (s : State) : Body :=
  let start := max (u32 p.b 16) (((s.log.entries.head?).map (·.1)).getD 0)
  let l := s.log.upTo start (u16 p.b 20)
  { words := 10
    checks := [p.noTarget, p.reserved [(22, 2), (36, 4)], failIf (u16 p.b 20 == 0) stParam, p.destBad 24 32]
    effect := fun t =>
      let (t, r, a) := p.bulk 24 32 (l.flatMap (·.2)) start id t
      if r.status = stOk then
        ({ t with log := { t.log with readMark := max t.log.readMark (start + r.r1 / 32) } }, r, a)
      else (t, r, a) }

def execLogRead (src : Source) (wr : Bool) (s : State) : Host.Outcome State Fault Refusal :=
  settleFlags s (runOp 0x61 logReadBody src wr .failed s)

/-! ### SCRUB_SET -/

/-- R294: an Auditor control word that breaks its layout. -/
def auditorBad (w : Nat) : Bool :=
  bits w 31 29 != 0 || bits w 11 1 != 0 || bits w 63 32 != 0 || bits w 28 12 == 0 || bits w 28 12 > 86400

/-- R312, R313: a policy word that breaks its layout or limits. -/
def policyBad (w : Nat) : Bool :=
  bits w 31 24 != 0 || bits w 19 16 != 0 || bits w 11 3 != 0 || bit w 0 || bits w 23 20 == 0
    || bits w 47 32 < 256 || bits w 47 32 > 32768 || bits w 15 12 > (if bit w 1 then 8 else 4)

/-- The fields of form 3. -/
structure Inject where
  tclass : Nat
  unit : Nat
  subch : Nat
  npos : Nat
  addr : Nat
  pos : List Nat
  poison : Bool
  deriving DecidableEq, Repr

def injectOf (b : List Byte) : Inject :=
  let n := u8 b 27
  { tclass := u8 b 24, unit := u8 b 25, subch := u8 b 26, npos := n, addr := u32 b 28
    pos := ((List.range 3).map fun i => u8 b (32 + i)).take n, poison := bit (u8 b 35) 0 }

/-- Positions within a target (R320): codeword bits, devices, word or byte bits. -/
def posLimit (tclass : Nat) : Nat := [0, 80, 10, 64, 8, 32].getD tclass 0

/-- R320, R407: fields out of range or used where the form reserves them. -/
def injectBad (b : List Byte) (i : Inject) : Bool :=
  i.tclass == 0 || i.tclass > 5 || u8 b 35 > 1 || (i.poison && i.tclass != 1) || i.npos > 3
    || (i.npos == 0 && !i.poison) || (i.tclass != 1 && i.npos > 2)
    || i.pos.any (fun x => posLimit i.tclass ≤ x) || !zeroAt b (32 + i.npos) (3 - i.npos)
    || (i.tclass == 1 || i.tclass == 5) && i.unit != 0 || i.tclass != 2 && i.subch != 0 || i.subch > 1
    || (i.tclass == 2 || i.tclass == 3) && (i.addr != 0 || i.unit > 7)
    || i.tclass == 4 && (i.unit > 15 || i.addr ≥ 0x40000) || i.tclass == 5 && i.addr ≥ 0x200000

/-- Bits inverted once more. -/
def toggle (l pos : List Nat) : List Nat := pos.foldl (fun l x => if l.contains x then l.erase x else l ++ [x]) l

/-- R320: the error is planted, or waits for the next burst or word. -/
def State.inject (i : Inject) (s : State) : State :=
  match i.tclass with
  | 1 =>
    let w := i.addr / 8
    let x := s.vword w
    let y : VWord := if i.poison then { data := x.data, poison := true, flips := toggle [] i.pos } else { x with flips := toggle x.flips i.pos }
    s.updVault fun v => { v with words := Memory.set {} v.words w y }
  | 2 => s.updRes fun r => { r with injectBurst := some (i.unit, i.subch, toggle [] i.pos) }
  | 3 => s.updRes fun r => { r with injectTill := some (i.unit, (toggle [] i.pos).length) }
  | 4 => s.updClerk i.unit fun k =>
      let x := Memory.get {} k.mem i.addr
      { k with mem := Memory.set {} k.mem i.addr { x with flips := toggle x.flips i.pos } }
  | _ =>
    let x := Memory.get {} s.vx.data (i.addr / 4)
    { s with vx := { s.vx with data := Memory.set {} s.vx.data (i.addr / 4) { x with flips := toggle x.flips i.pos } } }

/-- Class and number of the unit that an injection strikes. -/
def Inject.units (i : Inject) : List (Nat × Nat) :=
  match i.tclass with
  | 1 => [(5, i.addr / 2 ^ 31)]
  | 2 => [(6, i.unit)]
  | 3 => [(6, i.unit)]
  | 4 => [(2, i.unit)]
  | _ => []

def scrubSetBody (p : Pkt) (s : State) : Body :=
  let form := u8 p.b 16
  let w := u64 p.b 24
  let i := injectOf p.b
  let named := (List.range 8).filter fun c => bit (u8 p.b 20) c
  let units := if form = 2 then named.map fun c => (6, c) else if form = 3 then i.units else []
  { words := 9
    checks := [
      p.noTarget, p.reserved [(17, 3), (21, 3)],
      failIf (form == 0 || form > 3 || (form == 3 && isFabric p.src)) stParam,
      failIf (form != 2 && u8 p.b 20 != 0 || form != 3 && !zeroAt p.b 32 4) stParam,
      failIf (form == 1 && auditorBad w || form == 2 && policyBad w || form == 3 && injectBad p.b i) stParam]
      ++ units.map (fun u => unitAbsent s u.1 u.2) ++ units.map (fun u => unitFault s u.1 u.2)
      ++ [failIf (form == 3 && (i.tclass == 2 && s.reserve.injectBurst.isSome || i.tclass == 3 && s.reserve.injectTill.isSome)) stState]
    effect := okWith fun t =>
      match form with
      | 1 => t.updVault fun v => { v with period := bits w 28 12, auditHold := bit w 0 }
      | 2 => named.foldl (fun t c => t.updCh c fun x => { x with policyNext := some (BitVec.ofNat 64 w) }) t
      | _ => t.inject i }

def execScrubSet (src : Source) (s : State) : Host.Outcome State Fault Refusal :=
  settleFlags s (runOp 0x63 scrubSetBody src true .failed s)

/-! ### MONITOR_SET -/

/-- One entry of MONITOR_SET. -/
structure MonEntry where
  cls : Nat
  num : Nat
  flags : Nat
  hi : Int
  lo : Int
  deriving DecidableEq, Repr

/-- Temperatures are signed; voltages and counts are not. -/
def monEntry (b : List Byte) (o : Nat) : MonEntry :=
  let f (v : Nat) : Int := if u8 b o = 1 then sext 16 v else (v : Int)
  { cls := u8 b o, num := u8 b (o + 1), flags := u8 b (o + 2), hi := f (u16 b (o + 4)), lo := f (u16 b (o + 6)) }

/-- R453: a threshold beyond its fixed limit. -/
def MonEntry.limits (e : MonEntry) : Bool :=
  let n : Int := (vmNominal.getD e.num 0 : Nat)
  match e.cls with
  | 1 => e.hi ≤ 1600 && -640 ≤ e.lo
  | 2 => 100 * e.hi ≤ 110 * n && 90 * n ≤ 100 * e.lo
  | _ => true

/-- R408: an entry that is not accepted. -/
def State.monBad (s : State) (b : List Byte) (o : Nat) : Bool :=
  let e := monEntry b o
  match sensorIndex e.cls e.num with
  | none => true
  | some i => !s.sensorPresent i || e.flags > 1 || u8 b (o + 3) != 0 || !e.limits || e.hi < e.lo

def monitorSetBody (p : Pkt) (s : State) : Body :=
  let n := u16 p.b 16
  let at_ (i : Nat) : Nat := 20 + 8 * i
  { words := 5 + 2 * n
    checks := [
      p.noTarget, p.reserved [(18, 2)], failIf (n == 0 || n > 72) stParam,
      failIf ((List.range n).any fun i => s.monBad p.b (at_ i)) stParam]
    effect := okWith fun t =>
      (List.range n).foldl (fun t i =>
        let e := monEntry p.b (at_ i)
        match sensorIndex e.cls e.num with
        | none => t
        | some k => t.updHealth fun h => { h with
            sensors := h.sensors.modify k fun x => { x with hi := e.hi, lo := e.lo, raise := bit e.flags 0 } }) t }

def execMonitorSet (src : Source) (s : State) : Host.Outcome State Fault Refusal :=
  settleFlags s (runOp 0x64 monitorSetBody src true .failed s)

end Sys2Proof.Machine
end

