-- ==== Sys2Proof/Machine/Fp.lean ====
section
/-! DEFINITION. IEEE 754 numbers as bit patterns: exact values, and rounding of exact results to nearest with ties to
even. A finite number is m × 2^e, so that sums and products are exact before the one rounding. -/
namespace Sys2Proof.Machine

/-- A binary format: exponent bits and fraction bits. -/
structure Fmt where
  e : Nat
  m : Nat
  deriving DecidableEq, Repr

def b16 : Fmt := ⟨5, 10⟩
def b32 : Fmt := ⟨8, 23⟩
def b64 : Fmt := ⟨11, 52⟩

/-- A value: m × 2^e exactly (`neg` the sign, of zero too), infinity, or NaN. -/
inductive Fp where
  | fin (neg : Bool) (m : Nat) (e : Int)
  | inf (neg : Bool)
  | nan
  deriving DecidableEq, Repr

/-- Exponent of the last place of a subnormal. -/
def Fmt.low (f : Fmt) : Int := 2 - 2 ^ (f.e - 1) - f.m

def Fmt.infPat (f : Fmt) : Nat := (2 ^ f.e - 1) * 2 ^ f.m
def Fmt.signPat (f : Fmt) (neg : Bool) : Nat := if neg then 2 ^ (f.e + f.m) else 0

/-- The quiet NaN with sign 0 and no other fraction bit. -/
def Fmt.qnan (f : Fmt) : Nat := f.infPat + 2 ^ (f.m - 1)

/-- The value of a pattern. -/
def Fmt.read (f : Fmt) (p : Nat) : Fp :=
  let neg := bit p (f.e + f.m)
  let ex := p / 2 ^ f.m % 2 ^ f.e
  let fr := p % 2 ^ f.m
  if ex = 2 ^ f.e - 1 then (if fr = 0 then .inf neg else .nan)
  else if ex = 0 then .fin neg fr f.low
  else .fin neg (2 ^ f.m + fr) (f.low + (ex - 1 : Nat))

/-- n × 2^e rounded to the format: its magnitude pattern; overflow gives infinity. -/
def Fmt.magnitude (f : Fmt) (n : Nat) (e : Int) : Nat :=
  if n = 0 then 0
  else
    let q := max (e + (n.log2 : Int) - f.m) f.low
    let k : Nat := if q ≤ e then n * 2 ^ (e - q).toNat else (rhe n (q - e).toNat).toNat
    let p := if k < 2 ^ f.m then k else (q - f.low + 1).toNat * 2 ^ f.m + (k - 2 ^ f.m)
    min p f.infPat

/-- A signed exact value m × 2^e rounded; `zneg` is the sign of an exact zero. -/
def Fmt.round (f : Fmt) (m : Int) (e : Int) (zneg : Bool) : Nat :=
  if m = 0 then f.signPat zneg else f.signPat (m < 0) + f.magnitude m.natAbs e

/-- The signed integer m of a finite value. -/
def signed (neg : Bool) (m : Nat) : Int := if neg then -(m : Int) else m

/-- m × 2^e in units of 2^to, for `to` at or below e. -/
def scaleTo (m : Int) (e target : Int) : Int := m * 2 ^ (e - target).toNat

/-- The exact sum of two finite values. -/
def addExact (m1 : Int) (e1 : Int) (m2 : Int) (e2 : Int) : Int × Int :=
  let t := min e1 e2
  (scaleTo m1 e1 t + scaleTo m2 e2 t, t)

/-- Sum; an exact zero is +0 unless both are negative. -/
def Fmt.add (f : Fmt) (a b : Nat) : Nat :=
  match f.read a, f.read b with
  | .nan, _ => f.qnan
  | _, .nan => f.qnan
  | .inf x, .inf y => if x == y then f.signPat x + f.infPat else f.qnan
  | .inf x, _ => f.signPat x + f.infPat
  | _, .inf y => f.signPat y + f.infPat
  | .fin x m1 e1, .fin y m2 e2 =>
    let r := addExact (signed x m1) e1 (signed y m2) e2
    f.round r.1 r.2 (x && y)

/-- The pattern with its sign inverted. -/
def Fmt.neg (f : Fmt) (a : Nat) : Nat := a ^^^ 2 ^ (f.e + f.m)

/-- Product. -/
def Fmt.mul (f : Fmt) (a b : Nat) : Nat :=
  match f.read a, f.read b with
  | .nan, _ => f.qnan
  | _, .nan => f.qnan
  | .inf x, .inf y => f.signPat (x != y) + f.infPat
  | .inf x, .fin y m _ => if m = 0 then f.qnan else f.signPat (x != y) + f.infPat
  | .fin x m _, .inf y => if m = 0 then f.qnan else f.signPat (x != y) + f.infPat
  | .fin x m1 e1, .fin y m2 e2 => f.signPat (x != y) + f.magnitude (m1 * m2) (e1 + e2)

/-- a × b + c with one rounding. -/
def Fmt.fma (f : Fmt) (a b c : Nat) : Nat :=
  match f.read a, f.read b, f.read c with
  | .nan, _, _ => f.qnan
  | _, .nan, _ => f.qnan
  | _, _, .nan => f.qnan
  | .fin x m1 e1, .fin y m2 e2, .fin z m3 e3 =>
    let r := addExact (signed (x != y) (m1 * m2)) (e1 + e2) (signed z m3) e3
    f.round r.1 r.2 ((x != y) && z)
  | .fin _ _ _, .fin _ _ _, .inf z => f.signPat z + f.infPat
  | _, _, _ => f.add (f.mul a b) c

/-- A magnitude n × 2^e between two neighbours: the pattern at or below it (at most the largest finite one), what lies above
that pattern and the gap to the next, both in one unit. -/
def Fmt.chop (f : Fmt) (n : Nat) (e : Int) : Nat × Nat × Nat :=
  let top : Int := f.low + (2 ^ f.e - 3)
  let q := min (max (e + (n.log2 : Int) - f.m) f.low) top
  let t := min e q
  let v := n * 2 ^ (e - t).toNat
  let gap := 2 ^ (q - t).toNat
  let k := min (v / gap) (2 ^ (f.m + 1) - 1)
  let p := if k < 2 ^ f.m then k else (q - f.low + 1).toNat * 2 ^ f.m + (k - 2 ^ f.m)
  (p, v - k * gap, gap)

/-- R197, R266: an exact value rounded stochastically by 24 random bits; `zneg` is the sign of an exact zero. -/
def Fmt.stoch (f : Fmt) (m : Int) (e : Int) (zneg : Bool) (random : Nat) : Nat :=
  if m = 0 then f.signPat zneg
  else
    let (p, r, gap) := f.chop m.natAbs e
    if r = 0 then f.signPat (m < 0) + p
    else if 0 < m then (if random < r * 2 ^ 24 / gap then p + 1 else p)
    else f.signPat true + (if random < (gap - r) * 2 ^ 24 / gap then p else p + 1)

/-- An exact value rounded towards zero; beyond the range, the largest finite value (R266). -/
def Fmt.chopped (f : Fmt) (m : Int) (e : Int) (zneg : Bool) : Nat :=
  if m = 0 then f.signPat zneg else f.signPat (m < 0) + (f.chop m.natAbs e).1

/-- A finite pattern as m × 2^e; infinities and NaNs give 0. -/
def Fmt.exact (f : Fmt) (a : Nat) : Int × Int :=
  match f.read a with
  | .fin neg m e => (signed neg m, e)
  | _ => (0, 0)

def Fmt.isNan (f : Fmt) (a : Nat) : Bool := f.read a == .nan

/-- Exponent not all ones. -/
def Fmt.isFinite (f : Fmt) (a : Nat) : Bool := a / 2 ^ f.m % 2 ^ f.e != 2 ^ f.e - 1

/-- a < b, false when either is a NaN. -/
def Fmt.lt (f : Fmt) (a b : Nat) : Bool :=
  match f.read a, f.read b with
  | .nan, _ => false
  | _, .nan => false
  | .inf x, .inf y => x && !y
  | .inf x, _ => x
  | _, .inf y => !y
  | .fin x m1 e1, .fin y m2 e2 =>
    let t := min e1 e2
    scaleTo (signed x m1) e1 t < scaleTo (signed y m2) e2 t

/-- a = b, false when either is a NaN; the zeros are equal. -/
def Fmt.eq (f : Fmt) (a b : Nat) : Bool :=
  !f.isNan a && !f.isNan b && !f.lt a b && !f.lt b a

end Sys2Proof.Machine
end

