-- ==== Sys2Proof/Machine/Lanes.lean ====
section
/-! DEFINITION. Serial lanes (03_lanes.md): lane states and alignment, PLL start, tests, markers, LANE_SET, LANE_STATUS and
LANE_TEST (R53–R84, R123, R368–R370), and SYSREF edges (R82, R430). -/
namespace Sys2Proof.Machine

/-! ### States -/

def Rx.code : Rx → Nat
  | .off => 0
  | .standby => 1
  | .acquire => 2
  | .locked => 3
  | .aligned => 4
  | .test => 5

def Octet.isIngest (o : Octet) : Bool := o.role == 1
def Octet.isFabric (o : Octet) : Bool := o.role == 2
def Octet.isEgress (o : Octet) : Bool := o.role == 3

/-- A lane state changes (R73 LAST_CHANGE). -/
def State.setRx (i : Nat) (st : Rx) (s : State) : State :=
  if (s.lane i).rx == st then s else s.updLane i fun l => { l with rx := st, lastChange := s.stamp }

/-- A lane holds block lock. -/
def Lane.hasLock (l : Lane) : Bool := l.rx == .locked || l.rx == .aligned

/-- The lanes of a link (R78). -/
def Link.lanes (k : Link) : List Nat := (List.range k.l).map (k.first + ·)

def State.linkOfLane (s : State) (i : Nat) : Option Link := s.links.find? fun k => k.lanes.contains i
def State.updLink (first : Nat) (f : Link → Link) (s : State) : State :=
  { s with links := s.links.map fun k => if k.first == first then f k else k }

/-- Inputs are mapped to a link (R141). -/
def State.linkMapped (s : State) (first : Nat) : Bool :=
  s.fe.inputs.any fun i => match i.map with | some m => m.link == first | none => false

/-- Lanes that are aligned with their role fall back to LOCKED. -/
def State.lanesUnalign (l : List Nat) (s : State) : State :=
  l.foldl (fun s i => if (s.lane i).rx == .aligned then s.setRx i .locked else s) s

/-- R94: a packet in progress on a bound port that leaves ALIGNED is discarded. -/
def State.dropInProgress (p : Nat) (s : State) : State :=
  let q := s.port p
  if !q.entry.bound || !q.aligned then s
  else
    let lost (x : Option RxPacket) (s : State) : State := match x with | some x => s.portDiscard p (some x.type) | none => s
    (lost q.rx.bulk (lost q.rx.urgent s)).updPort p fun q => { q with rx := {} }

/-- R75, R76, R116: a fabric port leaves ALIGNED; its markers must follow one another anew. -/
def State.portUnalign (p : Nat) (s : State) : State :=
  let s := s.dropInProgress p
  let s := s.updPort p fun q => { q with aligned := false, markers := q.markers.map fun m => (m.1, { m.2 with good := 0 }) }
  (s.lanesUnalign (s.portLanes p)).portEval p

/-- R84: a link leaves ALIGNED and its converters are zeroed until it realigns. -/
def State.linkLost (first : Nat) (s : State) : State :=
  match s.links.find? fun k => k.first == first with
  | none => s
  | some k => (s.updLink first fun k => { k with aligned := false }).lanesUnalign k.lanes

/-- A lane that holds lock no more has no last marker (R76). -/
def State.dropMarker (lane : Nat) (s : State) : State :=
  s.updPort (lane / 8) fun q => { q with markers := q.markers.filter fun m => m.1 != lane }

/-- The role above a lane loses it. -/
def State.roleLost (i : Nat) (s : State) : State :=
  let o := s.octet (i / 8)
  if o.isFabric then s.portUnalign (i / 8)
  else if o.isIngest then match s.linkOfLane i with | some k => s.linkLost k.first | none => s
  else s

/-! ### PLLs and lock -/

/-- R56: the group before has locked, or its 25 µs have passed; a PLL that timed out has not locked. -/
def State.groupOver (s : State) (locked : Bool) : Bool :=
  s.octets.all fun x =>
    match x.pll with
    | .starting => locked || x.pllStart + 25000 * tickNs ≤ s.now
    | .failed => x.pllStart + 25000 * tickNs ≤ s.now
    | _ => true

/-- R56: the octets of the group before lock, and the next group of at most 4 waiting octets starts. -/
def execPllGroupStart (locked : Bool) (s : State) : Host.Outcome State Fault Refusal :=
  settleFlags s (
    if !s.groupOver locked then s
    else
      let group := ((List.range 64).filter fun o => (s.octet o).pll == .waiting).take 4
      let done (o : Octet) : Octet := if o.pll == .starting then { o with pll := .locked } else o
      let s := { s with octets := s.octets.map done }
      group.foldl (fun s o => s.updOctet o fun x => { x with pll := .starting, pllStart := s.now, phase := 0 }) s)

/-- R54: the PLL has not locked 20 µs after its start. -/
def execPllLockTimeout (octet : Nat) (s : State) : Host.Outcome State Fault Refusal :=
  settleFlags s (
    if (s.octet octet).pll == .starting && (s.octet octet).pllStart + 20000 * tickNs ≤ s.now then
      let s := s.updOctet octet fun x => { x with pll := .failed }
      ((List.range 8).foldl (fun s i => s.updLane (8 * octet + i) fun l => { l with pllUnlock := true }) s).raise evLane
    else s)

/-- R54: the octet's PLL lets its lanes leave ACQUIRE: it has locked, or locks by now. -/
def State.pllRuns (s : State) (o : Nat) : Bool := (s.octet o).pll == .starting || (s.octet o).pll == .locked

/-- A lane that locks shows that its octet's PLL has locked. -/
def State.pllLocked (o : Nat) (s : State) : State :=
  s.updOctet o fun x => if x.pll == .starting then { x with pll := .locked } else x

/-- The state of a lane that holds block lock (R527); a fabric lane aligns with its port's markers. -/
def State.lockedState (s : State) (i : Nat) : Rx :=
  let o := s.octet (i / 8)
  if o.isEgress && (s.lane i).faultClear then .aligned
  else if o.isIngest then match s.linkOfLane i with | some k => if k.aligned then .aligned else .locked | none => .locked
  else .locked

/-- R63: the search of ACQUIRE from bit `pos` of a stream on, with `run` valid headers at this position so far: the bit at
which the first of 64 consecutive valid headers stands. The first argument bounds the headers tested. -/
def findLock (stream : Nat) : Nat → Nat → Nat → Option Nat
  | 0, _, _ => none
  | n + 1, pos, run =>
    let h := bits stream (pos + 1) pos
    if h = 1 || h = 2 then (if run = 63 then some (pos - 63 * 66) else findLock stream n (pos + 66) (run + 1))
    else findLock stream n (pos + 1) 0

/-- The headers that a search of all 66 positions tests at most (R64). -/
def searchBlocks : Nat := 4224

/-- R63: the receiver searches the bits it recovers; with block lock it discards the first block, which fills the descrambler. -/
def execBlockLock (lane stream : Nat) (s : State) : Host.Outcome State Fault Refusal :=
  settleFlags s (
    if (s.lane lane).rx == .acquire && (s.lane lane).rxPower == 0 && !(s.lane lane).rxResume && s.pllRuns (lane / 8) then
      let s := s.updLane lane fun l => { l with cdr := true }
      match findLock stream searchBlocks 0 0 with
      | none => s
      | some pos =>
        let s := (s.pllLocked (lane / 8)).updLane lane fun l => { l with
          position := pos % 66, slip := none, descrambler := BitVec.ofNat 58 (stream >>> (pos + 64 * 66 + 8)) }
        s.setRx lane (s.lockedState lane)
    else s)

/-- R63, R73: the invalid headers of a window of 64 blocks count; 16 of them lose the lock. -/
def execLockLoss (lane invalid : Nat) (s : State) : Host.Outcome State Fault Refusal :=
  settleFlags s (
    if (s.lane lane).hasLock && invalid ≤ 64 then
      let s := s.updLane lane fun l => { l with invalidSh := satAdd 32 l.invalidSh invalid }
      if invalid < 16 then s
      else
        let s := s.updLane lane fun l => { l with lockLoss := satAdd 16 l.lockLoss 1, cdr := false }
        ((s.dropMarker lane).setRx lane .acquire).roleLost lane
    else s)

/-- R62: the elastic buffer re-centres and discards or repeats a block. R80, R84: an INGEST lane slips; that it counts in
ELASTIC_SLIP too is the model's choice (notes/assumptions/136.md). -/
def execElasticSlip (lane : Nat) (again : Bool) (s : State) : Host.Outcome State Fault Refusal :=
  settleFlags s (
    if (s.lane lane).hasLock then
      let s := s.updLane lane fun l => { l with slips := satAdd 16 l.slips 1, slip := some again }
      if (s.octet (lane / 8)).isIngest then s.roleLost lane else s
    else s)

/-- R75, R116: two consecutive good markers on all w lanes align the port while every lane is ON. -/
def State.tryAlign (p : Nat) (s : State) : State :=
  let q := s.port p
  let ready := (s.portLanes p).all fun i =>
    match q.markerOn i with
    | some m => 2 ≤ m.good && m.mismatch == 0 && (s.lane i).hasLock
    | none => false
  let counts := (q.markers.map fun m => m.2.mcount)
  let s := if ready && s.portAwake p && counts.all (· == counts.headD 0) && !q.aligned then
      (s.portLanes p).foldl (fun s i => s.setRx i .aligned) (s.updPort p fun q => { q with aligned := true })
    else s
  s.portEval p

/-- R67, R68: a direction completes its resume to ON. -/
def execLanePowerResume (lane : Nat) (tx held : Bool) (s : State) : Host.Outcome State Fault Refusal :=
  settleFlags s (
    if tx then
      let s := s.updLane lane fun l => { l with txResume := false }
      if (s.octet (lane / 8)).isFabric then s.tryAlign (lane / 8) else s
    else if !(s.lane lane).rxResume then s
    else
      let l := s.lane lane
      let s := s.updLane lane fun l => { l with rxResume := false }
      if l.rx == .standby then
        if held && l.held && s.pllRuns (lane / 8) then (s.updLane lane fun l => { l with cdr := true }).setRx lane (s.lockedState lane)
        else s.setRx lane .acquire
      else s)

/-! ### Markers (R74–R76) -/

/-- The fields of a marker (Table — Alignment marker). -/
def markerOfPayload (v : Nat) : MarkerSeen :=
  { index := bits v 10 8, widthCode := bits v 13 12, port := bits v 23 16, peer := bits v 28 24
    plane := BitVec.ofNat 16 (bits v 47 32), mcount := bits v 55 48, good := 1, mismatch := 0 }

/-- Two lanes of a port disagree under R75: equal indices; a count that differs by more than the marker now arriving; or
other values under one count. A lane whose markers are missing is judged by its own mismatches. -/
def MarkerSeen.clash (m o : MarkerSeen) : Bool :=
  m.index == o.index ||
  (o.mismatch == 0 &&
    if o.mcount == m.mcount then o.port != m.port || o.peer != m.peer || o.plane != m.plane
    else (o.mcount + 1) % 256 != m.mcount)

/-- R75: a marker shows what it must, given the others of the port. -/
def State.markerFits (s : State) (lane : Nat) (v : Nat) (skew : Nat) : Bool :=
  let p := lane / 8
  let m := markerOfPayload v
  v % 256 == 0x5C && skew ≤ 48 && m.widthCode == (s.octet p).width.toNat && m.index < s.portWidth p &&
    (s.port p).markers.all fun o => o.1 == lane || !m.clash o.2

def Port.setMarker (q : Port) (lane : Nat) (m : MarkerSeen) : Port :=
  { q with markers := (q.markers.filter fun e => e.1 != lane) ++ [(lane, m)] }

/-- R76: a mismatch; four in a row take the port out of ALIGNED. -/
def State.markerMismatch (lane : Nat) (m : MarkerSeen) (good : Nat) (s : State) : State :=
  let s := s.updLane lane fun l => { l with roleEvent := satAdd 32 l.roleEvent 1 }
  let n := m.mismatch + 1
  let s := s.updPort (lane / 8) fun q => q.setMarker lane { m with mismatch := n, good := good }
  if 4 ≤ n then s.portUnalign (lane / 8) else s

/-- R75, R76: an alignment marker arrives on a lane of a port. -/
def execMarkerReceive (lane : Nat) (payload : BitVec 64) (parity : BitVec 8) (skew : Nat) (s : State) :
    Host.Outcome State Fault Refusal :=
  settleFlags s (
    let p := lane / 8
    if (s.octet p).isFabric && (s.portLanes p).contains lane && (s.lane lane).hasLock then
      let s := if bits payload.toNat 63 56 = parity.toNat then s else s.updLane lane fun l => { l with roleErr := satAdd 32 l.roleErr 1 }
      let m := markerOfPayload payload.toNat
      let old := (s.port p).markerOn lane
      let run := (old.map (·.mismatch)).getD 0
      if !s.markerFits lane payload.toNat skew then s.markerMismatch lane { m with mismatch := run } 0
      else match old with
        | some o =>
          if m.mcount = (o.mcount + 1) % 256 then
            (s.updPort p fun q => q.setMarker lane { m with good := min 2 (o.good + 1) }).tryAlign p
          else s.markerMismatch lane { m with mismatch := run } 1
        | none => (s.updPort p fun q => q.setMarker lane m).tryAlign p
    else s)

/-- R76: a marker period with no marker. -/
def execMarkerPeriodTimeout (lane : Nat) (s : State) : Host.Outcome State Fault Refusal :=
  settleFlags s (
    let p := lane / 8
    if (s.octet p).isFabric && (s.portLanes p).contains lane && (s.lane lane).hasLock then
      match (s.port p).markerOn lane with
      | some m => s.markerMismatch lane m 0
      | none => s.updLane lane fun l => { l with roleEvent := satAdd 32 l.roleEvent 1 }
    else s)

/-! ### Egress receivers (R89, R527) -/

def execEgressFaultReceive (lane : Nat) (remote : Bool) (s : State) : Host.Outcome State Fault Refusal :=
  settleFlags s (
    if (s.octet (lane / 8)).isEgress && (s.lane lane).hasLock then
      let s := s.updLane lane fun l =>
        if remote then { l with remoteFault := true, faultClear := false } else { l with localFault := true, faultClear := false }
      s.setRx lane .locked
    else s)

/-- R527: 128 blocks without a fault sequence. -/
def execEgressFaultClear (lane : Nat) (s : State) : Host.Outcome State Fault Refusal :=
  settleFlags s (
    if (s.octet (lane / 8)).isEgress && !(s.lane lane).faultClear then
      let s := s.updLane lane fun l => { l with faultClear := true, localFault := false, remoteFault := false }
      if (s.lane lane).rx == .locked then s.setRx lane .aligned else s
    else s)

/-- The egress port of a lane; its reset values until an EGRESS_SET (R85). -/
def State.egressOf (s : State) (lane : Nat) : Egress := ((s.egress.find? fun e => e.1 == lane).map (·.2)).getD {}
def State.updEgress (lane : Nat) (f : Egress → Egress) (s : State) : State :=
  { s with egress := (s.egress.filter fun e => e.1 != lane) ++ [(lane, f (s.egressOf lane))] }

/-- The frame check sequence in the last 4 bytes covers the rest (R86). -/
def fcsOk (b : List Byte) : Bool := 4 ≤ b.length && u32 b (b.length - 4) == crc32 (b.take (b.length - 4))

/-- R89, R73: received frames are counted and discarded; a bad FCS counts in ROLE_ERR, as of a frame that a re-centring damaged
(R62). -/
def execEgressFrameReceive (lane : Nat) (frame : List Byte) (s : State) : Host.Outcome State Fault Refusal :=
  settleFlags s (
    if (s.octet (lane / 8)).isEgress && (s.lane lane).hasLock then
      let whole := (s.lane lane).slip.isNone
      let s := (s.updEgress lane fun e => { e with frames := e.frames + 1 }).updLane lane fun l => { l with slip := none }
      if fcsOk frame && whole then s else s.updLane lane fun l => { l with roleErr := satAdd 32 l.roleErr 1 }
    else s)

/-! ### Tests (R69–R72) -/

/-- R71: an injection strikes now: once, or 2^k block times after it last did. -/
def State.strikes (s : State) (lane : Nat) : Bool :=
  let x := (s.lane lane).test
  x.on && match bits x.inject.toNat 1 0 with
    | 1 => true
    | 2 => match x.struck with
      | some t => 100 * t + 2 ^ x.injK * blockTime (s.octet (lane / 8)).rate.toNat * tickNs ≤ 100 * s.now
      | none => true
    | _ => false

/-- The lane's receiver takes what its transmitter sends (R69). -/
def Lane.loops (l : Lane) : Bool := l.test.on && (l.test.loop == 1 || l.test.loop == 2)

/-- R71: one inversion in the next block sent; an injection of one bit is then over. A looped receiver counts an inverted sync
header (R63), and a locked checker an inverted PRBS bit. -/
def execInjectStrike (lane : Nat) (s : State) : Host.Outcome State Fault Refusal :=
  settleFlags s (
    if s.strikes lane then
      let now := s.now
      s.updLane lane fun l =>
        let kind := bits l.test.inject.toNat 3 2
        { l with
          invalidSh := if l.loops && kind = 2 then satAdd 32 l.invalidSh 1 else l.invalidSh
          test := { l.test with
            strike := true, struck := some now
            inject := if bits l.test.inject.toNat 1 0 = 1 then l.test.inject &&& 0xC else l.test.inject
            errors := if l.loops && kind = 0 && l.test.chkLocked then satAdd 32 l.test.errors 1 else l.test.errors } }
    else s)

/-- A PRBS checker is set on a lane under test. -/
def Lane.checking (l : Lane) : Bool := l.test.on && l.test.chk != 0 && l.rxPower == 0

/-- R70: the checker seeds itself from the stream and locks after 128 correct bits. -/
def execPrbsCheckerLock (lane stream : Nat) (s : State) : Host.Outcome State Fault Refusal :=
  settleFlags s (
    if (s.lane lane).checking && prbsLocks (s.lane lane).test.chk.toNat (s.lane lane).test.invert stream then s.updLane lane fun l => { l with test := { l.test with chkLocked := true } } else s)

/-- R70: what was counted while the checker was locked, saturating; after a READ_CLEAR meanwhile only part of it counts. -/
def execPrbsCheckerLoss (lane bits errors : Nat) (s : State) : Host.Outcome State Fault Refusal :=
  settleFlags s (
    if (s.lane lane).checking && (s.lane lane).test.chkLocked && 64 ≤ errors then
      let (e, s) := if (s.lane lane).test.cleared then s.takeFree 32 else (errors, s)
      let (n, s) := if (s.lane lane).test.cleared then s.takeFree 64 else (bits, s)
      s.updLane lane fun l => { l with test := { l.test with
        chkLocked := false, cleared := false, errors := satAdd 32 l.test.errors e, bits := satAdd 64 l.test.bits n } }
    else s)

/-- R72, R370: the final reply of an EYE_SCAN; the openings are counts of steps, up to 32 across and 31 up and down. -/
def execEyeScanComplete (lane : Nat) (left right up down : Byte) (s : State) : Host.Outcome State Fault Refusal :=
  settleFlags s (
    if (s.lane lane).test.eye && left.toNat ≤ 32 && right.toNat ≤ 32 && up.toNat ≤ 31 && down.toNat ≤ 31 then
      let s := s.updLane lane fun l => { l with test := { l.test with eye := false } }
      s.finish (fun d => d.wait == .eyeScan lane) { r0 := leNat 4 [left, right, up, down] }
    else s)

/-! ### SYSREF (R82, R430) -/

/-- Hundredths of a tick in a block of a link's lanes. -/
def State.linkBlock (s : State) (k : Link) : Nat := blockTime (s.octet (k.first / 8)).rate.toNat * tickNs

/-- Hundredths of a tick in an extended multiblock of a link: 32 E blocks (R77). -/
def State.lemcPeriod (s : State) (k : Link) : Nat := max 1 (32 * k.e * s.linkBlock k)

/-- R82: an edge more than one TK cycle from an LEMC boundary. -/
def State.sysrefMisaligned (s : State) (k : Link) (t : Nat) : Bool :=
  match k.lemc with
  | none => false
  | some t0 =>
    let p := s.lemcPeriod k
    let r := (100 * t + p - 100 * t0 % p) % p
    200 * tickNs < r && r + 200 * tickNs < p

/-- R430: an edge stamped with the voted time aligns links that wait for it and is checked against the others. It counts once
for each link from whose boundaries it falls (notes/assumptions/137.md). -/
def execSysrefEdge (s : State) : Host.Outcome State Fault Refusal :=
  settleFlags s (
    if !s.powered then s
    else
      let t := s.now
      let bad := s.links.countP fun k => k.subclass1 && s.sysrefMisaligned k t
      let s := s.updTk fun k => { k with
        sysrefEdges := satAdd 32 k.sysrefEdges 1, sysrefMisalign := satAdd 32 k.sysrefMisalign bad }
      let s := { s with links := s.links.map fun (k : Link) => if k.subclass1 && k.lemc.isNone then { k with lemc := some t } else k }
      if bad = 0 then s else s.raise evSysref)

/-! ### LANE_SET (R53, R56–R60, R77–R79, R368) -/

/-- Handles bound to an egress lane (R87, R372). -/
def State.boundTo (s : State) (lane : Nat) : List Handle :=
  s.handlesOf fun e => match e.obj with
    | .xprod x => x.egress == lane
    | .beam b => b.egress == lane
    | .capture c => match c.reading with | some r => bit r.flags.toNat 0 && r.port == lane | none => false
    | _ => false

/-- The octet carries something that bars a change of role, rate or width (R59). A lane that only has an EYE_SCAN running is no
lane under test here (notes/assumptions/133.md). -/
def State.octetBusy (s : State) (o : Nat) : Bool :=
  let x := s.octet o
  (x.isFabric && (s.port o).entry.bound)
    || (x.isEgress && (List.range 8).any fun i => !(s.boundTo (8 * o + i)).isEmpty)
    || (s.links.any fun k => k.first / 8 == o && s.linkMapped k.first)
    || (List.range 8).any fun i => (s.lane (8 * o + i)).test.on

/-- The lane is in a bound port or in an ingest link with mapped inputs (R59, R69). -/
def State.laneBound (s : State) (i : Nat) : Bool :=
  let x := s.octet (i / 8)
  (x.isFabric && (s.port (i / 8)).entry.bound && (s.portLanes (i / 8)).contains i)
    || (x.isEgress && !(s.boundTo i).isEmpty)
    || (match s.linkOfLane i with | some k => s.linkMapped k.first | none => false)

/-- Payload rate of a RATE code, kbit/s (R53). -/
def ratePayload (code : Nat) : Nat := match code with | 0 => 10000000 | 1 => 12500000 | _ => 25000000

/-- A link record's fields. -/
def linkOf (b : List Byte) (o : Nat) : Link :=
  { first := u16 b (o + 2), l := u8 b (o + 8), m := u8 b (o + 9), nprime := u8 b (o + 10), s := u8 b (o + 11)
    e := u8 b (o + 12), subclass1 := bit (u8 b (o + 13)) 0, rbd := u8 b (o + 14), linkDelay := u32 b (o + 16)
    fsKhz := u32 b (o + 20) }

/-- R77, R78: parameters within the subset, whole frames in an extended multiblock, and lanes within the octet. -/
def Link.fits (k : Link) : Bool :=
  [1, 2, 4, 8].contains k.l && 1 ≤ k.m && k.m ≤ 8 && [8, 12, 16].contains k.nprime && 1 ≤ k.s && 1 ≤ k.e && k.e ≤ 16
    && k.rbd ≤ 127 && 1 ≤ k.fsKhz && k.first % 8 % max k.l 1 == 0 &&
    (let frame := k.m * k.s * k.nprime
     frame % (8 * k.l) == 0 && k.e * 256 % max 1 (frame / (8 * k.l)) == 0)

/-- R79. -/
def Link.rateOk (k : Link) (rate : Nat) : Bool := k.m * k.nprime * k.fsKhz ≤ k.l * ratePayload rate

/-- Settings under construction, with the links written so far; bad when some record is out of range. -/
structure LaneCfg where
  octets : List Octet
  words : List (BitVec 32)
  links : List Link
  written : List Nat
  bad : Bool

/-- A value of an octet settings word that is out of range (R53, R57, R59). -/
def octetBad (w : Nat) : Bool :=
  bits w 31 8 != 0 || bits w 5 4 != 0 || bits w 3 2 == 3 || (bits w 7 6 != 0 && bits w 1 0 != 2)
    || (bits w 1 0 == 3 && bits w 3 2 == 1)

/-- A value of a lane settings word that is out of range (R58, R59). -/
def laneBad (w : Nat) : Bool :=
  bits w 31 17 != 0 || bits w 14 13 == 3 || bits w 12 11 == 3 || bits w 3 0 + bits w 8 4 > 31

/-- An octet record; LANEMAP allows no role and no rate on an absent octet (R44, R53, R59). -/
def LaneCfg.octet (c : LaneCfg) (s : State) (b : List Byte) (o : Nat) : LaneCfg :=
  let i := u16 b (o + 2)
  let w := u32 b (o + 4)
  if i ≥ 64 || octetBad w || (i < 64 && !s.present 7 i) || !zeroAt b (o + 8) 16 then { c with bad := true }
  else
    let old := c.octets.getD i {}
    let new := { old with role := BitVec.ofNat 2 w, rate := BitVec.ofNat 2 (w / 4), width := BitVec.ofNat 2 (w / 64) }
    { c with octets := c.octets.set i new }

/-- A lane record. -/
def LaneCfg.lane (c : LaneCfg) (b : List Byte) (o : Nat) : LaneCfg :=
  let i := u16 b (o + 2)
  let w := u32 b (o + 4)
  if i ≥ 512 || laneBad w || !zeroAt b (o + 8) 16 then { c with bad := true }
  else { c with words := c.words.set i (BitVec.ofNat 32 w) }

/-- A link record: a rewrite, or a removal. -/
def LaneCfg.link (c : LaneCfg) (b : List Byte) (o : Nat) : LaneCfg :=
  let k := linkOf b o
  let flags := u8 b (o + 13)
  let others := c.links.filter fun x => x.first != k.first
  if k.first ≥ 512 || u32 b (o + 4) != 0 || !zeroAt b (o + 15) 1 || bits flags 6 1 != 0 then { c with bad := true }
  else if bit flags 7 then { c with links := others, written := c.written.filter fun f => f != k.first }
  else if !k.fits then { c with bad := true }
  else { c with links := others ++ [k], written := (c.written.filter fun f => f != k.first) ++ [k.first] }

/-- The role that the settings give the octet of a link. -/
def LaneCfg.roleOf (c : LaneCfg) (k : Link) : Nat := (c.octets.getD (k.first / 8) {}).role.toNat

/-- All records in order; the links of an octet that leaves INGEST go with it (R59). -/
def State.laneCfg (s : State) (b : List Byte) (n : Nat) : LaneCfg :=
  let start : LaneCfg := { octets := s.octets, words := s.lanes.map (·.word), links := s.links, written := [], bad := false }
  let c := (List.range n).foldl (fun (c : LaneCfg) i =>
    let o := 20 + 24 * i
    let c := if u8 b (o + 1) = 0 then c else { c with bad := true }
    match u8 b o with
    | 1 => c.octet s b o
    | 2 => c.lane b o
    | 3 => c.link b o
    | _ => { c with bad := true }) start
  { c with links := c.links.filter fun k => c.roleOf k == 1 || c.written.contains k.first }

/-- Lanes that a role leaves unused (R59). -/
def Octet.uses (o : Octet) (j : Nat) : Bool :=
  match o.role.toNat with
  | 0 => false
  | 2 => j < widthOf o.width.toNat
  | _ => true

/-- R59, R78, R79 over the settings as they would stand. -/
def LaneCfg.unfit (c : LaneCfg) : Bool :=
  c.bad
    || (List.range 512).any (fun i =>
      let w := (c.words.getD i 0).toNat
      !(c.octets.getD (i / 8) {}).uses (i % 8) && (bits w 12 11 != 2 || bits w 14 13 != 2))
    || c.links.any (fun k => c.roleOf k != 1 || !k.rateOk (c.octets.getD (k.first / 8) {}).rate.toNat)
    || c.links.any fun k => c.links.any fun x => x.first != k.first && x.lanes.any fun i => k.lanes.contains i

/-- The parameters a link keeps while it has mapped inputs (R59). -/
def Link.sameForm (a b : Link) : Bool :=
  a.l == b.l && a.m == b.m && a.nprime == b.nprime && a.s == b.s && a.e == b.e && a.subclass1 == b.subclass1 && a.fsKhz == b.fsKhz

/-- A condition of Table — Setting changes fails (R59). -/
def LaneCfg.busy (c : LaneCfg) (s : State) : Bool :=
  (List.range 64).any (fun o =>
    let old := s.octet o
    let new := c.octets.getD o {}
    (old.role != new.role || old.rate != new.rate || old.width != new.width) && s.octetBusy o)
    || (List.range 512).any (fun i =>
      bits (c.words.getD i 0).toNat 16 15 != bits (s.lane i).word.toNat 16 15 && (s.laneBound i || (s.lane i).test.on))
    || s.links.any fun k => s.linkMapped k.first && !c.links.any fun x => x.first == k.first && x.sameForm k

/-- A lane takes a new settings word (R67, R68). -/
def Lane.powerTo (l : Lane) (w : BitVec 32) (stamp : BitVec 64) : Lane :=
  let tx := bits w.toNat 12 11
  let rx := bits w.toNat 14 13
  let n := { l with
    word := w, txResume := (tx == 0) && (l.txResume || l.txPower != 0), line := if tx == 0 then l.line else [] }
  if rx == l.rxPower then n
  else
    let st : Rx := if n.test.on then .test
      else match rx with
        | 0 => if l.rx == .standby then .standby else .acquire
        | 1 => .standby
        | _ => .off
    { n with
      rx := st, rxResume := rx == 0, held := rx != 2 && (l.hasLock || (l.held && l.rx == .standby))
      cdr := l.cdr && rx == 0, lastChange := if st == l.rx then l.lastChange else stamp }

/-- A test on a lane ends (R69): it re-enters ACQUIRE while its receiver is ON. -/
def Lane.endTest (l : Lane) (stamp : BitVec 64) : Lane :=
  if l.test.on then
    { l with
      test := { eye := l.test.eye }, cdr := false, held := false
      rx := match l.rxPower with | 0 => .acquire | 1 => .standby | _ => .off
      lastChange := stamp }
  else l

/-- An octet changes role, rate or width: tests end, its PLL starts or stops, and its lanes lose what the old role gave
them; a new rate needs a new lock of the PLL, staged under R56, and of the lanes (notes/assumptions/45.md). -/
def State.octetTo (i : Nat) (new : Octet) (s : State) : State :=
  let old := s.octet i
  if old.role == new.role && old.rate == new.rate && old.width == new.width then s
  else
    let pll : Pll := if new.role == 0 then .off else if old.role == 0 || old.rate != new.rate then .waiting else old.pll
    let s := s.updOctet i fun _ => { new with pll := pll, pllStart := old.pllStart, phase := old.phase }
    let t := s.stamp
    let fix (l : Lane) : Lane :=
      let l := if old.role == new.role && old.rate == new.rate then l else l.endTest t
      let l := if new.role == 0 || old.rate != new.rate then { l with pllUnlock := false } else l
      let l := { l with localFault := false, remoteFault := false, faultClear := true, line := [] }
      if !l.hasLock then l
      else if old.rate != new.rate then { l with rx := .acquire, cdr := false, lastChange := t }
      else if new.role == 3 then { l with rx := .aligned, lastChange := if l.rx == .aligned then l.lastChange else t }
      else { l with rx := .locked, lastChange := if l.rx == .locked then l.lastChange else t }
    let s := (List.range 8).foldl (fun s j => s.updLane (8 * i + j) fix) s
    s.updPort i fun q => { q with aligned := false, markers := [], rx := {}, tx := {} }

/-- The settings take effect together (R60). -/
def State.laneApply (c : LaneCfg) (s : State) : State :=
  let s := (List.range 64).foldl (fun s i => s.octetTo i (c.octets.getD i {})) s
  let s := { s with links := c.links }
  let t := s.stamp
  let asleep (w : Nat) : Bool := bits w 12 11 != 0 || bits w 14 13 != 0
  let s := (List.range 512).foldl (fun (s : State) i =>
    let w := c.words.getD i 0
    let l := s.lane i
    if w == l.word then s
    else
      let s := s.updLane i fun l => l.powerTo w t
      let s := if (s.lane i).rxPower == 0 then s else s.dropMarker i
      if (s.octet (i / 8)).isFabric && asleep w.toNat && !asleep l.word.toNat then s.portUnalign (i / 8)
      else if (s.octet (i / 8)).isIngest && l.hasLock && !(s.lane i).hasLock then s.roleLost i
      else s) s
  let s := c.written.foldl (fun s f => s.linkLost f) s
  (List.range 64).foldl (fun s p => s.portEval p) s

/-- The units that the records name. -/
def laneUnits (b : List Byte) (n : Nat) : List Nat :=
  (List.range n).map fun i =>
    let o := 20 + 24 * i
    if u8 b o = 1 then u16 b (o + 2) else u16 b (o + 2) / 8

/-- All the settings of a packet take effect. -/
def State.laneCommit (b : List Byte) (s : State) : State := s.laneApply (s.laneCfg b (u16 b 16))

def laneSetBody (p : Pkt) (s : State) : Body :=
  let n := u16 p.b 16
  let c := s.laneCfg p.b n
  let units := laneUnits p.b n
  { words := 5 + 6 * n
    checks := [
      p.noTarget, p.reserved [(18, 2)], failIf (n == 0 || n > 680) stParam, failIf c.unfit stParam,
      firstFailure (units.map fun o => unitAbsent s 7 o), firstFailure (units.map fun o => unitFault s 7 o),
      failIf (c.busy s) stState]
    effect := fun t =>
      if t.now < p.commitAt then ({ t with laneHeld := t.laneHeld ++ [(p.commitAt, p.b)] }, { r0 := n }, .done)
      else (t.laneCommit p.b, { r0 := n }, .done) }

/-- Settings of scheduled commands whose time has come take effect in order of commit (R434, R435). -/
def State.heldSettings (s : State) : State :=
  let due := s.laneHeld.filter fun (e : Nat × List Byte) => e.1 ≤ s.now
  if due.isEmpty then s
  else due.foldl (fun (u : State) e => u.laneCommit e.2)
    { s with laneHeld := s.laneHeld.filter fun (e : Nat × List Byte) => s.now < e.1 }

def execLaneSet (src : Source) (s : State) : Host.Outcome State Fault Refusal :=
  settleFlags s (runOp 0x10 laneSetBody src true .failed s)

/-! ### LANE_STATUS (R73, R123, R369) -/

/-- The lane status record. -/
def State.laneRecord (s : State) (i : Nat) : List Byte :=
  let l := s.lane i
  le 2 i ++ le 1 l.rx.code
    ++ le 1 (flagBit l.pllUnlock 0 + flagBit l.cdr 1 + flagBit l.test.chkLocked 2 + flagBit l.localFault 3 + flagBit l.remoteFault 4)
    ++ le 4 l.invalidSh ++ le 2 l.lockLoss ++ le 2 l.slips ++ le 4 l.roleErr ++ le 4 l.roleEvent ++ le 4 0 ++ le 8 l.lastChange.toNat

/-- The port record. FLAGS[3] of a port that has heard no HELLO since it was bound reads 1, its partner not being known to hold
lock; what the last HELLO said stands while the port is not UP (notes/assumptions/140.md). -/
def State.portRecord (s : State) (p : Nat) : List Byte :=
  let q := s.port p
  let c := q.cnt
  let own := ((s.plane.map.map (·.gen)).getD 0, (s.plane.pending.map (·.1.gen)).getD 0)
  le 1 p ++ le 1 q.state.code ++ le 1 q.entry.peer
    ++ le 1 (flagBit (q.heard && (q.mapGen != own.1 || q.pendingGen != own.2)) 0 + flagBit q.stalled 1
      + flagBit (q.heard && bit q.helloFlags.toNat 3) 2 + flagBit (!q.heard || !bit q.helloFlags.toNat 2) 3)
    ++ le 4 c.rxData ++ le 4 c.dropCrc ++ le 4 c.dropForm ++ le 4 c.dropLate ++ le 4 c.dropEarly ++ le 4 c.dropNotOwner
    ++ le 4 c.dropDup ++ le 4 c.seqGap ++ le 4 c.txData ++ le 4 c.txDrop ++ le 4 c.ctrlDrop ++ le 2 c.authFail ++ le 2 c.replay
    ++ le 2 c.creditStall ++ le 2 c.quarantine ++ le 8 q.lastChange.toNat

/-- Settings of a lane: its word, then its octet's (R369). -/
def State.laneSettings (s : State) (i : Nat) : List Byte :=
  let o := s.octet (i / 8)
  le 4 (s.lane i).word.toNat ++ le 4 (o.role.toNat + 4 * o.rate.toNat + 64 * o.width.toNat)

/-- R73: a lane's counters at zero. -/
def Lane.clearCounters (l : Lane) : Lane := { l with invalidSh := 0, lockLoss := 0, slips := 0, roleErr := 0, roleEvent := 0 }

def laneStatusBody (p : Pkt) (s : State) : Body :=
  let first := u16 p.b 16
  let count := u16 p.b 18
  let f := u8 p.b 20
  let port := bit f 1
  let settings := bit f 2
  let all := (List.range count).map (first + ·)
  { words := 10
    checks := [
      p.noTarget, p.reserved [(21, 3), (36, 4)],
      failIf (f > 7 || (port && settings) || (bit f 0 && settings)) stParam,
      failIf (count == 0 || first + count > if port then 64 else 512) stParam, p.destBad 24 32,
      firstFailure (all.map fun i => unitAbsent s 7 (if port then i else i / 8)),
      firstFailure (all.map fun i => unitFault s 7 (if port then i else i / 8))]
    effect := fun t =>
      let data := all.flatMap fun i => if port then t.portRecord i else if settings then t.laneSettings i else t.laneRecord i
      let size := if port then 64 else if settings then 8 else 32
      let clear (u : State) : State :=
        if !bit f 0 then u
        else all.foldl (fun u i => if port then u.updPort i fun q => { q with cnt := {} } else u.updLane i Lane.clearCounters) u
      let (t, r, a) := p.bulk 24 32 data 0 clear t
      if r.status = stOk then (t, { r with r0 := r.r1 / size }, a) else (t, r, a) }

def execLaneStatus (src : Source) (wr : Bool) (s : State) : Host.Outcome State Fault Refusal :=
  settleFlags s (runOp 0x11 laneStatusBody src wr .failed s)

/-! ### LANE_TEST (R69–R72, R370) -/

/-- Fields out of range, or combinations that R370 bars. -/
def laneTestBad (b : List Byte) : Bool :=
  let action := u8 b 20
  let inj := u8 b 23
  let eye := bit (u8 b 25) 0
  action > 3 || u8 b 21 > 3 || u8 b 22 ≥ 32 || inj ≥ 16 || bits inj 1 0 == 3 || bits inj 3 2 == 3 || u8 b 25 > 1
    || u16 b 18 == 0 || u16 b 16 + u16 b 18 > 512 || ((2 ≤ action || eye) && u16 b 18 != 1)
    || (bits inj 1 0 == 2 && (u8 b 24 < 10 || u8 b 24 > 30)) || (eye && (u8 b 26 < 20 || u8 b 26 > 36))
    || (bits inj 1 0 != 0 && bits inj 3 2 == 0 && bits (u8 b 22) 1 0 == 0)

/-- START puts a lane under test; a generator starts from bits that the rules do not give, not all zero
(notes/assumptions/134.md). -/
def Lane.startTest (l : Lane) (b : List Byte) (seed : Nat) (stamp : BitVec 64) : Lane :=
  { l with
    test := { on := true, loop := BitVec.ofNat 8 (u8 b 21), gen := BitVec.ofNat 2 (u8 b 22), chk := BitVec.ofNat 2 (u8 b 22 / 4),
              invert := bit (u8 b 22) 4, inject := BitVec.ofNat 4 (u8 b 23), injK := u8 b 24, eye := l.test.eye
              prbs := seed % (2 ^ (prbsTaps (u8 b 22 % 4)).1 - 1) + 1 }
    rx := .test, lastChange := if l.rx == .test then l.lastChange else stamp }

/-- ERRORS and BITS of a lane (R70); what a locked checker has counted since it locked is not known before it loses
lock (notes/assumptions/46.md). -/
def State.prbsCounts (i : Nat) (s : State) : (Nat × Nat) × State :=
  let x := (s.lane i).test
  if x.chkLocked then
    let (e, s) := s.takeFree 32
    let (n, s) := s.takeFree 64
    ((satAdd 32 x.errors e, satAdd 64 x.bits n), s)
  else ((x.errors, x.bits), s)

/-- With EYE set the packet is a scan and its other fields act on nothing (notes/assumptions/135.md). -/
def laneTestBody (p : Pkt) (s : State) : Body :=
  let first := u16 p.b 16
  let all := (List.range (u16 p.b 18)).map (first + ·)
  let action := u8 p.b 20
  let eye := bit (u8 p.b 25) 0
  { words := 7
    deferred := eye
    checks := [
      p.noTarget, p.reserved [(27, 1)], failIf (laneTestBad p.b) stParam,
      firstFailure (all.map fun i => unitAbsent s 7 (i / 8)), firstFailure (all.map fun i => unitFault s 7 (i / 8)),
      failIf (if eye then (s.lane first).rxPower != 0 || (s.lane first).rx == .standby || (s.lane first).test.eye
        else all.any s.laneBound) stState]
    effect := fun t =>
      let now := t.stamp
      if eye then (t.updLane first fun l => { l with test := { l.test with eye := true } }, {}, .wait (.eyeScan first))
      else match action with
        | 0 => (all.foldl (fun t i =>
            let (seed, t) := t.takeFree 31
            ((t.dropMarker i).updLane i fun l => l.startTest p.b seed now).roleLost i) t, {}, .done)
        | 1 => (all.foldl (fun t i => t.updLane i fun l => l.endTest now) t, {}, .done)
        | _ =>
          let ((e, n), t) := t.prbsCounts first
          let r : Res := { r0 := e, r1 := n % 2 ^ 32, r2 := n / 2 ^ 32 }
          (if action = 3 then t.updLane first fun l =>
              { l with test := { l.test with errors := 0, bits := 0, cleared := l.test.chkLocked } }
            else t, r, .done) }

def execLaneTest (src : Source) (s : State) : Host.Outcome State Fault Refusal :=
  settleFlags s (runOp 0x12 laneTestBody src true .failed s)

end Sys2Proof.Machine
end

