-- ==== Sys2Proof/Machine/Trig.lean ====
section
/-! DEFINITION. Sine and cosine, to 160 bits after the point: the tables of the F-engine (R152, R159, R160) and the binary64 functions
of R157. Where the manual leaves the last bit open, the value is one of the two neighbours of the exact one. -/
namespace Sys2Proof.Machine

/-- π in units of 2^-160. -/
def piFix : Nat := 0x3243f6a8885a308d313198a2e03707344a4093822

/-- A Taylor series in units of 2^-160: the term t with the power i of x, and `fuel` terms in all. -/
def taylor (x2 : Int) : Nat → Nat → Int → Int
  | 0, _, _ => 0
  | f + 1, i, t => t + taylor x2 f (i + 2) (-(t * x2) / (((i + 1) * (i + 2) : Nat) * 2 ^ 160))

/-- cos x and sin x of an angle from −π to π, all in units of 2^-160. -/
def cosFix (x : Int) : Int := taylor (x * x / 2 ^ 160) 34 0 (2 ^ 160)
def sinFix (x : Int) : Int := taylor (x * x / 2 ^ 160) 34 1 x

/-- The angle of phase k of 2^bits. -/
def phaseFix (bits k : Nat) : Int :=
  let n := 2 ^ bits
  let k := k % n
  ((2 * piFix : Nat) * (if 2 * k < n then (k : Int) else (k : Int) - n)) / n

/-- An 18-bit entry of amplitude 131,071: exact at the quarters, else one of the two integers beside the exact value
(notes/assumptions/22.md). -/
def tableEntry (sine : Bool) (bits k : Nat) : Int :=
  let n := 2 ^ bits
  let k := k % n
  if 4 * k % n = 0 then ([131071, 0, -131071, 0] : List Int).getD ((4 * k / n + if sine then 3 else 0) % 4) 0
  else 131071 * (if sine then sinFix (phaseFix bits k) else cosFix (phaseFix bits k)) / 2 ^ 160 + (if Config.tableUp sine bits k then 1 else 0)

/-- The cosine and sine tables of the NCO (20 bits of phase), the twiddle factors and the phasors (18 bits). -/
def cosTable (bits k : Nat) : Int := tableEntry false bits k
def sinTable (bits k : Nat) : Int := tableEntry true bits k

/-- The quotient of two finite numbers, the divisor not zero. -/
def Fmt.quot (f : Fmt) (a b : Nat) : Nat :=
  let x := f.exact a
  let y := f.exact b
  let n := x.1.natAbs * 2 ^ 128
  let d := max 1 y.1.natAbs
  let sticky := if n % d = 0 then 0 else 1
  f.signPat (decide (x.1 < 0) != decide (y.1 < 0)) + f.magnitude (2 * (n / d) + sticky) (x.2 - y.2 - 129)

/-- The binary64 sine or cosine of a small angle: a neighbour of the exact value, which is rarely exact. -/
def libm (sine : Bool) (a : Nat) : Nat :=
  let v := b64.exact a
  let x : Int := if 0 ≤ v.2 + 160 then v.1 * 2 ^ (v.2 + 160).toNat else v.1 / 2 ^ (-(v.2 + 160)).toNat
  let turns : Int := (x + piFix) / (2 * piFix : Nat)
  let r := x - turns * (2 * piFix : Nat)
  let y := if sine then sinFix r else cosFix r
  let c := b64.chop y.natAbs (-160)
  b64.signPat (y < 0) + c.1 + (if c.2.1 != 0 && Config.libmUp sine a then 1 else 0)

/-- π in binary64. -/
def piPat : Nat := 0x400921FB54442D18

/-- h[n] of R157 for a length l of P × 2^log2 coefficients, in the order of the rule's operations; those not written out are exact. -/
def prototypeTap (l log2 n : Nat) : Nat :=
  let x := b64.round (2 * (n : Int) + 1 - l) (-(log2 : Int) - 1) false
  let arg := b64.quot (b64.mul (b64.mul (b64.round 2 0 false) piPat) (b64.round (2 * n + 1) (-1) false)) (b64.round l 0 false)
  let w := b64.add (b64.round 1 (-1) false) (b64.neg (b64.mul (b64.round 1 (-1) false) (libm false arg)))
  let px := b64.mul piPat x
  b64.mul w (if (b64.exact x).1 = 0 then b64.round 1 0 false else b64.quot (libm true px) px)

end Sys2Proof.Machine
end

