-- ==== Sys2Proof/Machine/FeMath.lean ====
section
/-! DEFINITION. The F-engine's arithmetic (05_f_engine.md): the path word, frame placement, unpack, test noise, the NCO,
the decimating FIR, the filterbank, the transform, fine rotation and requantisation (R140–R163, R168). -/
namespace Sys2Proof.Machine

/-! ### Fractions -/

/-- A fraction with a positive denominator. -/
structure Frac where
  num : Int
  den : Nat
  deriving DecidableEq, Repr

def Frac.ofInt (n : Int) : Frac := ⟨n, 1⟩
def Frac.add (a b : Frac) : Frac := ⟨a.num * b.den + b.num * a.den, a.den * b.den⟩
def Frac.sub (a b : Frac) : Frac := ⟨a.num * b.den - b.num * a.den, a.den * b.den⟩
def Frac.mul (a b : Frac) : Frac := ⟨a.num * b.num, a.den * b.den⟩
def Frac.abs (a : Frac) : Frac := ⟨a.num.natAbs, a.den⟩
def Frac.le (a b : Frac) : Bool := a.num * b.den ≤ b.num * a.den
def Frac.max (a b : Frac) : Frac := if a.le b then b else a

/-- A fraction rounded to nearest, ties to even (R140). -/
def rheFrac (f : Frac) : Int :=
  let d : Int := max f.den 1
  let q := f.num / d
  let r := f.num - q * d
  if 2 * r > d || (2 * r == d && q % 2 == 1) then q + 1 else q

/-- m × 2^e as a fraction. -/
def fracOf (x : Int × Int) : Frac :=
  if x.2 ≥ 0 then ⟨x.1 * 2 ^ x.2.toNat, 1⟩ else ⟨x.1, 2 ^ (-x.2).toNat⟩

/-- The value of a finite binary64 pattern. -/
def b64Frac (v : BitVec 64) : Frac := fracOf (b64.exact v.toNat)

/-! ### The input path word (R146) -/

def pFirSet (w : BitVec 64) : Nat := bits w.toNat 55 52
def pPfbSet (w : BitVec 64) : Nat := bits w.toNat 51 48
def pFftShift (w : BitVec 64) : Nat := bits w.toNat 47 34
def pTaps (w : BitVec 64) : Nat := bits w.toNat 33 29
def pLog2 (w : BitVec 64) : Nat := bits w.toNat 28 25
def pDec (w : BitVec 64) : Nat := bits w.toNat 23 21
def pPreset (w : BitVec 64) : Nat := bits w.toNat 20 18
def pWidth (w : BitVec 64) : Nat := bits w.toNat 17 16
def pGshift (w : BitVec 64) : Nat := bits w.toNat 15 11
def pTest (w : BitVec 64) : Nat := bits w.toNat 10 9
def pDetLog2 (w : BitVec 64) : Nat := bits w.toNat 8 4
def pSegLog2 (w : BitVec 64) : Nat := bits w.toNat 3 0

/-- The reset word: FFT_SHIFT 0x01FF, 8 taps, 512 points, BALANCED, DET_LOG2 16, SEG_LOG2 8. -/
def pathReset : BitVec 64 :=
  BitVec.ofNat 64 (0x01FF * 2 ^ 34 + 8 * 2 ^ 29 + 9 * 2 ^ 25 + 2 ^ 18 + 16 * 2 ^ 4 + 8)

/-- Taps of a preset (Table — Decimating FIR presets). -/
def presetTaps (preset : Nat) : Nat := [64, 128, 256, 384].getD preset 0

/-! ### Geometry of an input (R153, R156) -/

def FeInput.iq (x : FeInput) : Bool := (x.map.map (·.iq)).getD false

/-- D × M (R143). -/
def FeInput.d (x : FeInput) : Nat := 2 ^ pDec x.path
def FeInput.m (x : FeInput) : Nat := 2 ^ pLog2 x.path
def FeInput.dm (x : FeInput) : Nat := x.d * x.m

/-- A REAL input with DEC 0 uses a real PFB (R146). -/
def FeInput.realPfb (x : FeInput) : Bool := !x.iq && pDec x.path == 0
def FeInput.nchan (x : FeInput) : Nat := if x.realPfb then x.m / 2 else x.m

/-- N_fir of R156: 0 without down-conversion. -/
def FeInput.nfir (x : FeInput) : Nat :=
  if pDec x.path = 0 then 0 else if pPreset x.path = 4 then x.fir.length else presetTaps (pPreset x.path)

def FeInput.pm (x : FeInput) : Nat := pTaps x.path * x.m

/-- S_in of R156. -/
def FeInput.support (x : FeInput) : Nat := x.nfir + x.d * x.pm

/-- Twice GD_total of R156, in input samples. -/
def FeInput.gd2 (x : FeInput) : Nat := (x.nfir - 1) + x.d * (x.pm - 1)

/-- Coefficient n of a preset's set in ROM: 18 bits, h[n] = h[N − 1 − n] (R153, R154). -/
def presetTap (preset d n : Nat) : Int := clampBits 18 (Config.firPreset preset d (min n (presetTaps preset - 1 - n)))

/-- Coefficient n of the FIR: ROM, or the mirrored CUSTOM set (R154, R155). -/
def FeInput.tap (x : FeInput) (n : Nat) : Int :=
  if pPreset x.path = 4 then x.fir.getD n 0 else presetTap (pPreset x.path) x.d n

/-- Prototype set 0 for P taps of 2^log2 points (R157): 131,071 at the largest h. -/
def defaultPrototype (taps m : Nat) : List Int :=
  let l := taps * m
  let h := (List.range l).map (prototypeTap l m.log2)
  let top := h.foldl (fun t v => max t (v % 2 ^ 63)) 0
  h.map fun v => rheFrac (fracOf (b64.exact (b64.quot (b64.mul (b64.round 131071 0 false) v) top)))

/-- Coefficient n of the prototype (R157). -/
def FeInput.coef (x : FeInput) (n : Nat) : Int := x.proto.getD n 0

/-! ### Time of a sample -/

/-- 1/125 ticks in a second (R83: LINK_DELAY is in ps). -/
def fineSec : Nat := 125 * tickSec

/-- Input samples that a span of 1/125 ticks holds at fs. -/
def fineSamples (t : Int) (fsKhz : Nat) : Frac := ⟨t * (fsKhz : Int) * 1000, fineSec⟩

/-- The time of the sample with index a, in samples since `epoch` (ticks), under an anchor. -/
def sampleTime (anchor : Nat × Int) (fsKhz : Nat) (epoch : Nat) (a : Int) : Frac :=
  (fineSamples (anchor.2 - 125 * (epoch : Int)) fsKhz).add (Frac.ofInt (a - anchor.1))

/-- R165: the index n of a time counted from the plane epoch. -/
def planeIndex (anchor : Nat × Int) (fsKhz : Nat) (a : Int) : Int := rheFrac (sampleTime anchor fsKhz 0 a)

/-- Where channel sample j of the grid wants the last input sample of its support (R156), as an index. -/
def FeInput.endExact (x : FeInput) (fsKhz epoch j : Nat) : Frac :=
  let grid : Frac := ⟨2 * (j * x.dm : Nat) + x.gd2, 2⟩
  (grid.sub (fineSamples (x.anchor.2 - 125 * (epoch : Int)) fsKhz)).add (Frac.ofInt x.anchor.1)

/-- The index of that sample: the nearest. -/
def FeInput.endOf (x : FeInput) (fsKhz epoch j : Nat) : Int := rheFrac (x.endExact fsKhz epoch j)

/-! ### Unpack and test source (R149, R168) -/

/-- A lane word as a 16-bit sample (R149). -/
def unpackWord (nprime n : Nat) (w : BitVec 16) : Int := sext n (w.toNat % 2 ^ nprime / 2 ^ (nprime - n)) * 2 ^ (16 - n)

/-- CLIP: the most positive or most negative code of N bits. -/
def clipped (nprime n : Nat) (w : BitVec 16) : Bool :=
  let v := w.toNat % 2 ^ nprime / 2 ^ (nprime - n)
  v == 2 ^ (n - 1) - 1 || v == 2 ^ (n - 1)

/-- One bit of the generator x^31 + x^28 + 1. -/
def prbsBit (st : BitVec 31) : Bool × BitVec 31 :=
  let b := st.getLsbD 30 != st.getLsbD 27
  (b, (st <<< 1) ||| (if b then 1 else 0))

/-- n bits, most significant first. -/
def prbsBits : Nat → Nat → BitVec 31 → Nat × BitVec 31
  | 0, v, st => (v, st)
  | n + 1, v, st =>
    let (b, st) := prbsBit st
    prbsBits n (2 * v + if b then 1 else 0) st

/-- One noise value: four 12-bit words (R168). -/
def noiseValue (st : BitVec 31) : Int × BitVec 31 :=
  let (a, st) := prbsBits 12 0 st
  let (b, st) := prbsBits 12 0 st
  let (c, st) := prbsBits 12 0 st
  let (d, st) := prbsBits 12 0 st
  (2 * ((a : Int) + b + c + d - 8192), st)

/-- The seed of R168. -/
def testSeed (seed : BitVec 32) (gid : Nat) : BitVec 31 :=
  let v := (seed ^^^ BitVec.ofNat 32 (gid * 256)).truncate 31
  if v == 0 then 1 else v

/-- A sample under TEST_SRC t, and the generator after it. -/
def Sample.tested (x : Sample) (t : Nat) (iq : Bool) (st : BitVec 31) : Sample × BitVec 31 :=
  match t with
  | 0 => ({ x with re := x.rawRe, im := x.rawIm, test := false }, st)
  | 1 =>
    let (a, st) := noiseValue st
    let (b, st) := if iq then noiseValue st else (0, st)
    ({ x with re := a, im := b, test := true }, st)
  | _ => ({ x with re := 0, im := 0, test := true }, st)

/-- Samples in turn under TEST_SRC t. -/
def testAll (t : Nat) (iq : Bool) : List Sample → BitVec 31 → List Sample × BitVec 31
  | [], st => ([], st)
  | x :: l, st =>
    let (y, st) := x.tested t iq st
    let (r, st) := testAll t iq l st
    (y :: r, st)

/-! ### Down-conversion (R152, R153) -/

/-- A complex value with the number of parts that were clamped on the way. -/
structure Cx where
  re : Int
  im : Int
  sat : Nat := 0
  deriving DecidableEq, Repr

/-- Both parts saturate to b bits, each saturation counted. -/
def satCx (b : Nat) (re im : Int) : Cx :=
  let r := clampBits b re
  let i := clampBits b im
  ⟨r, i, (if r = re then 0 else 1) + (if i = im then 0 else 1)⟩

/-- The mixer at phase θ (R152). -/
def mixSample (iq : Bool) (theta : Nat) (x : Sample) : Cx :=
  let ph := theta / 2 ^ 28 % 2 ^ 20
  let c := cosTable 20 ph
  let s := sinTable 20 ph
  if iq then satCx 18 (rhe (x.re * c + x.im * s) 15) (rhe (x.im * c - x.re * s) 15)
  else satCx 18 (rhe (x.re * c) 15) (rhe (-x.re * s) 15)

/-- θ of the sample with array-time index a (R152). -/
def FeInput.theta (x : FeInput) (fsKhz epoch : Nat) (a : Int) : Nat :=
  let n := rheFrac (sampleTime x.anchor fsKhz epoch a)
  (((x.phase0.toNat : Int) + x.freq.toNat * n) % 2 ^ 48).toNat

/-- Σ h[n] z[n], newest first in both, rounded by 17 bits to 18 (R153). -/
def firSum (tap : Nat → Int) (l : List Cx) : Cx :=
  let r := (l.zipIdx.map fun e => tap e.2 * e.1.re).sum
  let i := (l.zipIdx.map fun e => tap e.2 * e.1.im).sum
  satCx 18 (rhe r 17) (rhe i 17)

/-- Every d-th output of the FIR over the samples `l`, oldest first; the last output ends at the last sample. -/
def firOutputs (x : FeInput) (l : List Cx) (count : Nat) : List Cx :=
  let rev := l.reverse
  ((List.range count).map fun k => firSum x.tap ((rev.drop (k * x.d)).take x.nfir)).reverse

/-! ### Filterbank and transform (R158, R159) -/

/-- The front end over P × M values, oldest first: M branch outputs. -/
def pfbOutputs (x : FeInput) (l : List (Int × Int)) : List Cx :=
  let m := x.m
  let p := pTaps x.path
  (List.range m).map fun b =>
    let terms := (List.range p).map fun k => (x.coef (k * m + b), l.getD (b + (p - 1 - k) * m) (0, 0))
    let r := (terms.map fun e => e.1 * e.2.1).sum
    let i := (terms.map fun e => e.1 * e.2.2).sum
    satCx 20 (rhe r 17) (rhe i 17)

/-- z × W where W = e^(−j2πk/n), n = 2^bits, each product reduced by 17 bits to the 25 bits of an internal value. -/
def twiddle (bits k : Nat) (z : Cx) : Cx :=
  if k = 0 && !Config.fftUnitProduct then z
  else
    let c := cosTable bits k
    let s := sinTable bits k
    let r := satCx 25 (rhe (z.re * c + z.im * s) 17) (rhe (z.im * c - z.re * s) 17)
    { r with sat := r.sat + z.sat }

/-- Sum and difference, scaled where the stage divides by 2, saturated to 25 bits. -/
def stageOut (shift : Bool) (re im : Int) (sat : Nat) : Cx :=
  let k := if shift then 1 else 0
  let r := satCx 25 (rhe re k) (rhe im k)
  { r with sat := r.sat + sat }

/-- Elements at even and at odd positions. -/
def evens {α : Type} : List α → List α
  | [] => []
  | [a] => [a]
  | a :: _ :: t => a :: evens t

def odds {α : Type} (l : List α) : List α := evens (l.drop 1)

/-- Decimation in time: stage n − 1 is the last, over the whole length 2^n. -/
def fftTime (shift : Nat) : Nat → List Cx → List Cx
  | 0, l => l
  | n + 1, l =>
    let e := fftTime shift n (evens l)
    let o := (fftTime shift n (odds l)).zipIdx.map fun p => twiddle (n + 1) p.2 p.1
    let s := bit shift n

    let sum := (e.zip o).map fun p => stageOut s (p.1.re + p.2.re) (p.1.im + p.2.im) (p.1.sat + p.2.sat)
    let dif := (e.zip o).map fun p => stageOut s (p.1.re - p.2.re) (p.1.im - p.2.im) 0
    sum ++ dif

/-- Elements of two lists in turn. -/
def interleave {α : Type} : List α → List α → List α
  | [], b => b
  | a :: t, b => a :: (match b with | [] => t | x :: r => x :: interleave t r)

/-- Decimation in frequency: stage k is the first of 2^n points. -/
def fftFreq (shift : Nat) : Nat → Nat → List Cx → List Cx
  | _, 0, l => l
  | k, n + 1, l =>
    let h := 2 ^ n
    let a := l.take h
    let b := l.drop h
    let s := bit shift k
    let sum := (a.zip b).map fun p => stageOut s (p.1.re + p.2.re) (p.1.im + p.2.im) (p.1.sat + p.2.sat)
    let dif := (a.zip b).zipIdx.map fun q =>
      let p := q.1
      twiddle (n + 1) q.2 (stageOut s (p.1.re - p.2.re) (p.1.im - p.2.im) 0)
    interleave (fftFreq shift (k + 1) n sum) (fftFreq shift (k + 1) n dif)

/-- The transform of 2^n points. -/
def fft (shift n : Nat) (l : List Cx) : List Cx :=
  if Config.fftInTime then fftTime shift n l else fftFreq shift 0 n l

/-- Bins in channel order (Table — Channel numbering). -/
def FeInput.channels (x : FeInput) (l : List Cx) : List Cx :=
  let h := x.m / 2
  if x.realPfb then (l.take h).zipIdx.map fun p => if p.2 = 0 then { p.1 with im := 0 } else p.1
  else l.drop h ++ l.take h

/-! ### Fine delay and phase (R160) -/

/-- f_c / fs_in of channel c. -/
def FeInput.centre (x : FeInput) (c : Nat) : Frac :=
  if x.realPfb then ⟨c, x.m⟩
  else
    let off : Frac := ⟨(c : Int) - (x.m / 2 : Nat), x.dm⟩
    if pDec x.path = 0 then off else off.add ⟨x.freq.toNat, 2 ^ 48⟩

/-- φ in units of 2^-32 turns: residual in samples, delay in 2^-24 ns. -/
def phaseOf (pho centre residual fLo : Frac) (delay : Int) : Nat :=
  let time : Frac := ⟨delay, 2 ^ 24 * 1000000000⟩
  let phi := (pho.sub (centre.mul residual)).sub (fLo.mul time)
  (rheFrac (phi.mul (Frac.ofInt (2 ^ 32))) % 2 ^ 32).toNat

/-- z × e^(j2πφ) with a phasor of 18 bits (R160). -/
def rotate (phase : Nat) (z : Cx) : Cx :=
  let k := phase / 2 ^ 14
  let c := cosTable 18 k
  let s := sinTable 18 k
  let r := satCx 25 (rhe (z.re * c - z.im * s) 17) (rhe (z.re * s + z.im * c) 17)
  { r with sat := r.sat + z.sat }

/-! ### Gain and requantisation (R163) -/

/-- The output parts and whether either was clamped. -/
def requantise (wide : Bool) (gshift : Nat) (g : BitVec 32) (z : Int × Int) : (Int × Int) × Bool :=
  let gr := sext 16 g.toNat
  let gi := sext 16 (g.toNat / 65536)
  let m : Int := if wide then 127 else 7
  let yr := rhe (z.1 * gr - z.2 * gi) (12 + gshift)
  let yi := rhe (z.1 * gi + z.2 * gr) (12 + gshift)
  let r := clampSym m yr
  let i := clampSym m yi
  ((r, i), r != yr || i != yi)

/-- The gain of a newly mapped input: 1.0 (R164). -/
def unitGain : BitVec 32 := 4096

end Sys2Proof.Machine
end

