-- ==== Sys2Proof/Machine/Plane.lean ====
section
/-! DEFINITION. The plane map as slots see it (R132, R133): descriptors in force, owners and sources. -/
namespace Sys2Proof.Machine

/-- The streams of the map in force and of the pending map. -/
def Plane.streams (p : Plane) : List StreamDesc := (p.map.map (·.streams)).getD []
def Plane.pendingStreams (p : Plane) : List StreamDesc := (p.pending.map (·.1.streams)).getD []

/-- The descriptor of a stream in force now. -/
def State.desc (s : State) (st : Nat) : Option StreamDesc := s.plane.streams.find? fun d => d.id == st

/-- The descriptor a pending map still has to bring. -/
def State.pendingDesc (s : State) (st : Nat) : Option StreamDesc :=
  if s.plane.switched.contains st then none else s.plane.pendingStreams.find? fun d => d.id == st

/-- First slot of a stream under the descriptor in force. -/
def State.firstSlot (s : State) (st : Nat) : Nat := ((s.plane.starts.find? fun e => e.1 == st).map (·.2)).getD 0

/-- Two descriptors of a stream count slots alike. -/
def StreamDesc.sameGrid (a b : StreamDesc) : Bool := a.epoch == b.epoch && a.fsKhz == b.fsKhz && a.dmLog2 == b.dmLog2

/-- R119: the deadline of slot k. -/
def StreamDesc.deadline (d : StreamDesc) (k : Nat) : Nat := d.slotStart (k + 1) + (d.emitDelay + d.lateness) * tickNs

/-- The former descriptors of a stream that held slot k. -/
def State.formers (s : State) (st k : Nat) : List Former := s.plane.old.filter fun e => e.desc.id == st && e.first ≤ k && k < e.stop

/-- The grid that a stream's slots are counted on now. -/
def State.onGrid (s : State) (st : Nat) (d : StreamDesc) : Bool :=
  match (s.desc st).or ((s.plane.old.reverse.find? fun e => e.desc.id == st).map (·.desc)) with
  | some g => g.sameGrid d
  | none => false

/-- R133: the descriptor that routes and checks slot k of a stream: the one in force from its first slot on, before it the former one;
while slot k of the present grid has not begun, slot k of a former grid, until its deadline. -/
def State.descFor (s : State) (st k : Nat) : Option StreamDesc :=
  let held := (s.formers st k).map (·.desc)
  let own := match s.desc st with
    | some d => if s.firstSlot st ≤ k then some d else held.find? (s.onGrid st)
    | none => held.find? (s.onGrid st)
  let past := held.find? fun d => !s.onGrid st d && s.now ≤ d.deadline k
  match own with
  | some d => if s.now < d.slotStart k then past.or own else own
  | none => past

/-- The peer that owns a channel; 0xFF for none (R374). -/
def StreamDesc.owner (d : StreamDesc) (c : Nat) : Nat :=
  if c < d.nchan then (d.runs.foldl (fun o r => if r.1 ≤ c then r.2 else o) 0xFF) else 0xFF

/-- The source peer of a global group (R132); 0xFF outside the stream. -/
def StreamDesc.sourceOf (d : StreamDesc) (g : Nat) : Nat :=
  if d.firstGroup ≤ g && g < d.firstGroup + d.ngroups then d.source.getD (g - d.firstGroup) 0xFF else 0xFF

/-- Channel blocks of a stream (R15). -/
def StreamDesc.blocks (d : StreamDesc) : Nat := (d.nchan + 7) / 8

/-- Channels of a block. -/
def StreamDesc.blockChans (d : StreamDesc) (b : Nat) : List Nat :=
  (List.range 8).filterMap fun i => if 8 * b + i < d.nchan then some (8 * b + i) else none

/-- The owners of a block's channels, each once, in ascending order of first channel. -/
def StreamDesc.blockOwners (d : StreamDesc) (b : Nat) : List Nat :=
  ((d.blockChans b).map d.owner).foldl (fun l o => if o = 0xFF || l.contains o then l else l ++ [o]) []

/-- The package owns a channel under a descriptor. -/
def State.owns (s : State) (d : StreamDesc) (c : Nat) : Bool := s.plane.joined && d.owner c == s.plane.peerId

end Sys2Proof.Machine
end

