-- ==== Sys2Proof/Machine/FEngine.lean ====
section
/-! DEFINITION. The F-engine's events (05_f_engine.md): samples released by a link (R83, R84), frames (R148–R160),
delay segments (R161, R162), detectors (R165, R166) and parity errors (R170). -/
namespace Sys2Proof.Machine

/-! ### An input's place in time -/

def State.linkNamed (s : State) (first : Nat) : Option Link := s.links.find? fun k => k.first == first

/-- fs_in of an input's converter, in kHz (R142). -/
def State.fsOf (s : State) (m : InMap) : Nat := ((s.linkNamed m.link).map (·.fsKhz)).getD 0

/-- The epoch of the stream's grid: the map's; the plane epoch where no map in force names the stream. -/
def State.epochOf (s : State) (m : InMap) : Nat := ((m.stream.bind s.desc).map (·.epoch)).getD 0

/-- The epoch of the grid that an input's next frame stands on: a former one until its last slot is formed (R133). -/
def State.inputEpoch (s : State) (x : FeInput) : Nat := match x.oldGrid with | some g => g.1 | none => (x.map.map s.epochOf).getD 0

/-- Index of the next sample to arrive at the coarse delay. -/
def FeInput.arrived (x : FeInput) : Nat := x.first + x.hist.length

/-- Index of the next sample to leave it. -/
def FeInput.left (x : FeInput) : Nat := x.outFirst + x.out.length

/-- A detector at its restart (R166), at the sample with index q; its counters stay. -/
def Detector.restart (d : Detector) (q : Nat) : Detector :=
  { d with next := max q d.next, count := 0, peak := 0, sumsq := 0, env := 0, last := [], ovf := 0, clip := 0, coarse := 64, zeroed := false }

/-- The input begins to take samples: its buffers hold nothing of its own (R169: first mapped or re-mapped). -/
def FeInput.begin (x : FeInput) : FeInput :=
  { x with
    hist := [], first := 0, anchor := (0, 0), out := [], outFirst := x.nc, fresh := x.nc, frame := none, lastEnd := 0
    oldGrid := none, stepDue := false, invalid := []
    settle := [(x.nc, x.nc)], det := { x.det.restart 0 with next := 0 } }

/-! ### Samples released by a link -/

/-- Samples of each converter in an extended multiblock: E × 32 blocks of 64 bits on L lanes (R77). -/
def Link.sampleCount (k : Link) : Nat := k.e * 2048 * k.l / max 1 (k.m * k.nprime)

def InMap.unpack (m : InMap) (k : Link) (wi wq : BitVec 16) : Sample :=
  let re := unpackWord k.nprime m.n wi
  let im := if m.iq then unpackWord k.nprime m.n wq else 0
  let one (b : Bool) : Nat := if b then 1 else 0
  let flag := m.ovr && m.n < k.nprime
  { re := re, im := im, rawRe := re, rawIm := im
    ovf := one (flag && wi.getLsbD 0) + one (flag && m.iq && wq.getLsbD 0)
    clip := one (clipped k.nprime m.n wi) + one (m.iq && clipped k.nprime m.n wq) }

/-- A sample that an ingest error replaced by zero (R84, R149). -/
def zeroSample : Sample := { zeroed := true }

/-- The samples of an input in one release: zeros throughout, or in the multiblocks whose CRC-12 failed (R84). -/
def InMap.samples (m : InMap) (k : Link) (words : List (List (BitVec 16))) (crcOk : List Bool) (zero : Bool) : List Sample :=
  let n := k.sampleCount
  if zero then List.replicate n zeroSample
  else
    let pad (l : List (BitVec 16)) : List (BitVec 16) := l.take n ++ List.replicate (n - l.length) 0
    let wi := pad (words.getD m.conv [])
    let wq := pad (words.getD (m.conv + 1) [])
    ((wi.zip wq).zipIdx).map fun e =>
      if crcOk.getD (e.2 * k.e / max 1 n) false then m.unpack k e.1.1 e.1.2
      else { zeroSample with seen := some (m.unpack k e.1.1 e.1.2).re }

/-- Samples arrive, the first at time t (1/125 ticks). A pause is a zeroed stretch; a jump of the stamps that is no
pause begins the input anew (notes/assumptions/24.md). -/
def FeInput.arrive (x : FeInput) (fsKhz : Nat) (t : Int) (l : List Sample) : FeInput :=
  let gap := rheFrac ((fineSamples (t - x.anchor.2) fsKhz).add (Frac.ofInt x.anchor.1)) - x.arrived
  let started := x.arrived != 0
  let x := if started && (gap ≤ -2 || gap > 2 ^ 20) then x.begin else x
  let fill := if started && 2 ≤ gap && gap ≤ 2 ^ 20 then List.replicate gap.toNat zeroSample else []
  let (l, st) := testAll (pTest x.path) x.iq (fill ++ l) x.prbs
  { x with anchor := (x.arrived + fill.length, t), hist := x.hist ++ l, prbs := st }

/-- R83: the time of a release: the last instant RBD blocks after a boundary of the LEMC; of a link without one, now. -/
def State.releaseTime (s : State) (k : Link) : Nat :=
  match k.lemc with
  | none => s.now
  | some t0 =>
    let first := 100 * t0 + k.rbd * s.linkBlock k
    (first + (100 * s.now - first) / s.lemcPeriod k * s.lemcPeriod k) / 100

/-- The first sample of a release is stamped t_rel − LINK_DELAY (R83), in 1/125 ticks. -/
def State.releaseStamp (s : State) (k : Link) : Int := 125 * (s.releaseTime k : Int) - 8192 * (k.linkDelay : Int)

/-- The inputs of a link take the samples of one release; none in SAFE_STATE (R446). -/
def State.releaseSamples (k : Link) (words : List (List (BitVec 16))) (crcOk : List Bool) (zero : Bool) (s : State) : State :=
  if s.teller.safe then s
  else
    let t := s.releaseStamp k
    { s with fe := { s.fe with inputs := s.fe.inputs.map fun (x : FeInput) =>
        match x.map with
        | some m => if m.link == k.first then x.arrive k.fsKhz t (m.samples k words crcOk zero) else x
        | none => x } }

/-- The lanes of a link that hold lock become ALIGNED with it; a realignment counts (R84). The first alignment after a LANE_SET
that rewrites the link is none (notes/assumptions/138.md). -/
def State.linkAligned (k : Link) (s : State) : State :=
  let s := s.updLink k.first fun k => { k with aligned := true, once := true }
  k.lanes.foldl (fun s i =>
    let s := if (s.lane i).hasLock then s.setRx i .aligned else s
    if k.once then s.updLane i fun l => { l with roleEvent := satAdd 32 l.roleEvent 1 } else s) s

def State.coarseBeam (s : State) (b : Nat) : Coarse := s.coarse.getD b {}

/-- fs_in of a coarse beam in kHz: that of its inputs. -/
def State.beamRate (s : State) (c : Coarse) : Nat :=
  match (c.inputs.head?.bind fun i => (s.input i.1).map) with
  | some m => s.fsOf m
  | none => 0

/-- The plane index of beam b at which sample n of the rule's first beam falls. -/
def State.indexIn (s : State) (r : TrigRule) (b n : Nat) : Nat :=
  n * s.beamRate (s.coarseBeam b) / max 1 (s.beamRate (s.coarseBeam (r.beams.headD 0)))

/-- The samples of input indices lo to hi − 1 of a link took part in a firing at plane index f: in the envelopes of the
coincidence window of one of the rule's beams (R236, R238). -/
def State.fedBy (s : State) (k : Link) (lo hi : Int) (r : TrigRule) (f : Nat) : Bool :=
  r.beams.any fun b =>
    let c := s.coarse.getD b {}
    c.inputs.any fun i =>
      let x := s.input i.1
      let last : Int := (s.indexIn r b f : Int) - i.2.1 - x.nc
      (match x.map with | some m => m.link == k.first | none => false)
        && lo ≤ last && last - 2 ^ c.eLog2 - 2 ^ r.coincLog2 + 2 < hi

/-- The blocks of a capture that overlap a window. -/
def Capture.inWindow (c : Capture) (w : Window) : List CapBlock := c.blocks.filter fun b => w.first < b.t1 && b.t0 < w.stop

/-- Flags of the blocks of a capture, and their index entries, change (R247). -/
def State.flagBlocks (h : Handle) (l : List Nat) (f : BitVec 16 → BitVec 16) (s : State) : State :=
  l.foldl (fun s pos => (s.updCapture h fun c => c.updBlock pos fun b => { b with flags := f b.flags }).writeIndex h pos) s

/-- R241: the windows that a firing froze carry SUSPECT, and their blocks with them. -/
def State.suspectWindows (fire : Handle × Nat) (h : Handle) (s : State) : State :=
  match s.capture? h with
  | none => s
  | some c =>
    let hit := c.windows.filter fun (w : Nat × Window) => w.2.fires.contains fire
    let mark (w : Nat × Window) : Nat × Window := if w.2.fires.contains fire then (w.1, { w.2 with suspect := true }) else w
    let s := s.updCapture h fun c => { c with windows := c.windows.map mark }
    s.flagBlocks h (hit.flatMap fun (w : Nat × Window) => (c.inWindow w.2).map (·.pos)) (· ||| fSuspect)

/-- A firing turns out to rest on samples of a multiblock that failed its CRC (R241). -/
def State.suspectFire (fire : Handle × Nat) (s : State) : State :=
  let s := s.updRule fire.1 fun r => { r with suspect := satAdd 32 r.suspect 1 }
  s.captures.foldl (fun s (e : Handle × Capture) => s.suspectWindows fire e.1) s

/-- R241: rules that fired on samples of the multiblocks of a link whose CRC failed count TRIG_SUSPECT, and their windows carry
SUSPECT. -/
def State.suspect (k : Link) (bad : List (Int × Int)) (s : State) : State :=
  let fed (e : Entry) : List (Handle × Nat) := match e.obj with
    | .trigRule r => if r.kind == 1 then (r.fires.filter fun f => bad.any fun b => s.fedBy k b.1 b.2 r f).map fun f => (e.h, f) else []
    | _ => []
  (s.handles.live.flatMap fed).foldl (fun s fire => s.suspectFire fire) s

/-- R82: the LEMC of a subclass 0 link starts with the first extended multiblock received on all its lanes, which is released RBD
blocks later. -/
def Link.startLemc (k : Link) (now block : Nat) : Link :=
  if k.lemc.isNone && !k.subclass1 then { k with lemc := some ((100 * now - k.rbd * block) / 100) } else k

/-- R83, R84: the lanes of a link release an extended multiblock, or reach its release point without one whole; a subclass 1 link
that waits for SYSREF has none to release, and its converters stay zeroed. -/
def State.release (k : Link) (words : List (List (BitVec 16))) (crcOk : List Bool) (whole : Bool) (s : State) : State :=
  let whole := whole && k.lanes.all fun i => (s.lane i).hasLock
  let bad := (List.range (max 1 k.e)).countP fun i => !crcOk.getD i false
  if !whole || (k.subclass1 && k.lemc.isNone) then (s.linkLost k.first).releaseSamples k words crcOk true
  else
    let k := k.startLemc s.now (s.linkBlock k)
    let s := s.updLink k.first fun _ => k
    let s := if bad = 0 then s else
      let s := k.lanes.foldl (fun s i => s.updLane i fun l => { l with roleErr := satAdd 32 l.roleErr bad }) s
      let t0 := rheFrac (fineSamples (s.releaseStamp k) k.fsKhz)
      let edge (i : Nat) : Int := t0 + (i * k.sampleCount / max 1 k.e : Nat)
      s.suspect k (((List.range (max 1 k.e)).filter fun i => !crcOk.getD i false).map fun (i : Nat) => (edge i, edge (i + 1)))
    let s := s.releaseSamples k words crcOk (!k.aligned)
    if !k.aligned && bad = 0 then s.linkAligned k else s

/-! ### The coarse delay (R150, R151) -/

/-- Marks a zeroed sample at array-time index a: it extends the stretch that ends just before it (R169). -/
def settleAt (l : List (Nat × Nat)) (a : Nat) : List (Nat × Nat) :=
  match l.reverse with
  | (x, b) :: t => if b + 1 = a then (t.reverse) ++ [(x, a)] else l ++ [(a, a)]
  | [] => [(a, a)]

/-- One sample leaves the coarse delay with array-time index a. -/
def FeInput.step (x : FeInput) (a : Nat) (v : Sample) : FeInput :=
  { x with
    out := x.out ++ [v]
    settle := if v.zeroed then settleAt x.settle a else x.settle
    invalid := if v.parity then x.invalid ++ [(a, a + x.support - 1)] else x.invalid }

/-- The samples up to array-time index e leave the coarse delay; what the buffer never held is not the input's own. -/
def FeInput.advance (x : FeInput) (e : Nat) : FeInput :=
  let lo := x.left
  let n := e + 1 - lo
  let missing := min n (x.nc + x.first - lo)
  let l := List.replicate missing ({} : Sample) ++ ((x.hist.drop (lo + missing - x.nc - x.first)).take (n - missing))
  let y := (l.zipIdx).foldl (fun (y : FeInput) p => y.step (lo + p.2) p.1) x
  if missing = 0 then y else { y with fresh := max y.fresh (lo + missing) }

/-! ### One channel sample -/

/-- d of the delay model at channel sample j, in 2^-24 ns (R161). -/
def FeInput.delay (x : FeInput) (j : Nat) : Int := x.d0 + ((j : Int) - x.seg) * x.dr

/-- The last n samples that have left the coarse delay, oldest first. -/
def FeInput.recent (x : FeInput) (n : Nat) : List Sample := x.out.drop (x.out.length - n)

/-- The values that enter the filterbank over one support, with the saturations of the newest `new` input samples and of
the newest M outputs of the FIR (R152, R153, R158). -/
def FeInput.pfbInput (x : FeInput) (fsKhz epoch e new : Nat) : List (Int × Int) × Nat :=
  if pDec x.path = 0 then ((x.recent x.pm).map (fun v => (4 * v.re, 4 * v.im)), 0)
  else
    let n := x.nfir + x.d * (x.pm - 1)
    let mixed := (x.recent n).zipIdx.map fun p => mixSample x.iq (x.theta fsKhz epoch ((e : Int) + 1 - n + p.2)) p.1
    let y := firOutputs x mixed x.pm
    let sat := ((mixed.drop (n - new)).map (·.sat)).sum + ((y.drop (x.pm - x.m)).map (·.sat)).sum
    (y.map fun c => (c.re, c.im), sat)

/-- F_LO and PH0 of the delay model. -/
def FeInput.fLo (x : FeInput) : Frac := (x.poly.map fun p => b64Frac p.fLo).getD ⟨0, 1⟩
def FeInput.ph0 (x : FeInput) : Frac := (x.poly.map fun p => b64Frac p.ph0).getD ⟨0, 1⟩

/-- r_j in input samples (R160): d_j less the whole samples, plus ε (R156). -/
def FeInput.residual (x : FeInput) (fsKhz epoch e j : Nat) : Frac :=
  let d : Frac := ⟨x.delay j * fsKhz, 2 ^ 24 * 1000000⟩
  (d.sub (Frac.ofInt x.nc)).add ((Frac.ofInt e).sub (x.endExact fsKhz epoch j))

/-- The channels of channel sample j, and the saturations that SAT_FIR and SAT_FFT count. -/
def FeInput.channelise (x : FeInput) (fsKhz epoch e new j : Nat) : List (Int × Int) × Nat × Nat :=
  let (v, satFir) := x.pfbInput fsKhz epoch e new
  let bins := fft (pFftShift x.path) (pLog2 x.path) (pfbOutputs x v)
  let satIn := (bins.map (·.sat)).sum
  let r := x.residual fsKhz epoch e j
  let out := (x.channels bins).zipIdx.map fun p =>
    rotate (phaseOf x.ph0 (x.centre p.2) r x.fLo (x.delay j)) { p.1 with sat := 0 }
  (out.map fun c => (c.re, c.im), satFir, satIn + (out.map (·.sat)).sum)

/-- Free values in place of a channel sample whose filters hold older data of another configuration: `k` is the first
free value to use; the saturations are free too. -/
def FeInput.freeChannels (x : FeInput) (k : Nat) : List (Int × Int) × Nat × Nat :=
  let v (i : Nat) : Int := sext 25 (Config.freeNat (k + i))
  ((List.range x.nchan).map fun c => (v (2 * c), v (2 * c + 1)), Config.freeNat (k + 2 * x.nchan) % (4 * x.dm + 1),
    Config.freeNat (k + 2 * x.nchan + 1) % (64 * x.m + 1))

/-- The input is in SETTLING at support end e (R169). -/
def FeInput.settlingAt (x : FeInput) (e : Nat) : Bool := x.settle.any fun i => i.1 ≤ e && e < i.2 + x.support

/-- The frame that ends at e is marked invalid (R151, R162, R170). -/
def FeInput.invalidAt (x : FeInput) (e : Nat) : Bool :=
  !x.ranged || 2 ≤ x.segMissing || (x.invalid.any fun i => i.1 ≤ e && e ≤ i.2) || x.badSets.any fun i => i.2 ≤ e

/-- Channel sample j is formed from the support that ends at e. -/
def State.formFrame (i fsKhz e j : Nat) (keep : Bool) (s : State) : State :=
  let x := s.input i
  let epoch := s.inputEpoch x
  let new := e + 1 - x.left
  let moved := x.frame.isSome && x.lastEnd + x.dm != e
  let x := x.advance e
  let old := e + 1 < x.fresh + x.support
  let r := if old then x.freeChannels s.freeCtr else x.channelise fsKhz epoch e new j
  let sample : SpecSample :=
    { j := j, chans := r.1, settling := x.settlingAt e, invalid := x.invalidAt e, test := pTest x.path != 0, gshift := pGshift x.path
      epoch := epoch }
  let d := { x.det with
    satFir := satAdd 32 x.det.satFir r.2.1, satFft := satAdd 32 x.det.satFft r.2.2
    coarseStep := if moved then satAdd 16 x.det.coarseStep 1 else x.det.coarseStep }
  let x := { x with det := d, lastEnd := e, frame := some (j + 1), spec := if keep then x.spec ++ [sample] else x.spec }
  let s := s.updInput i fun _ => x
  if old then { s with freeCtr := s.freeCtr + 2 * x.nchan + 2 } else s

/-! ### Changes at a frame boundary (R148) -/

/-- The working copies of the sets the path word names (R155, R157). -/
def FeInput.loadCopies (x : FeInput) (f : FEngine) : FeInput :=
  let fir := if pPreset x.path = 4 then ((f.fir.find? fun e => e.1 == pFirSet x.path).map (·.2)).getD [] else []
  let proto := if pPfbSet x.path = 0 then defaultPrototype (pTaps x.path) x.m else ((f.pfb.find? fun e => e.1 == pPfbSet x.path).map (·.2.2.2)).getD []
  { x with fir := fir, proto := proto }

/-- R133, R169: the input goes from one grid to another, of another epoch; what waits for a frame waits for the same time. -/
def FeInput.regrid (x : FeInput) (fsKhz old new : Nat) : FeInput :=
  let shift : Int := -((((new : Int) - old) * fsKhz) / (max 1 x.dm * 1000000 * 65536 : Nat))
  let move (j : Nat) : Nat := ((j : Int) + shift).toNat
  let y := { x with frame := none, oldGrid := none, changes := x.changes.map fun (c : Nat × FeChange) => (move c.1, c.2), seg := move x.seg }
  if x.arrived = 0 then y else { y with settle := x.settle ++ [(x.left, x.left)], fresh := x.left }

/-- The input works with a set. -/
def FeInput.usesSet (x : FeInput) (pfb : Bool) (set : Nat) : Bool :=
  x.map.isSome && (if pfb then pPfbSet x.path == set else pDec x.path != 0 && pPreset x.path == 4 && pFirSet x.path == set)

/-- R170: an input leaves sets whose copies are in error, or begins to use one, before the sample with index a. -/
def FeInput.switchSets (x : FeInput) (reload : List (Bool × Nat)) (a : Nat) : FeInput :=
  let uses (c : Bool × Nat) : Bool := x.usesSet c.1 c.2
  let gone := x.badSets.filter fun b => !uses b.1
  let kept := x.badSets.filter fun b => uses b.1
  { x with
    badSets := kept ++ ((reload.filter fun c => uses c && !kept.any fun b => b.1 == c).map fun c => (c, a))
    invalid := x.invalid ++ gone.map fun b => (b.2, a + x.support - 1) }

/-- One change, as settings. -/
def FeInput.change (x : FeInput) (c : FeChange) : FeInput :=
  match c with
  | .mapTo m => if x.map.isSome then { x with map := some m } else { x with map := some m, path := pathReset }
  | .unmap => { changes := x.changes }
  | .path w => { x with path := w }
  | .freq f => { x with freq := f }
  | .phase p => { x with phase0 := p }
  | .seed v => { x with seed := v }
  | .coeffs => x

/-- Converter, FORMAT or N differ (R169). -/
def FeInput.remapped (a b : FeInput) : Bool :=
  match a.map, b.map with
  | some m, some n => m.link != n.link || m.conv != n.conv || m.iq != n.iq || m.n != n.n
  | none, some _ => true
  | _, _ => false

/-- The fields of a path word whose change is a path change (Table — Path changes), and PFB_LOG2. -/
def pathKey (w : BitVec 64) : List Nat :=
  [pFirSet w, pPfbSet w, pFftShift w, pTaps w, pLog2 w, pDec w, pPreset w, pTest w]

/-- The grid of an input's channel samples. -/
def FeInput.gridKey (x : FeInput) : List Nat := [x.dm, x.gd2, ((x.map.bind (·.stream)).map (· + 1)).getD 0]

/-- Several changes apply together, as one path change, before the sample with array-time index a (R148, R169). -/
def FeInput.applyChanges (x : FeInput) (f : FEngine) (a : Nat) (l : List FeChange) : FeInput :=
  if l.isEmpty then x
  else
    let y := (l.foldl FeInput.change x).loadCopies f
    if y.map.isNone then { changes := x.changes }
    else if l.contains .unmap || x.remapped y then
      { (y.begin.switchSets f.reload 0) with prbs := testSeed y.seed ((y.map.map (·.gid)).getD 0), spec := x.spec }
    else
      let q := a - x.nc
      let config := pathKey x.path != pathKey y.path || x.freq != y.freq || x.phase0 != y.phase0 || l.contains .coeffs
      let test := pTest x.path != pTest y.path
      let y := y.switchSets f.reload a
      let y := if config && x.arrived != 0 then { y with settle := y.settle ++ [(a, a)], fresh := a } else y
      let y := if x.gridKey == y.gridKey then y else { y with frame := none }
      let y := if test then
          let seed := testSeed y.seed ((y.map.map (·.gid)).getD 0)
          let (t, st) := testAll (pTest y.path) y.iq (y.hist.drop (q - y.first)) seed
          { y with hist := y.hist.take (q - y.first) ++ t, prbs := st }
        else y
      if test || pDetLog2 x.path != pDetLog2 y.path then { y with det := y.det.restart q } else y

/-- The changes that may begin with frame j apply before index a. -/
def FeInput.takeChanges (x : FeInput) (f : FEngine) (j a : Nat) : FeInput :=
  let due : List (Nat × FeChange) := x.changes.filter fun c => decide (c.1 ≤ j)
  let rest := x.changes.filter fun c => decide (j < c.1)
  ({ x with changes := rest }).applyChanges f a (due.map fun (c : Nat × FeChange) => c.2)

/-- n_c for frame j, whose first sample has index a (R151). -/
def FeInput.coarseStep (x : FeInput) (fsKhz j a : Nat) : FeInput :=
  let d := x.delay j
  let ok := 0 ≤ d && d * fsKhz ≤ 131071 * 2 ^ 24 * 1000000
  let nc := (max 0 (min 131071 (rheFrac ⟨d * fsKhz, 2 ^ 24 * 1000000⟩))).toNat
  let det := if ok then x.det else { x.det with delayRange := satAdd 16 x.det.delayRange 1 }
  let x := { x with ranged := ok, det := det }
  if nc = x.nc then x
  else if nc = x.nc + 1 || nc + 1 = x.nc then
    { x with nc := nc, det := { x.det with coarseStep := satAdd 16 x.det.coarseStep 1 } }
  else { x with nc := nc, settle := x.settle ++ [(a, a)] }

/-- The step that waited for the delay segment of the next frame. -/
def FeInput.takeStep (x : FeInput) (fsKhz : Nat) : FeInput :=
  if x.stepDue then { (x.coarseStep fsKhz (x.frame.getD 0) x.left) with stepDue := false } else x

/-- What no later frame, detector, trigger or capture reads is let go. -/
def FeInput.prune (x : FeInput) : FeInput :=
  let q := min x.det.next (x.lastEnd + 1 - 131072)
  let k := x.out.length - (x.support + 2 ^ 26)
  { x with
    hist := x.hist.drop (q - x.first), first := max x.first q
    out := x.out.drop k, outFirst := x.outFirst + k
    settle := x.settle.filter fun i => x.lastEnd < i.2 + x.support
    invalid := x.invalid.filter fun i => x.lastEnd < i.2 }

/-- The channel sample an input forms next: its own count, or the first whose support ends on samples yet to leave the
coarse delay. -/
def FeInput.nextFrame (x : FeInput) (fsKhz epoch : Nat) : Nat :=
  match x.frame with
  | some j => j
  | none =>
    let want : Int := x.left
    let j := ((want - x.endOf fsKhz epoch 0 + x.dm - 1) / x.dm).toNat
    if x.endOf fsKhz epoch j < want then j + 1 else j

/-- The boundary after frame j, whose last sample has index e: changes that begin with the next frame, a change of grid, and n_c,
which a segment that begins there supplies first (R133, R148, R151, R161). -/
def FeInput.boundary (x : FeInput) (f : FEngine) (fsKhz epoch j e : Nat) : FeInput :=
  let y := x.takeChanges f (j + 1) (e + 1)
  let y := match y.oldGrid with
    | some g => if g.2 ≤ j + 1 then y.regrid fsKhz g.1 epoch else y
    | none => y
  if y.map.isNone || y.arrived = 0 then y
  else
    let next := y.nextFrame fsKhz epoch
    let y := if y.frame.isSome && next % 2 ^ pSegLog2 y.path = 0 && (y.poly.isSome || y.polyNext.isSome) then { y with stepDue := true }
      else y.coarseStep fsKhz next (e + 1)
    y.prune

/-- R148–R160: a frame of an input ends once its last sample has passed the coarse delay. -/
def State.frameBoundary (i : Nat) (s : State) : State :=
  match (s.input i).map with
  | none => s
  | some m =>
    let fs := s.fsOf m
    let s := s.updInput i (FeInput.takeStep · fs)
    let x := s.input i
    let epoch := s.inputEpoch x
    if x.arrived = 0 || fs = 0 then s
    else
      let j := x.nextFrame fs epoch
      let e := x.endOf fs epoch j
      if e < x.left || (x.arrived + x.nc : Nat) ≤ e then s
      else
        let s := s.formFrame i fs e.toNat j ((m.stream.bind s.desc).isSome || x.oldGrid.isSome)
        let f := s.fe
        let grid := s.epochOf m
        s.updInput i fun x => x.boundary f fs grid j e.toNat

def execFrameBoundary (input : Nat) (s : State) : Host.Outcome State Fault Refusal :=
  settleFlags s (if s.teller.safe then s else s.frameBoundary input)

/-! ### Delay segments (R161, R162) -/

/-- Spectra in a segment. -/
def FeInput.segLen (x : FeInput) : Nat := 2 ^ pSegLog2 x.path

/-- The grid time of channel sample j of an input, in ticks. -/
def State.gridTime (s : State) (x : FeInput) (j : Nat) : Nat :=
  match x.map with
  | none => 0
  | some m => s.inputEpoch x + j * x.dm * 1000000 * 65536 / max 1 (s.fsOf m)

/-- d(t) of R379 in ns, τ in seconds; and |d″(t)|. -/
def DelayPoly.value (p : DelayPoly) (t : Frac) : Frac :=
  (b64Frac p.c0).add (t.mul ((b64Frac p.c1).add (t.mul ((b64Frac p.c2).add (t.mul (b64Frac p.c3))))))
def DelayPoly.curve (p : DelayPoly) (t : Frac) : Frac :=
  (((b64Frac p.c2).mul ⟨2, 1⟩).add ((t.mul (b64Frac p.c3)).mul ⟨6, 1⟩)).abs

/-- R161: the values for the segment that starts at channel sample `start` stay within the error that the rule allows of the
polynomial, at every spectrum of the segment. -/
def State.segmentFits (s : State) (x : FeInput) (p : DelayPoly) (start : Nat) (d0 dr : Int) : Bool :=
  let fs := max 1 ((x.map.map s.fsOf).getD 1)
  let tau (j : Nat) : Frac := Frac.add ⟨(s.inputEpoch x : Int) - p.epoch, tickSec⟩ ⟨(j * x.dm : Nat), fs * 1000⟩
  let stop := start + x.segLen
  let span : Frac := ⟨(x.segLen * x.dm : Nat), fs * 1000⟩
  let c := (p.curve (tau start)).max (p.curve (tau stop))
  let bound := ((c.mul (span.mul span)).mul ⟨1, 8⟩).add ⟨1, 2 ^ 24⟩
  (List.range x.segLen).all fun k => ((Frac.sub ⟨d0 + k * dr, 2 ^ 24⟩ (p.value (tau (start + k)))).abs).le bound

/-- R161, R162: a segment starts, with the values the kernel supplied or without; then n_c of its first frame is found (R151). -/
def State.delaySegment (i : Nat) (values : Option (Int × Int)) (s : State) : State :=
  let x := s.input i
  if x.map.isNone || (x.poly.isNone && x.polyNext.isNone) then s
  else
    let j := x.frame.getD 0
    let start := j / x.segLen * x.segLen
    let t := s.gridTime x start
    let x := match x.polyNext with
      | some (from_, p) => if from_ ≤ t then { x with poly := some p, polyNext := none } else x
      | none => x
    let fs := (x.map.map s.fsOf).getD 0
    match x.poly, values with
    | none, _ => s.updInput i fun _ => x.takeStep fs
    | some p, some (d0, dr) =>
      if !s.segmentFits x p start d0 dr then s
      else s.updInput i fun _ => ({ x with d0 := d0, dr := dr, seg := start, segMissing := 0 } : FeInput).takeStep fs
    | some _, none =>
      let late := satAdd 16 x.det.delayLate 1
      let y := { x with d0 := x.delay start, seg := start, segMissing := x.segMissing + 1, det := { x.det with delayLate := late } }
      let s := s.updInput i fun _ => y.takeStep fs
      if y.segMissing = 2 then s.raise evInput else s

def FeInput.stream (x : FeInput) : Option Nat := x.map.bind (·.stream)

/-- The key under which a stream's delay kernel is kept; 16 for inputs in no stream. -/
def delayKey (x : FeInput) : Nat := x.stream.getD 16

/-- R279: the segment tick reaches the clerks of a stream's system kernels: its delay kernel's and those of its products. -/
def State.segmentTick (i : Nat) (s : State) : State :=
  let key := delayKey (s.input i)
  let own := ((s.fe.delayClerks.find? fun e => e.1 == key).map (·.2)).getD []
  let serving (e : Entry) : Bool := match e.obj with
    | .xprod x => x.stream == key
    | .beam b => b.stream == key
    | _ => false
  s.clerkEvent (own ++ (s.handlesOf serving).flatMap s.servants) 6

def execDelaySegment (input : Nat) (values : Option (Int × Int)) (s : State) : Host.Outcome State Fault Refusal :=
  settleFlags s (if s.teller.safe || (s.input input).map.isNone then s else (s.delaySegment input values).segmentTick input)

/-! ### Detectors (R165, R166) -/

/-- x² of R165. -/
def Sample.power (v : Sample) : Nat := (v.re * v.re + v.im * v.im).toNat
def Sample.peak (v : Sample) : Nat := max v.re.natAbs v.im.natAbs

/-- A detector takes one sample. -/
def Detector.take (d : Detector) (v : Sample) : Detector :=
  let d := if d.zeroed && !v.zeroed then d.restart d.next else d
  let last := lastN 16 (d.last ++ [v.power])
  { d with
    next := d.next + 1, count := d.count + 1, peak := max d.peak v.peak, sumsq := d.sumsq + v.power, last := last
    env := if last.length = 16 then max d.env (last.sum / 16) else d.env
    ovf := d.ovf + v.ovf, clip := d.clip + v.clip, zeroed := v.zeroed }

/-- Bytes 0–39 of the record at a publication (Table — Detector record). -/
def Detector.publish (d : Detector) (input flags k : Nat) (stamp : BitVec 64) : List Byte :=
  le 2 input ++ le 1 flags ++ le 1 k ++ le 2 d.peak ++ [0, 0] ++ le 8 d.sumsq ++ le 4 d.count ++ le 4 d.env
    ++ le 4 d.ovf ++ le 4 d.clip ++ le 8 stamp.toNat

/-- Take samples until a record is due: a window ends with its run of 2^k indices, or the count reaches the next COARSE mark. `n` is the index of
R165 of each sample. The detector, whether the window ended, and whether a record is due. -/
def detectRun (k : Nat) (n : Nat → Int) : List Sample → Detector → Detector × Bool × Bool
  | [], d => (d, false, false)
  | v :: t, d =>
    let q := d.next
    let d := d.take v
    if n q / (2 ^ k : Nat) != n (q + 1) / (2 ^ k : Nat) then (d, true, true)
    else if d.coarse != 0 && d.count = d.coarse then (d, false, true)
    else detectRun k n t d

/-- The next window starts: full windows follow a boundary. -/
def Detector.window (d : Detector) : Detector :=
  { d with count := 0, peak := 0, sumsq := 0, env := 0, ovf := 0, clip := 0, coarse := 0 }

/-- R165, R166: the next record of an input is published once its last sample is in. -/
def State.detectorPublish (i : Nat) (s : State) : State :=
  let x := s.input i
  match x.map with
  | none => s
  | some m =>
    let fs := s.fsOf m
    let k := pDetLog2 x.path
    let (d, ended, due) := detectRun k (fun q => planeIndex x.anchor fs q) (x.hist.drop (x.det.next - x.first)) x.det
    if !due || fs = 0 then s
    else
      let coarse := !ended || (d.coarse != 0 && d.count < 2 ^ k)
      let flags := flagBit coarse 0 + flagBit (x.frame.isNone || x.settlingAt x.lastEnd) 1 + flagBit (pTest x.path != 0) 2
        + flagBit (!((s.linkNamed m.link).map (·.aligned)).getD false) 3
      let t := x.anchor.2 + ((d.next : Int) - 1 - x.anchor.1) * fineSec / ((fs : Int) * 1000)
      let rec_ := d.publish i flags k (s.stampAt (t / 125).toNat)
      let d := if ended then d.window else { d with coarse := 2 * d.coarse }
      s.updInput i fun x => { x with det := { d with record := rec_ } }

def execDetectorPublish (input : Nat) (s : State) : Host.Outcome State Fault Refusal :=
  settleFlags s (if s.teller.safe then s else s.detectorPublish input)

/-! ### Parity (R170) -/

/-- A sample in which a parity error was found. -/
def Sample.struck (v : Sample) : Sample := { v with re := 0, im := 0, rawRe := 0, rawIm := 0, parity := true }

/-- Sample n of those an input holds becomes zero, and counts one PARITY; where it has left the coarse delay, the frames still to come
whose supports hold it are invalid from there. -/
def FeInput.parityHit (x : FeInput) (n : Nat) : FeInput :=
  let a := x.first + n + x.nc
  let gone := a < x.left
  { x with
    det := { x.det with parity := satAdd 16 x.det.parity 1 }
    hist := x.hist.modify n Sample.struck
    out := if gone then x.out.modify (a - x.outFirst) Sample.struck else x.out
    invalid := if gone then x.invalid ++ [(a, a + x.support - 1)] else x.invalid }

def State.parityError (i : Nat) (t : ParityTarget) (s : State) : State :=
  let fault (pfb : Bool) (set : Nat) : State :=
    let s := { s with fe := { s.fe with
      reload := (s.fe.reload.filter (· != (pfb, set))) ++ [(pfb, set)]
      inputs := s.fe.inputs.map fun (x : FeInput) =>
        if x.usesSet pfb set && !x.badSets.any fun b => b.1 == (pfb, set) then { x with badSets := x.badSets ++ [((pfb, set), x.left)] }
        else x } }
    s
  match t with
  | .data =>
    let held := (s.input i).hist.length
    if (s.input i).map.isSome && held != 0 then
      let (n, s) := s.takeFree 64
      s.updInput i (FeInput.parityHit · (n % held))
    else s
  | .fir set => if (s.input i).usesSet false set then fault false set else s
  | .pfb set => if (s.input i).usesSet true set then fault true set else s

def execParityError (input : Nat) (t : ParityTarget) (s : State) : Host.Outcome State Fault Refusal :=
  settleFlags s (if s.teller.safe then s else s.parityError input t)

/-- R170: the reload ends; the inputs stay invalid for S_in samples more, or, where the Vault's copy was unreadable, until
the set is loaded again. -/
def State.reloaded (pfb : Bool) (set : Nat) (s : State) : State :=
  { s with fe := { s.fe with
    reload := s.fe.reload.filter (· != (pfb, set))
    inputs := s.fe.inputs.map fun (x : FeInput) =>
      let l := x.badSets.filter fun b => b.1 == (pfb, set)
      { x with
        badSets := x.badSets.filter fun b => b.1 != (pfb, set)
        invalid := x.invalid ++ l.map fun b => (b.2, x.left + x.support - 1) } } }

/-- Values of a set (R155, R157); set 0 of the PFB prototypes is as long as its longest user's. -/
def State.setLength (s : State) (pfb : Bool) (set : Nat) : Nat :=
  if pfb then
    match s.fe.pfb.find? fun e => e.1 == set with
    | some e => e.2.2.2.length
    | none => maxOf ((s.fe.inputs.filter fun x => x.usesSet true set).map fun x => x.proto.length)
  else ((s.fe.fir.find? fun e => e.1 == set).map (·.2.length)).getD 0

/-- R26, R170, R293: the words of a set's table are read from the system reserve, two values each, at a place of the Teller's choosing
(notes/assumptions/146.md). -/
def State.readTable (n : Nat) (s : State) : Bool × State :=
  let pages := s.systemPages
  let words := min (ceilDiv n 2) (8192 * pages.length)
  let (p, s) := s.takeFree 32
  let (l, s) := s.readWords srcReload pages (p % (8192 * pages.length + 1 - words)) words
  (!l.any (·.2), s)

/-- R170, R293: the reload of a set whose copy was in error; with a word that cannot be read the inputs that use it stay invalid. -/
def State.reloadSet (pfb : Bool) (set : Nat) (s : State) : State :=
  if !s.fe.reload.contains (pfb, set) then s
  else
    let (ok, s) := s.readTable (s.setLength pfb set)
    if ok then s.reloaded pfb set else s.raise evInput

def execCoeffReload (t : ParityTarget) (s : State) : Host.Outcome State Fault Refusal :=
  settleFlags s (
    if s.teller.safe then s
    else match t with
      | .data => s
      | .fir set => s.reloadSet false set
      | .pfb set => s.reloadSet true set)

end Sys2Proof.Machine
end

