-- ==== Sys2Proof/Machine/CmdFe.lean ====
section
/-! DEFINITION. The F-engine commands: INPUT_MAP, FE_SET, COEFF_LOAD, DELAY_SET, GAIN_SET and DETECT_READ (R141–R148,
R155, R161, R164, R167, R375–R381). Checks read each input as it will stand once every change it waits for has
applied. -/
namespace Sys2Proof.Machine

/-! ### Inputs as they will stand -/

/-- The settings of an input with all its waiting changes. -/
def FeInput.next (x : FeInput) : FeInput := (x.changes.map (·.2)).foldl FeInput.change x

/-- All inputs as they will stand. -/
def State.nextInputs (s : State) : List FeInput := s.fe.inputs.map FeInput.next

/-- R22: fs_in in kHz, twice for an IQ input. -/
def State.rateOf (s : State) (x : FeInput) : Nat :=
  match x.map with
  | some m => s.fsOf m * if m.iq then 2 else 1
  | none => 0

/-- The aggregate input rate, MS/s, rounded up. -/
def State.aggregate (s : State) (l : List FeInput) : Nat := ceilDiv ((l.map s.rateOf).sum) 1000

/-- R143: what the inputs of a stream share. -/
def State.streamKey (s : State) (x : FeInput) : List Nat :=
  match x.map with
  | some m => [s.fsOf m, pDec x.path, pLog2 x.path, pWidth x.path, flagBit x.realPfb 0]
  | none => []

/-- R143 holds of every stream. -/
def State.uniform (s : State) (l : List FeInput) : Bool :=
  (List.range 16).all fun st =>
    match (l.filter fun x => x.stream == some st).map s.streamKey with
    | [] => true
    | k :: t => t.all (· == k)

/-- R145: the input agrees with a descriptor of its stream. -/
def State.agrees (s : State) (x : FeInput) (d : StreamDesc) : Bool :=
  match x.map with
  | some m => s.fsOf m == d.fsKhz && x.dm == 2 ^ d.dmLog2 && x.nchan == d.nchan && (pWidth x.path == 1) == d.wide
  | none => true

/-- The descriptors, in force and pending, of a stream. -/
def State.descsOf (s : State) (st : Nat) : List StreamDesc := (s.desc st).toList ++ (s.pendingDesc st).toList

/-- R145 holds of an input. -/
def State.mapAgrees (s : State) (x : FeInput) : Bool :=
  match x.stream with
  | some st => (s.descsOf st).all (s.agrees x)
  | none => true

/-- R144: another peer supplies the input's global group. -/
def State.sourceClash (s : State) (x : FeInput) : Bool :=
  match x.map with
  | some m => (s.plane.streams ++ s.plane.pendingStreams).any fun d =>
      d.sourceOf (m.gid / 16) != 0xFF && d.sourceOf (m.gid / 16) != s.plane.peerId
  | none => false

/-- R147: fields of a path word, for the kind of input; `any` where the kind is not known. -/
def pathBad (f : FEngine) (iq : Option Bool) (w : BitVec 64) : Bool :=
  let complexPfb := pDec w != 0 || iq == some true
  let lo := if iq.isNone || complexPfb then 7 else 8
  let hi := if complexPfb then 13 else 14
  bits w.toNat 63 56 != 0 || bit w.toNat 24 || pTaps w < 4 || pTaps w > 16 || pLog2 w < lo || pLog2 w > hi
    || pDec w > 5 || pPreset w > 4 || pWidth w > 1 || pTest w > 2 || pDetLog2 w < 6 || pDetLog2 w > 24
    || pSegLog2 w < 4 || pSegLog2 w > 12 || pFftShift w ≥ 2 ^ pLog2 w
    || (pDec w == 5 && pPreset w < 2)
    || (pDec w != 0 && pPreset w == 4 && !f.fir.any fun e => e.1 == pFirSet w)
    || (pPfbSet w != 0 && !f.pfb.any fun e => e.1 == pPfbSet w && e.2.2.2.length == pTaps w * 2 ^ pLog2 w)

/-- R147: distinct prototypes in use: each triple of set 0, a loaded set once. -/
def prototypes (l : List FeInput) : Nat :=
  let keys := (l.filter fun x => x.map.isSome).map fun x =>
    if pPfbSet x.path = 0 then (0, pTaps x.path, pLog2 x.path) else (pPfbSet x.path, 0, 0)
  (keys.foldl (fun (k : List (Nat × Nat × Nat)) e => if k.contains e then k else e :: k) []).length

/-! ### Waiting for a frame boundary (R148) -/

/-- The first channel sample of an input's grid at or after time t. -/
def State.gridFrom (s : State) (x : FeInput) (t : Nat) : Nat :=
  match x.map with
  | none => 0
  | some m => ceilDiv ((t - s.inputEpoch x) * s.fsOf m) (x.dm * 1000000 * 65536)

/-- The frame with which the named inputs of one stream begin: the next that none of them has begun, and none before the
scheduled time. -/
def State.beginFrame (s : State) (named : List Nat) (t : Nat) (st : Option Nat) : Nat :=
  let l := (named.map s.input).filter fun x => st.isSome && x.stream == st
  maxOf (l.map fun x => max ((x.frame.getD 0) + 1) (if t > s.now then s.gridFrom x t else 0))

/-- Changes reach an input: at once where it takes no samples yet, else with frame j. -/
def State.queueChanges (i j : Nat) (l : List FeChange) (s : State) : State :=
  let f := s.fe
  s.updInput i fun x =>
    if x.arrived = 0 then (x.applyChanges f 0 l) else { x with changes := x.changes ++ l.map fun c => (j, c) }

/-- The changes of one command, by input, with its commit time. -/
def State.addChanges (l : List (Nat × List FeChange)) (t : Nat) (s : State) : State :=
  let named := l.map (·.1)
  l.foldl (fun u e =>
    let x := s.input e.1
    let own := max ((x.frame.getD 0) + 1) (if t > s.now then s.gridFrom x t else 0)
    u.queueChanges e.1 (max own (s.beginFrame named t x.stream)) e.2) s

/-! ### INPUT_MAP (R141–R145, R376) -/

/-- An entry: input, mapping, whether it unmaps. -/
structure MapEntry where
  input : Nat
  m : InMap
  unmap : Bool
  fmtBad : Bool
  reserved : Bool

def mapEntry (b : List Byte) (o : Nat) : MapEntry :=
  let f := u8 b (o + 5)
  let st := u8 b (o + 7)
  { input := u16 b o
    m := { link := u16 b (o + 2), conv := u8 b (o + 4), iq := f % 4 == 1, ovr := bit f 2, n := u8 b (o + 6)
           stream := if st = 0xFF then none else some st, gid := u16 b (o + 8) }
    unmap := bit f 7, fmtBad := f % 4 > 1 || bits f 6 3 != 0, reserved := !zeroAt b (o + 10) 2 }

/-- R141, R142: an entry out of range. -/
def State.mapEntryBad (s : State) (e : MapEntry) : Bool :=
  e.input > 511 || e.fmtBad || e.reserved || (!e.unmap && (
    e.m.link > 511 || e.m.n < 8 || e.m.n > 16 || e.m.gid > 16383 || (match e.m.stream with | some st => st > 15 | none => false)
    || (match s.linkNamed e.m.link with
      | some k => e.m.conv + (if e.m.iq then 1 else 0) ≥ k.m || e.m.n > k.nprime
          || (if e.m.iq then k.fsKhz < 50000 || k.fsKhz > 2000000 else k.fsKhz < 100000 || k.fsKhz > 4000000)
      | none => s.present 7 (e.m.link / 8))))

def MapEntry.changes (e : MapEntry) : List FeChange := [if e.unmap then .unmap else .mapTo e.m]

/-- R141: no global input ID twice. -/
def gidsDistinct (l : List FeInput) : Bool :=
  let g := l.filterMap fun x => x.map.map (·.gid)
  g.zipIdx.all fun e => !((g.take e.2).contains e.1)

def inputMapBody (p : Pkt) (s : State) : Body :=
  let n := u16 p.b 16
  let es := (List.range n).map fun i => mapEntry p.b (20 + 12 * i)
  let after := es.foldl (fun (l : List FeInput) e => l.modify e.input fun x => e.changes.foldl FeInput.change x) s.nextInputs
  let placed := es.filter fun e => !e.unmap
  let touched := placed.map fun e => after.getD e.input {}
  let rate := s.aggregate after
  { words := 5 + 3 * n
    checks := [
      p.noTarget, p.reserved [(18, 2)], failIf (n > 512 || es.any s.mapEntryBad) stParam,
      failIf (!gidsDistinct after || touched.any (fun x => pathBad s.fe (some x.iq) x.path) || !s.uniform after) stParam,
      firstFailure (placed.map fun e => unitAbsent s 7 (e.m.link / 8)), firstFailure (placed.map fun e => unitFault s 7 (e.m.link / 8)),
      failIf (touched.any fun x => s.sourceClash x || !s.mapAgrees x) stState,
      if rate ≤ s.aggregate s.nextInputs then none else shortOf stResource 9 rate 256000]
    effect := fun t =>
      (t.addChanges ((es.filter fun e => !(e.unmap && (s.nextInputs.getD e.input {}).map.isNone
          && !es.any fun f => f.input == e.input && !f.unmap)).map fun e => (e.input, e.changes)) p.commitAt,
        { r0 := rate }, .done) }

def execInputMap (src : Source) (s : State) : Host.Outcome State Fault Refusal :=
  settleFlags s (runOp 0x20 inputMapBody src true .failed s)

/-! ### FE_SET (R146, R147, R377) -/

/-- The changes that an entry's WRITE bits select. -/
def feChanges (b : List Byte) (o : Nat) : List FeChange :=
  let w := u8 b (o + 2)
  (if bit w 0 then [.path (BitVec.ofNat 64 (u64 b (o + 8)))] else [])
    ++ (if bit w 1 then [.freq (BitVec.ofNat 48 (u48 b (o + 16)))] else [])
    ++ (if bit w 2 then [.phase (BitVec.ofNat 48 (u48 b (o + 22)))] else [])
    ++ (if bit w 3 then [.seed (BitVec.ofNat 32 (u32 b (o + 4)))] else [])

def feSetBody (p : Pkt) (s : State) : Body :=
  let n := u16 p.b 16
  let es : List (Nat × Nat) := (List.range n).map fun i => (u16 p.b (20 + 32 * i), 20 + 32 * i)
  let start := s.nextInputs
  let after := es.foldl (fun (l : List FeInput) e => l.modify e.1 fun x =>
    if x.map.isSome then (feChanges p.b e.2).foldl FeInput.change x else x) start
  let touched := es.map fun e => after.getD e.1 {}
  { words := 5 + 8 * n
    checks := [
      p.noTarget, p.reserved ((18, 2) :: es.flatMap fun e => [(e.2 + 3, 1), (e.2 + 28, 4)]),
      failIf (n > 512 || es.any fun e => e.1 > 511 || u8 p.b (e.2 + 2) > 15) stParam,
      failIf (es.any fun e => bit (u8 p.b (e.2 + 2)) 0 &&
        pathBad s.fe (((start.getD e.1 {}).map).map (·.iq)) (BitVec.ofNat 64 (u64 p.b (e.2 + 8)))) stParam,
      failIf (!s.uniform after) stParam,
      failIf (touched.any fun x => x.map.isNone || !s.mapAgrees x) stState,
      shortOf stResource 14 (prototypes after) 4]
    effect := okWith (State.addChanges (es.map fun e => (e.1, feChanges p.b e.2)) p.commitAt) }

def execFeSet (src : Source) (s : State) : Host.Outcome State Fault Refusal :=
  settleFlags s (runOp 0x21 feSetBody src true .failed s)

/-! ### COEFF_LOAD (R155, R157, R378) -/

/-- The first ceil(N/2) coefficients, mirrored (R155). -/
def mirror (n : Nat) (l : List Int) : List Int := l ++ (l.take (n / 2)).reverse

/-- Values a load carries in all (R378). -/
def loadTotal (pfb : Bool) (taps log2 : Nat) : Nat := if pfb then taps * 2 ^ log2 else (taps + 1) / 2

/-- The set a COEFF_LOAD read names. -/
def State.coeffSet (s : State) (b : List Byte) : List Int :=
  if u8 b 16 = 4 then ((s.fe.pfb.find? fun e => e.1 == u8 b 17).map (·.2.2.2)).getD []
  else if u8 b 18 = 4 then ((s.fe.fir.find? fun e => e.1 == u8 b 17).map (·.2)).getD []
  else (List.range (presetTaps (u8 b 18))).map (presetTap (u8 b 18) (2 ^ u8 b 19))

/-- Fields out of range for the action. -/
def coeffBad (b : List Byte) : Bool :=
  let a := u8 b 16
  let load := a == 1 || a == 2
  let taps := u16 b 22
  a == 0 || a > 4 || u8 b 20 > 1 || u8 b 17 > 15 || ((a == 2 || a == 4) && u8 b 17 == 0)
    || (a == 1 && (taps < 16 || taps > 384))
    || (a == 2 && (taps < 4 || taps > 16 || u8 b 24 < 7 || u8 b 24 > 14))
    || (a == 3 && (u8 b 18 > 4 || (u8 b 18 < 4 && (u8 b 19 == 0 || u8 b 19 > 5 || (u8 b 19 == 5 && u8 b 18 < 2)))))
    || (!load && u32 b 32 != 0) || (load && (u64 b 40 != 0 || u32 b 48 != 0))

/-- A set is replaced in one step: the path change of the inputs that use it (R155), which hold no older copy of it. -/
def State.loadSet (pfb : Bool) (set taps log2 : Nat) (v : List Int) (t : Nat) (s : State) : State :=
  let f := s.fe
  let f := if pfb then { f with pfb := (f.pfb.filter fun e => e.1 != set) ++ [(set, taps, log2, v)] }
    else { f with fir := (f.fir.filter fun e => e.1 != set) ++ [(set, mirror taps v)] }
  let s := ({ s with fe := f }).reloaded pfb set
  let users := (List.range 512).filter fun i => (s.input i).usesSet pfb set
  s.addChanges (users.map fun i => (i, [.coeffs])) t

def coeffLoadBody (p : Pkt) (s : State) : Body :=
  let a := u8 p.b 16
  let pfb := a == 2
  let set := u8 p.b 17
  let load := a == 1 || a == 2
  let last := bit (u8 p.b 20) 0
  let off := u32 p.b 28
  let n := u32 p.b 32
  let taps := u16 p.b 22
  let v : List Int := (List.range (min n 16384)).map fun i => sext 32 (u32 p.b (56 + 4 * i))
  let total := loadTotal pfb taps (u8 p.b 24)
  let staged := if off = 0 then [] else (s.teller.staging.map (·.values)).getD []
  { words := 14 + n
    checks := [
      p.noTarget, p.reserved [(21, 1), (25, 3), (36, 4), (52, 4)],
      failIf (coeffBad p.b) stParam, if load then none else p.destBad 40 48,
      failIf (load && v.any fun x => x != clampBits 18 x) stParam,
      failIf (load && last && (off + n != total || (pfb && s.nextInputs.any fun x =>
        x.usesSet true set && pTaps x.path * 2 ^ pLog2 x.path != total))) stParam,
      failIf (load && off != 0 && (match s.teller.staging with
        | some g => g.pfb != pfb || g.set != set || g.values.length != off
        | none => true)) stState]
    effect := fun t =>
      if load then
        let all := staged ++ v
        if last then
          ((t.updTeller fun x => { x with staging := none }).loadSet pfb set taps (u8 p.b 24) all p.commitAt, { r0 := all.length }, .done)
        else
          (t.updTeller fun x => { x with
            staging := some { pfb := pfb, set := set, taps := taps, log2 := u8 p.b 24, values := all } }, { r0 := all.length }, .done)
      else
        let c := t.coeffSet p.b
        p.bulk 40 48 (c.flatMap fun x => leInt 4 x) c.length id t }

def execCoeffLoad (src : Source) (wr : Bool) (s : State) : Host.Outcome State Fault Refusal :=
  settleFlags s (runOp 0x22 coeffLoadBody src wr .failed s)

/-! ### DELAY_SET (R160, R161, R379) -/

/-- Clerks a system kernel can be given: usable and held by nobody (R21). -/
def State.freeClerks (s : State) : List Nat :=
  (List.range 16).filter fun n => s.usable 2 n && (s.clerk n).owner.isNone && !(s.clerk n).system

/-- Clerks become a system kernel's, held by the product it serves if any: reset state, its image running (R285). -/
def State.takeClerks (owner : Option Handle) (l : List Nat) (s : State) : State :=
  l.foldl (fun s n => s.updClerk n fun c => { c.kept with system := true, owner := owner, running := true }) s

/-- Clerks are held by nobody; their data memories keep their contents. -/
def State.dropClerks (l : List Nat) (s : State) : State :=
  l.foldl (fun (s : State) n => s.updClerk n fun c => c.kept) s

/-- R353, code 6: n more clerks than are held now. -/
def State.clerkShort (n : Nat) (s : State) : Option Res :=
  shortOf stResource 6 (s.countUsable 2 - s.freeClerks.length + n) (s.countUsable 2)

/-- Clerks a stream's delay kernel lacks for n inputs with delays. -/
def State.delayNeed (s : State) (key n : Nat) : Nat :=
  ceilDiv n 256 - (((s.fe.delayClerks.find? fun e => e.1 == key).map (·.2)).getD []).length

/-- Inputs of a stream that have or get a delay model. -/
def State.delayed (s : State) (l : List Nat) (key : Nat) : Nat :=
  (List.range 512).countP fun i =>
    let x := (s.input i).next
    x.map.isSome && delayKey x == key && (l.contains i || (s.input i).poly.isSome || (s.input i).polyNext.isSome)

def delayPoly (b : List Byte) (o : Nat) : DelayPoly :=
  let w (k : Nat) : BitVec 64 := BitVec.ofNat 64 (u64 b (o + k))
  { epoch := (fullOf b (o + 8)).getD 0, c0 := w 24, c1 := w 32, c2 := w 40, c3 := w 48, fLo := w 56, ph0 := w 64 }

def delaySetBody (p : Pkt) (s : State) : Body :=
  let n := u16 p.b 16
  let es : List (Nat × Nat) := (List.range n).map fun i => (u16 p.b (24 + 72 * i), 24 + 72 * i)
  let named := es.map (·.1)
  let keys := (List.range 17).filter fun k => named.any fun i => delayKey (s.input i).next == k
  let needs := keys.map fun k => (k, s.delayNeed k (s.delayed named k))
  let more := (needs.map (·.2)).sum
  let free := s.freeClerks
  { words := 6 + 18 * n
    checks := [
      p.noTarget, p.reserved ((18, 6) :: es.map fun e => (e.2 + 2, 6)),
      failIf (n > 512 || es.any fun e => e.1 > 511 || (fullOf p.b (e.2 + 8)).isNone
        || [24, 32, 40, 48, 56, 64].any fun k => !b64.isFinite (u64 p.b (e.2 + k) % 2 ^ 63)) stParam,
      failIf (named.any fun i => (s.input i).next.map.isNone) stState,
      s.clerkShort more]
    effect := okWith fun t =>
      let t := (needs.foldl (fun (acc : State × List Nat) e =>
        let l := acc.2.take e.2
        let old := ((acc.1.fe.delayClerks.find? fun d => d.1 == e.1).map (·.2)).getD []
        let f := acc.1.fe
        let f := { f with delayClerks := (f.delayClerks.filter fun d => d.1 != e.1) ++ [(e.1, old ++ l)] }
        (({ acc.1 with fe := f } : State).takeClerks none l, acc.2.drop e.2)) (t, free)).1
      es.foldl (fun t e => t.updInput e.1 fun x => { x with polyNext := some (p.commitAt + 50 * tickUs, delayPoly p.b e.2) }) t }

def execDelaySet (src : Source) (s : State) : Host.Outcome State Fault Refusal :=
  settleFlags s (runOp 0x23 delaySetBody src true .failed s)

/-! ### GAIN_SET (R163, R164, R380) -/

/-- The offsets of the blocks, and the bytes of the packet they end at. -/
def gainBlocks (b : List Byte) : Nat → Nat → List Nat × Nat
  | 0, o => ([], o)
  | n + 1, o => let (l, e) := gainBlocks b n (o + 8 + 4 * u16 b (o + 4)); (o :: l, e)

def gainSetBody (p : Pkt) (s : State) : Body :=
  let (bs, stop) := gainBlocks p.b (u16 p.b 16) 20
  let inputOf (o : Nat) : FeInput := (s.input (u16 p.b o)).next
  { words := stop / 4
    checks := [
      p.noTarget, p.reserved ((18, 2) :: bs.map fun o => (o + 6, 2)),
      failIf (bs.any fun o => u16 p.b o > 511 ||
        ((inputOf o).map.isSome && u16 p.b (o + 2) + u16 p.b (o + 4) > (inputOf o).nchan)) stParam,
      failIf (bs.any fun o => (inputOf o).map.isNone) stState]
    effect := okWith fun t => bs.foldl (fun t o =>
      let g := (List.range (u16 p.b (o + 4))).map fun i =>
        (p.commitAt, u16 p.b (o + 2) + i, BitVec.ofNat 32 (u32 p.b (o + 8 + 4 * i)))
      t.updInput (u16 p.b o) fun x => { x with gainsNext := x.gainsNext ++ g }) t }

def execGainSet (src : Source) (s : State) : Host.Outcome State Fault Refusal :=
  settleFlags s (runOp 0x24 gainSetBody src true .failed s)

/-! ### DETECT_READ (R167, R381) -/

/-- The record of an input; an unmapped input's holds only INPUT. -/
def State.detectRecord (s : State) (i : Nat) : List Byte :=
  let x := s.input i
  if x.map.isNone then slice (le 2 i) 0 64
  else
    let d := x.det
    let head := if d.record.isEmpty then le 2 i ++ [0] ++ le 1 (pDetLog2 x.path) else d.record
    slice head 0 40 ++ le 4 d.satReq ++ le 4 d.satFir ++ le 4 d.satFft ++ le 2 d.parity ++ le 2 d.coarseStep ++ le 2 d.delayRange
      ++ le 2 d.delayLate ++ List.replicate 4 0

def Detector.clear (d : Detector) : Detector :=
  { d with satReq := 0, satFir := 0, satFft := 0, parity := 0, coarseStep := 0, delayRange := 0, delayLate := 0 }

def detectReadBody (p : Pkt) (_ : State) : Body :=
  let first := u16 p.b 16
  let n := u16 p.b 18
  let all := (List.range n).map (first + ·)
  { words := 10
    checks := [
      p.noTarget, p.reserved [(21, 3), (36, 4)], failIf (u8 p.b 20 > 1 || n == 0 || first + n > 512) stParam, p.destBad 24 32]
    effect := fun t =>
      let clear (u : State) : State :=
        if bit (u8 p.b 20) 0 then all.foldl (fun u i => u.updInput i fun x => { x with det := x.det.clear }) u else u
      let (t, r, a) := p.bulk 24 32 (all.flatMap t.detectRecord) 0 clear t
      if r.status = stOk then (t, { r with r0 := r.r1 / 64 }, a) else (t, r, a) }

def execDetectRead (src : Source) (wr : Bool) (s : State) : Host.Outcome State Fault Refusal :=
  settleFlags s (runOp 0x25 detectReadBody src wr .failed s)

end Sys2Proof.Machine
end

