-- ==== Sys2Proof/Machine/Admission.lean ====
section
/-! DEFINITION. Admission (01_signal_journey.md, R18–R28; R88, R112, R180–R191, R218, R230, R253, R352, R353): what each
product needs, the pools of ranks, and the first resource that a change would exceed. -/
namespace Sys2Proof.Machine

/-! ### Fractions of a second -/

def Frac.min (a b : Frac) : Frac := if a.le b then a else b
def Frac.div (a b : Frac) : Frac := if b.num ≤ 0 then ⟨0, 1⟩ else ⟨a.num * b.den, a.den * b.num.toNat⟩
def Frac.sum (l : List Frac) : Frac := l.foldl Frac.add ⟨0, 1⟩
def Frac.nat (n : Nat) : Frac := ⟨n, 1⟩

/-- The least whole number not below a fraction. -/
def Frac.ceil (a : Frac) : Nat := ((a.num + (a.den : Int) - 1) / a.den).toNat

/-! ### Products -/

def Xprod.compact (x : Xprod) : Bool := x.flags.getLsbD 0
def Xprod.aligned (x : Xprod) : Bool := x.flags.getLsbD 1
def Xprod.stochastic (x : Xprod) : Bool := x.flags.getLsbD 2
def Xprod.merge (x : Xprod) : Bool := x.flags.getLsbD 3
def Xprod.discard (x : Xprod) : Bool := x.flags.getLsbD 4
def Xprod.shared (x : Xprod) : Bool := x.flags.getLsbD 5

/-- P of R24: group pairs. -/
def pairsOf (g : Nat) : Nat := g * (g + 1) / 2
def Xprod.pairs (x : Xprod) : Nat := pairsOf x.ngroups

/-- Words of one record's state: 256 visibilities of 16 B, or of 8 B (R195, R196). -/
def Xprod.recWords (x : Xprod) : Nat := if x.compact then 256 else 512

/-- State copies (R202). -/
def Xprod.copies (x : Xprod) : Nat := if x.aligned then 2 else 1

/-- KIND of a beam product (R386): 1 VOLT8, 2 VOLT16F, 3 POWER. -/
def Beam.kind (b : Beam) : Nat := b.flags.toNat % 4
def Beam.fp (b : Beam) : Bool := b.flags.getLsbD 2
def Beam.stochastic (b : Beam) : Bool := b.flags.getLsbD 3
def Beam.discard (b : Beam) : Bool := b.flags.getLsbD 4
def Beam.nbb (b : Beam) : Nat := (b.beams + 31) / 32
def Beam.wb (b : Beam) : Nat := if b.fp then 4 else 2

/-- Double groups (R528). -/
def doubles (g : Nat) : Nat := (g + 1) / 2

/-- Channels of a product's range that the package owns under a descriptor. -/
def State.ownedIn (s : State) (d : StreamDesc) (first n : Nat) : List Nat :=
  ((List.range n).map (first + ·)).filter (s.owns d)

/-- The package's peer ID owns the channels of a stream under a descriptor, in force or pending: the larger count (R383). -/
def State.ownedMax (s : State) (st first n : Nat) : Nat :=
  maxOf ((s.descsOf st).map fun d => (s.ownedIn d first n).length)

/-! ### Needs of R24, R191, R230, R253 -/

/-- r, channel samples per second (R143). -/
def StreamDesc.rate (d : StreamDesc) : Frac := ⟨d.fsKhz * 1000, 2 ^ d.dmLog2⟩

/-- L of R23. -/
def StreamDesc.lateSlots (d : StreamDesc) : Nat :=
  max 1 ((Frac.div (Frac.mul ⟨d.lateness, 1000000000⟩ d.rate) (Frac.nat 64)).ceil)

/-- The window of R191 for n channel samples, in seconds; none where it is not positive. -/
def StreamDesc.window (d : StreamDesc) (n : Nat) : Option Frac :=
  let full := Frac.div (Frac.nat n) d.rate
  let late := ((Frac.div (Frac.nat (n + 128 * d.lateSlots)) d.rate).sub ⟨d.emitDelay + d.lateness, 1000000000⟩).sub ⟨263, 10000000⟩
  let w := Frac.min full late
  if w.num ≤ 0 then none else some w

/-- XA cycles of a second. -/
def xaHz : Frac := Frac.nat 1250000000

/-- Bricks per channel on n_r ranks (R191). -/
def bricksOf (h nr : Nat) : Nat :=
  ((List.range (ceilDiv h 8)).map fun j => ceilDiv (min (8 * j + 8) h) nr).sum

/-- Cycles of a pass of n samples (R188). -/
def passCycles (wide : Bool) (n : Nat) : Nat := max 128 (if wide then n else n / 2) + 16

/-- What a product needs (R24, R27): Vault read and write in bytes a second, load of its pool, formatter cycles a second,
egress bits a second. -/
structure Needs where
  read : Frac := ⟨0, 1⟩
  write : Frac := ⟨0, 1⟩
  corr : Frac := ⟨0, 1⟩
  beam : Frac := ⟨0, 1⟩
  cycles : Frac := ⟨0, 1⟩
  wire : Frac := ⟨0, 1⟩
  /-- the window of R191 is not positive -/
  closed : Bool := false

/-- Formatter cycles of a record (R253). -/
def formatCycles (bytes : Nat) : Nat := 8 + (bytes + 255) / 256

/-- Bits a second of a record stream on a port: whole records in datagrams of the port's MTU (R87, R88). -/
def Egress.wireBits (e : Egress) (size : Nat) (rate : Frac) : Frac :=
  let n := max 1 ((e.mtu - 28) / size)
  Frac.div (Frac.mul rate (Frac.nat (8 * (n * size + 66 + if e.tagged then 4 else 0)))) (Frac.nat n)

/-- Bytes of a VIS record (R214). -/
def Xprod.recBytes (x : Xprod) : Nat := 64 + 8 * x.recWords

/-- A correlation product of c channels on n_r ranks, under a descriptor; `extra` cycles a pass where a scheduled map cuts
it (R191). -/
def State.xprodNeeds (s : State) (d : StreamDesc) (nr extra c : Nat) (x : Xprod) : Needs :=
  let state := Frac.nat (x.pairs * 256 * c * (if x.compact then 8 else 16))
  let drain := Frac.div (Frac.mul state d.rate) (Frac.nat x.tsub)
  let recRate := Frac.div (Frac.mul (Frac.nat (x.pairs * c)) d.rate) (Frac.nat (x.k * x.tsub))
  let load := match d.window x.tsub with
    | some w => Frac.div (Frac.nat (c * bricksOf (doubles x.ngroups) (max nr 1) * (passCycles x.wide x.tsub + extra))) (Frac.mul w xaHz)
    | none => ⟨0, 1⟩
  { read := drain.add (Frac.mul load (Frac.nat 1920000000000)), write := drain, corr := load
    cycles := Frac.mul recRate (Frac.nat (formatCycles x.recBytes + if x.merge then 16 else 0))
    wire := (s.egressOf x.egress).wireBits x.recBytes recRate
    closed := (d.window x.tsub).isNone }

/-- Bytes of a BEAM record (R233). -/
def Beam.recBytes (b : Beam) : Nat :=
  match b.kind with
  | 1 => 4176
  | 2 => 8272
  | _ => 80 + 128 * b.nbb

/-- A beam product of c channels on n_b ranks (R230). -/
def State.beamNeeds (s : State) (d : StreamDesc) (nb c : Nat) (b : Beam) : Needs :=
  let h8 := ceilDiv (doubles b.ngroups) 8
  let sweeps := ceilDiv b.nbb (max nb 1) * h8
  let sweep := max 128 (if b.wide || b.fp then b.tb else b.tb / 2) + 32
  let load := Frac.div (Frac.mul (Frac.nat (c * sweeps * sweep)) d.rate) (Frac.mul (Frac.nat b.tb) xaHz)
  let weights := Frac.div (Frac.mul (Frac.nat (c * b.nbb * h8 * 8192 * b.wb)) d.rate) (Frac.nat b.tb)
  let recRate := if b.kind = 3 then Frac.div (Frac.mul (Frac.nat c) d.rate) (Frac.nat (b.kb * b.tb))
    else Frac.div (Frac.mul (Frac.nat (c * b.nbb)) d.rate) (Frac.nat 64)
  { read := weights.add (Frac.mul load (Frac.nat 640000000000)), beam := load
    cycles := Frac.mul recRate (Frac.nat (formatCycles b.recBytes))
    wire := (s.egressOf b.egress).wireBits b.recBytes recRate
    closed := (d.window b.tb).isNone }

/-- Corner-turn writes of a ring of c columns: n × c × r × s bytes a second (R24), once for all that share it. -/
def StreamDesc.ctWrite (d : StreamDesc) (ngroups c : Nat) (wide : Bool) : Frac :=
  Frac.mul (Frac.nat (16 * ngroups * c * if wide then 2 else 1)) d.rate

/-! ### Pools of ranks (R18, R179, R180, R211, R218) -/

/-- Ranks of the device. -/
def State.rankCount (s : State) : Nat := if s.fuse.variant == .l then 8 else 16

/-- Every position of a rank holds a tile in service. -/
def State.rankWhole (s : State) (r : Nat) : Bool :=
  r < s.rankCount && (s.xa.rank r).all fun t => match t with | some t => s.usable 1 t | none => false

def State.ranksIn (s : State) (role : RankRole) : List Nat :=
  (List.range 16).filter fun r => s.xa.roles.getD r .free == role

/-- A pool is held (R180, R218). -/
def State.corrHeld (s : State) : Bool :=
  s.handles.live.any fun e => match e.obj with | .xprod _ => e.st.active | _ => false
def State.beamHeld (s : State) : Bool :=
  s.handles.live.any fun e => match e.obj with | .beam _ => e.st.active | _ => false

/-- Ranks the CORR pool has, or would have: while it is not held it takes every whole rank outside the BEAM pool. -/
def State.corrRanks (s : State) : List Nat :=
  if s.corrHeld then s.ranksIn .corr
  else (List.range 16).filter fun r => s.rankWhole r && s.xa.roles.getD r .free != .beam

/-- The highest n ranks a first BEAM_CREATE can take: whole, and not of a held CORR pool. -/
def State.beamRanks (s : State) (n : Nat) : List Nat :=
  let l := (List.range 16).filter fun r => s.rankWhole r && !(s.corrHeld && s.xa.roles.getD r .free == .corr)
  l.drop (l.length - n)

/-- Ranks take their roles. -/
def State.setRoles (corr beam : List Nat) (s : State) : State :=
  let role (r : Nat) : RankRole := if beam.contains r then .beam else if corr.contains r then .corr else .free
  s.updXa fun x => { x with roles := (List.range 16).map role }

/-! ### Totals -/

/-- The live products. -/
def State.xprods (s : State) : List (Handle × Xprod) :=
  s.handles.live.filterMap fun e => match e.obj with | .xprod x => some (e.h, x) | _ => none
def State.beams (s : State) : List (Handle × Beam) :=
  s.handles.live.filterMap fun e => match e.obj with | .beam b => some (e.h, b) | _ => none

/-- Capture reads to egress count at their stated rate (R250, R88). -/
def State.captureWire (s : State) (lane : Nat) : Frac :=
  Frac.sum (s.handles.live.map fun e => match e.obj with
    | .capture c => match c.reading with
      | some r => if bit r.flags.toNat 0 && r.port == lane then Frac.nat (r.rate * 1000000) else ⟨0, 1⟩
      | none => ⟨0, 1⟩
    | _ => ⟨0, 1⟩)

/-- The bits a second that an egress port may be given: 90 % of its payload rate (R88). -/
def State.egressLimit (s : State) (lane : Nat) : Nat := if (s.octet (lane / 8)).rate == 0 then 9000 else 22500

/-- The sum of needs over all live products under the descriptors that `pick` gives. -/
structure Totals where
  read : Frac
  write : Frac
  corr : Frac
  beam : Frac
  cycles : Frac
  wire : List (Nat × Frac)
  corrClosed : Bool
  beamClosed : Bool

def State.totals (s : State) (pick : Nat → Option StreamDesc) (extra : Nat) (nr nb : Nat) : Totals :=
  let xs := s.xprods.filterMap fun e => (pick e.2.stream).map fun d =>
    (e.2.egress, s.xprodNeeds d nr extra (s.ownedMax e.2.stream e.2.firstChan e.2.nchan) e.2)
  let bs := s.beams.filterMap fun e => (pick e.2.stream).map fun d =>
    (e.2.egress, s.beamNeeds d nb (s.ownedMax e.2.stream e.2.firstChan e.2.nchan) e.2)
  let all := xs ++ bs
  let ct := s.xa.rings.filterMap fun r => (pick r.stream).map fun d =>
    d.ctWrite r.ngroups (s.ownedMax r.stream r.firstChan r.nchan) r.wide
  let lanes := (all.map (·.1)).foldl (fun (l : List Nat) i => if l.contains i then l else l ++ [i]) []
  { read := Frac.sum (all.map fun (e : Nat × Needs) => e.2.read)
    write := (Frac.sum (all.map fun (e : Nat × Needs) => e.2.write)).add (Frac.sum ct)
    corr := Frac.sum (xs.map fun (e : Nat × Needs) => e.2.corr)
    beam := Frac.sum (bs.map fun (e : Nat × Needs) => e.2.beam)
    cycles := Frac.sum (all.map fun (e : Nat × Needs) => e.2.cycles)
    wire := lanes.map fun i => (i, (Frac.sum ((all.filter fun e => e.1 == i).map fun (e : Nat × Needs) => e.2.wire)).add (s.captureWire i))
    corrClosed := xs.any fun (e : Nat × Needs) => e.2.closed
    beamClosed := bs.any fun (e : Nat × Needs) => e.2.closed }

/-- Pages a region of n bytes takes. -/
def pagesFor (bytes : Nat) : Nat := (bytes + 65535) / 65536

/-- DATA that a descriptor routes through the port to a peer, bits a second (R112): 8,240 B for each group this package
supplies and each block the peer owns a channel of, each slot. -/
def State.fabricBits (s : State) (d : StreamDesc) (peer : Nat) : Frac :=
  let groups := d.source.countP (· == s.plane.peerId)
  let blocks := (List.range d.blocks).countP fun b => (d.blockOwners b).contains peer
  Frac.div (Frac.mul (Frac.nat (groups * blocks * 8240 * 8)) d.rate) (Frac.nat d.l)

/-- Mbit/s a fabric port may be given: 90 % of w × the lane payload rate (R112). -/
def State.fabricLimit (s : State) (p : Nat) : Nat := s.portWidth p * ratePayload (s.octet p).rate.toNat * 9 / 10000

/-- R112 over every bound port under a list of descriptors. -/
def State.fabricShort (s : State) (l : List StreamDesc) : Option Res :=
  firstFailure ((List.range 64).map fun p =>
    let e := (s.port p).entry
    if e.bound && (s.octet p).role == 2 then
      let need := Frac.sum (l.map fun d => s.fabricBits d e.peer)
      shortOf stResource 7 (Frac.div need (Frac.nat 1000000)).ceil (s.fabricLimit p)
    else none)

/-- A load in parts per million, rounded up. -/
def Frac.ppm (f : Frac) : Nat := (Frac.mul f (Frac.nat 1000000)).ceil
def Frac.mega (f : Frac) : Nat := (Frac.div f (Frac.nat 1000000)).ceil

/-- The first resource that fails (R27, R353), over a state that already holds what is asked for: `pages` the pages it
would use, the system reserve with them, `clerks` the clerks it takes beyond those held. -/
def State.admission (s : State) (pick : Nat → Option StreamDesc) (maps : List (List StreamDesc)) (extra pages clerks nr nb : Nat) :
    Option Res :=
  let t := s.totals pick extra nr nb
  firstFailure ([
    shortOf stFit 1 pages s.pageCapacity,
    shortOf stFit 2 t.read.mega s.portLimit,
    shortOf stFit 3 t.write.mega s.portLimit,
    if t.corrClosed || (nr = 0 && !s.xprods.isEmpty) then some { status := stResource, r0 := 4, r1 := 0xFFFFFFFF, r2 := 1000000 }
      else shortOf stResource 4 t.corr.ppm 1000000,
    if t.beamClosed || (nb = 0 && !s.beams.isEmpty) then some { status := stResource, r0 := 5, r1 := 0xFFFFFFFF, r2 := 1000000 }
      else shortOf stResource 5 t.beam.ppm 1000000,
    s.clerkShort clerks]
    ++ maps.map s.fabricShort
    ++ t.wire.map (fun e => shortOf stResource 8 e.2.mega (s.egressLimit e.1))
    ++ [shortOf stResource 10 (Frac.div t.cycles (Frac.nat 1000)).ceil 500000])

/-- The descriptor that sizes a product: in force, else pending. -/
def State.sizing (s : State) (st : Nat) : Option StreamDesc := (s.descsOf st).head?

/-- Admission of a state with its own maps. -/
def State.admits (s : State) (pages clerks nr nb : Nat) : Option Res :=
  let maps := s.plane.streams :: (if s.plane.pending.isSome then [s.plane.pendingStreams] else [])
  s.admission s.sizing maps 0 pages clerks nr nb

end Sys2Proof.Machine
end

