-- ==== Sys2Proof/Machine/CornerTurn.lean ====
section
/-! DEFINITION. Corner-turn rings (R24, R25, R183–R185), DATA packets as they are formed and received (R97, R98, R119–R122,
R171–R173), and slots starting. -/
namespace Sys2Proof.Machine

/-! ### Geometry of a ring -/

def CtRing.l (r : CtRing) : Nat := slotLen r.wide

/-- Words of one column: Q positions × groups × 1,024 B. -/
def CtRing.columnWords (r : CtRing) : Nat := r.q * r.ngroups * 128

/-- Word of a ring: column, position, group, word. -/
def CtRing.word (r : CtRing) (col pos g i : Nat) : Nat :=
  regionWord r.pages (col * r.columnWords + (pos * r.ngroups + g) * 128 + i)

/-- Q of R183 for T_sub channel samples. -/
def StreamDesc.ringSlots (d : StreamDesc) (tsub : Nat) : Nat := 2 * (tsub + 64 * d.lateSlots) / d.l

/-- Pages of a ring of c columns and Q positions (R24, R25). -/
def ringPages (ngroups c q : Nat) : Nat := pagesFor (ngroups * c * q * 1024)

/-- The ring that a product of these inputs, channels and width would share (R25). -/
def State.ringLike (s : State) (d : StreamDesc) (firstGroup ngroups firstChan nchan : Nat) : Option CtRing :=
  s.xa.rings.find? fun r => r.stream == d.id && r.firstGroup == firstGroup && r.ngroups == ngroups
    && r.firstChan == firstChan && r.nchan == nchan && r.wide == d.wide && r.epoch == d.epoch

def State.ring? (s : State) (id : Nat) : Option CtRing := s.xa.rings.find? fun r => r.id == id
def State.updRing (id : Nat) (f : CtRing → CtRing) (s : State) : State :=
  s.updXa fun x => { x with rings := x.rings.map fun r => if r.id == id then f r else r }

/-- The column of a channel for slot k: its place among the channels owned under the map for that slot. -/
def State.ringCol (s : State) (r : CtRing) (k ch : Nat) : Option Nat :=
  match s.descFor r.stream k with
  | none => none
  | some d =>
    let l := s.ownedIn d r.firstChan r.nchan
    if l.contains ch && l.idxOf ch < r.c then some (l.idxOf ch) else none

/-- Words of one cell of the ring, as they stand. -/
def State.cellWords (s : State) (r : CtRing) (col pos g : Nat) : List VWord :=
  (List.range 128).map fun i => s.vword (s.placed (r.word col pos g i))

def State.putVWord (w : Nat) (v : VWord) (s : State) : State :=
  s.updVault fun x => { x with words := Memory.set {} x.words w v }

/-- The flags that a ring of Q positions keeps: those of its last Q slots, each at the position of its slot. -/
def CtRing.lastCells (r : CtRing) (q : Nat) : List CtCell :=
  let top := maxOf (r.cells.map (·.slot))
  (r.cells.filter fun x => top < x.slot + q).map fun x => { x with pos := x.slot % q }

/-- R25: a ring takes c columns of Q positions on the given pages; what it keeps moves with its slot. -/
def State.resizeRing (r : CtRing) (q c : Nat) (pages : List Nat) (s : State) : State :=
  let held := r.cells.flatMap fun x => (List.range r.c).map fun col => (x, col, s.cellWords r col x.pos (x.group - r.firstGroup))
  let kept := held.filter fun e => e.2.1 < c && (r.lastCells q).any fun x => x.slot == e.1.slot
  let r2 : CtRing := { r with q := q, c := c, pages := pages, cells := r.lastCells q }
  if q = r.q then s.updRing r.id fun _ => r2
  else
    let s := (held.flatMap fun e => (List.range 128).map fun i => r.word e.2.1 e.1.pos (e.1.group - r.firstGroup) i).foldl
      (fun s w => s.putVWord (s.placed w) {}) s
    let s := kept.foldl (fun s e => (e.2.2.zipIdx).foldl (fun s v =>
      s.putVWord (s.placed (r2.word e.2.1 (e.1.slot % q) (e.1.group - r.firstGroup) v.2)) v.1) s) s
    s.updRing r.id fun _ => r2

/-- The last user of a ring leaves: it is released (R25). -/
def State.leaveRing (id : Nat) (h : Handle) (s : State) : State :=
  match s.ring? id with
  | none => s
  | some r =>
    if r.users.all (· == h) then (s.releasePages r.pages).updXa fun x => { x with rings := x.rings.filter fun r => r.id != id }
    else s.updRing id fun r => { r with users := r.users.filter (· != h) }

/-! ### Flags and data of a position (R183–R185) -/

/-- The cell of slot k, group g and channel block b, if its position holds that slot. -/
def CtRing.cell (r : CtRing) (k g b : Nat) : Option CtCell :=
  r.cells.find? fun x => x.slot == k && x.group == g && x.block == b

/-- V of slot k (R183). -/
def CtRing.valid (r : CtRing) (k g b : Nat) : Bool := match r.cell k g b with | some x => x.valid | none => false
def CtRing.settling (r : CtRing) (k g b : Nat) : Bool := match r.cell k g b with | some x => x.settling | none => false

/-- The words of a position of a ring. -/
def CtRing.posWords (r : CtRing) (pos : Nat) : List Nat :=
  (List.range r.c).flatMap fun col => (List.range (r.ngroups * 128)).map fun i =>
    regionWord r.pages (col * r.columnWords + pos * r.ngroups * 128 + i)

/-- A position is cleared for slot k: data and flags (R183); it leaves a retired page (R303). -/
def State.clearPos (r : CtRing) (k : Nat) (s : State) : State :=
  let pos := k % max r.q 1
  let s := (r.posWords pos).foldl (fun s w => s.putVWord (s.placed w) {}) s
  let s := s.turnWords (r.posWords pos)
  s.updRing r.id fun r => { r with cells := r.cells.filter fun x => x.pos != pos }

/-- 128 words of 8 B from 1,024 bytes. -/
def wordsOf (b : List Byte) : List (BitVec 64) := (List.range 128).map fun i => BitVec.ofNat 64 (u64 b (8 * i))

/-- The 1,024 bytes of one channel of a payload (R98). -/
def payloadChannel (wide : Bool) (b : List Byte) (c : Nat) : List Byte :=
  let n := if wide then 32 else 16
  (List.range (slotLen wide)).flatMap fun t => slice b ((t * 8 + c) * n) n

/-- A packet's owned channels enter one ring (R120 step 8). -/
def State.writeRing (r : CtRing) (k g b flags : Nat) (payload : List Byte) (s : State) : State :=
  let valid := bit flags 0 && !bit flags 1 && !bit flags 3
  let pos := k % max r.q 1
  let stale := r.cells.any fun x => x.pos == pos && x.slot != k
  let s := if stale then s.clearPos r k else s
  let s := (List.range 8).foldl (fun s c =>
    match s.ringCol r k (8 * b + c) with
    | none => s
    | some col => ((wordsOf (payloadChannel r.wide payload c)).zipIdx).foldl (fun s e =>
        s.setWord (s.placed (r.word col pos (g - r.firstGroup) e.2)) e.1 false) s) s
  let cell : CtCell := { pos := pos, group := g, block := b, slot := k, valid := valid, settling := bit flags 1 }
  s.updRing r.id fun r => { r with cells := (r.cells.filter fun x => !(x.slot == k && x.group == g && x.block == b)) ++ [cell] }

/-- A packet enters every ring of its stream. -/
def State.writeRings (st k g b flags : Nat) (payload : List Byte) (s : State) : State :=
  (s.xa.rings.filter fun r => r.stream == st && r.firstGroup ≤ g && g < r.firstGroup + r.ngroups
    && r.firstChan < 8 * b + 8 && 8 * b < r.firstChan + r.nchan).foldl (fun s r => s.writeRing r k g b flags payload) s

/-- The bytes of words. -/
def bytesOfWords (l : List (BitVec 64)) : List Byte := l.flatMap fun w => le 8 w.toNat

/-- One complex sample of a channel's 1,024 bytes: time t, input i. -/
def sampleOf (wide : Bool) (b : List Byte) (t i : Nat) : Int × Int :=
  if wide then (sext 8 (u8 b (2 * (t * 16 + i))), sext 8 (u8 b (2 * (t * 16 + i) + 1)))
  else (sext 4 (u8 b (t * 16 + i)), sext 4 (u8 b (t * 16 + i) / 16))

/-- What the distributor delivers of one group, channel and slot: nothing where V is clear; else 1,024 bytes, and whether all of
them could be read. -/
abbrev Operand := Option (List Byte × Bool)

/-- The data of an operand as the tiles take them. -/
def Operand.bytes (o : Operand) : Option (List Byte) := o.map (·.1)

/-- V stood, and no uncorrectable read has cleared it (R193). -/
def Operand.valid (o : Operand) : Bool := match o with | some v => v.2 | none => false

/-- R184, R185: the operand of one group, channel and slot. A word that cannot be read clears V and counts for the product, and the
data are zero from it on, for the other lanes of the same brick too; what was read before it stays. -/
def State.operand (id k g ch : Nat) (brick : List Nat) (count : State → State) (s : State) : Operand × State :=
  match s.ring? id with
  | none => (none, s)
  | some r =>
    let cell := r.cell k g (ch / 8)
    let struck : Option Nat := (cell.bind (·.struck)).bind fun e => if e.1 == brick then some e.2 else none
    if !r.valid k g (ch / 8) && struck.isNone then (none, s)
    else match s.ringCol r k ch with
    | none => (none, s)
    | some col =>
      let base := col * r.columnWords + (k % max r.q 1 * r.ngroups + (g - r.firstGroup)) * 128
      let upTo (n : Nat) (l : List (BitVec 64 × Bool)) : List Byte := bytesOfWords (l.zipIdx.map fun e => if e.2 < n then e.1.1 else 0)
      match struck with
      | some n => (some (upTo n (s.readWords srcFetch r.pages base 128).1, false), s)
      | none =>
        let (l, s) := s.readWords srcFetch r.pages base 128
        match l.findIdx? (·.2) with
        | some n =>
          let s := s.updRing id fun r => { r with cells := r.cells.map fun x =>
            if x.slot == k && x.group == g && x.block == ch / 8 then { x with valid := false, struck := some (brick, n) } else x }
          (some (upTo n l, false), count s)
        | none => (some (bytesOfWords (l.map (·.1)), true), s)

/-! ### Received DATA (R119–R122) -/

/-- R121: the sequence of a credited packet that passed step 4. -/
def State.noteSeq (p seq : Nat) (s : State) : State :=
  let d := (seq + 65536 - (s.port p).seqRx) % 65536
  if 1 ≤ d && d ≤ 32767 then
    s.updPort p fun q => { q with seqRx := seq, cnt := { q.cnt with seqGap := satAdd 32 q.cnt.seqGap (d - 1) } }
  else s.countPort p fun c => { c with seqGap := satAdd 32 c.seqGap 1 }

/-- CRC of DATA and PARTIAL: header before it, then the payload (R96). -/
def bulkCrcOk (head : Nat) (b : List Byte) : Bool := u32 b (head - 4) == crc32c (b.take (head - 4) ++ b.drop head)

/-- R120 step 3. -/
def State.dataFormOk (s : State) (b : List Byte) : Bool :=
  let st := u8 b 6
  let slot := u48 b 12
  u8 b 0 == 1 && u8 b 1 == 1 && u8 b 2 < 32 && u8 b 3 < 32 && u8 b 7 < 32 && u16 b 8 < 4096 && u16 b 10 < 4096 && zeroAt b 20 8
    && match (s.descFor st slot).or (s.desc st) with
      | some d => d.firstGroup ≤ u16 b 8 && u16 b 8 < d.firstGroup + d.ngroups && u16 b 10 < d.blocks && bit (u8 b 7) 4 == d.wide
      | none => false

/-- R120 steps 5–8 of a packet from the port's peer. -/
def State.dataIn (p : Nat) (b : List Byte) (s : State) : State :=
  let st := u8 b 6
  let g := u16 b 8
  let blk := u16 b 10
  let k := u48 b 12
  let now := s.now
  match s.descFor st k with
  | none => s.countPort p fun c => { c with dropNotOwner := satAdd 32 c.dropNotOwner 1 }
  | some d =>
    if d.sourceOf g != u8 b 2 || !(d.blockOwners blk).contains s.plane.peerId then
      s.countPort p fun c => { c with dropNotOwner := satAdd 32 c.dropNotOwner 1 }
    else if now < d.slotStart k then s.countPort p fun c => { c with dropEarly := satAdd 32 c.dropEarly 1 }
    else if d.deadline k < now then s.countPort p fun c => { c with dropLate := satAdd 32 c.dropLate 1 }
    else if s.plane.accepted.contains (st, g, blk, d.slotStart k) then s.countPort p fun c => { c with dropDup := satAdd 32 c.dropDup 1 }
    else
      let (d2, s) := s.takeFree 64
      let s := s.updPort p fun q => { q with
        rxHeld := q.rxHeld ++ [now + d2 % (2000 * tickNs + 1)], rxReleased := q.rxReleased - 1
        cnt := { q.cnt with rxData := satAdd 32 q.cnt.rxData 1 } }
      let live := s.plane.accepted.filter fun e => now ≤ e.2.2.2 + 8 * tickSec
      let s := { s with plane := { s.plane with accepted := live ++ [(st, g, blk, d.slotStart k)] } }
      s.writeRings st k g blk (u8 b 7) (b.drop 32)

/-- A credited packet arrives: with none of the 32 buffers free it is discarded (R105, R131), and gives its credit back once the
receiver has finished with it; then come steps 2–4 that DATA and PARTIAL share. `form` is step 3, `act` the rest. -/
def State.creditedIn (p : Nat) (b : List Byte) (len head : Nat) (form : Bool) (seq : Nat) (act : State → State) (s : State) : State :=
  let up := (s.port p).state == .up
  let s := s.updPort p (Port.finish s.now)
  let full := 32 ≤ (s.port p).rxHeld.length
  let s := if up then s.creditOne p else s
  if (up && full) || b.length != len then s.countUnsound p .form
  else if !bulkCrcOk head b then s.countUnsound p .crc
  else if !form || !up || !s.addressed p (u8 b 2) (u8 b 3) (u16 b 4) then s.countUnsound p .form
  else act (s.noteSeq p seq)

def execDataReceive (port : Nat) (a : Arrival) (s : State) : Host.Outcome State Fault Refusal :=
  settleFlags s (s.portIn port false a fun b s =>
    s.creditedIn port b 8224 32 (s.dataFormOk b) (u16 b 18) fun s => s.dataIn port b)

/-! ### Packing DATA (R163, R164, R171–R173) -/

/-- Gains whose time has come by the slot's start apply (R164). -/
def FeInput.applyGains (x : FeInput) (t : Nat) : FeInput :=
  let due := x.gainsNext.filter fun g => g.1 ≤ t
  { x with
    gains := due.foldl (fun (l : List (Nat × BitVec 32)) g => (l.filter fun e => e.1 != g.2.1) ++ [(g.2.1, g.2.2)]) x.gains
    gainsNext := x.gainsNext.filter fun g => t < g.1 }

def FeInput.gain (x : FeInput) (c : Nat) : BitVec 32 := ((x.gains.find? fun e => e.1 == c).map (·.2)).getD unitGain

/-- One input's slot: for each time its channel parts and whether each was clamped; none where no sample was formed. -/
structure SlotInput where
  gid : Nat
  times : List (Option (List ((Int × Int) × Bool)))
  settling : Bool
  invalid : Bool
  test : Bool

def FeInput.slotData (x : FeInput) (wide : Bool) (epoch first l gid : Nat) : SlotInput :=
  let at_ (t : Nat) : Option SpecSample := x.spec.find? fun v => v.epoch == epoch && v.j == first + t
  let g := (((List.range l).filterMap at_).head?.map (·.gshift)).getD (pGshift x.path)
  let all := (List.range l).map at_
  { gid := gid
    times := all.map fun v => v.map fun v => v.chans.zipIdx.map fun e => requantise wide g (x.gain e.2) e.1
    settling := all.any fun v => match v with | some v => v.settling | none => true
    invalid := all.any fun v => match v with | some v => v.invalid | none => false
    test := all.any fun v => match v with | some v => v.test | none => false }

/-- Channel samples that were clamped (R163). -/
def SlotInput.clamped (x : SlotInput) : Nat := ((x.times.map fun t => match t with | some l => l.countP (·.2) | none => 0)).sum

/-- The bytes of a sample (R98). -/
def sampleBytes (wide : Bool) (v : Int × Int) : List Byte :=
  if wide then leInt 1 v.1 ++ leInt 1 v.2 else le 1 (wrapBits 4 v.1 + 16 * wrapBits 4 v.2)

/-- A channel value of an input at a time; zero where none was formed. -/
def SlotInput.value (x : SlotInput) (t c : Nat) : (Int × Int) × Bool :=
  match x.times.getD t none with
  | some l => l.getD c ((0, 0), false)
  | none => ((0, 0), false)

/-- Payload of a group and block (R98): 16 inputs, zeros where none is mapped. -/
def packPayload (wide : Bool) (l : List SlotInput) (g blk : Nat) : List Byte × Bool :=
  let xs := (List.range 16).map fun i => l.find? fun x => x.gid == 16 * g + i
  let cells := (List.range (slotLen wide)).flatMap fun t => (List.range 8).flatMap fun c => xs.map fun x =>
    match x with | some x => x.value t (8 * blk + c) | none => ((0, 0), false)
  (cells.flatMap fun v => sampleBytes wide v.1, cells.any (·.2))

/-- FLAGS of R172. -/
def packFlags (wide sat : Bool) (l : List SlotInput) : Nat :=
  flagBit (!l.any (·.invalid)) 0 + flagBit (l.any (·.settling)) 1 + flagBit sat 2 + flagBit (l.any (·.test)) 3 + flagBit wide 4

/-- R110, R173: a packet towards its owner: own channels to the corner turn, the rest to a port or dropped. The looped-back packet meets no
test of its deadline (R16; DESIGN CHOICE, notes/assumptions/148.md). -/
def State.sendData (d : StreamDesc) (k g blk flags owner : Nat) (payload : List Byte) (s : State) : State :=
  if owner == s.plane.peerId then s.writeRings d.id k g blk flags payload
  else match s.portOfPeer owner with
  | none => s.updHealth fun h => { h with noPortDrop := satAdd 32 h.noPortDrop 1 }
  | some p =>
    if (s.port p).state != .up || (s.port p).txData.length ≥ 64 then
      s.countPort p fun c => { c with txDrop := satAdd 32 c.txDrop 1 }
    else
      let head := [1, 1] ++ le 1 s.plane.peerId ++ le 1 owner ++ le 2 s.plane.planeId.toNat ++ le 1 d.id ++ le 1 flags ++ le 2 g
        ++ le 2 blk ++ le 6 k ++ List.replicate 14 0
      s.updPort p fun q => { q with txData := q.txData ++ [{ stream := d.id, deadline := d.deadline k, bytes := head ++ payload }] }

/-- A CHAN44 capture keeps the payloads of its groups and blocks (R246). -/
def State.capturePacked (st k g blk flags : Nat) (payload : List Byte) (s : State) : State :=
  let keep (e : Entry) : Entry := match e.obj with
    | .capture c =>
      if c.format == 2 && c.stream == st && (e.st == .running || e.st == .armed || e.st == .stopping) && c.firstGroup ≤ g && g < c.firstGroup + c.ngroups
          && c.firstBlock ≤ blk && blk < c.firstBlock + c.nblocks then
        { e with obj := .capture { c with packed := c.packed ++ [(k, g, blk, flags, payload)] } }
      else e
    | _ => e
  { s with handles := { s.handles with live := s.handles.live.map keep } }

/-- The local inputs of a stream. -/
def State.streamInputs (s : State) (st : Nat) : List Nat := (List.range 512).filter fun i => (s.input i).stream == some st

/-- R171, R176: the slot has ended, and every channel sample of it that will come has been formed: the input's next frame on the
slot's grid lies behind it, or its frames stand on a later grid. -/
def State.slotFormed (s : State) (d : StreamDesc) (k : Nat) : Bool :=
  d.slotStart (k + 1) ≤ s.now && (s.streamInputs d.id).all fun i =>
    let x := s.input i
    let fs := (x.map.map s.fsOf).getD 0
    if s.inputEpoch x = d.epoch then x.arrived = 0 || fs = 0 || (k + 1) * d.l ≤ x.nextFrame fs d.epoch
    else !s.onGrid d.id d

/-- The next slot of a stream to pack on a grid. -/
def State.packedNext (s : State) (st epoch : Nat) : Nat :=
  ((s.fe.packed.find? fun e => e.1 == st && e.2.1 == epoch).map (·.2.2)).getD 0

def State.setPacked (st epoch k : Nat) (s : State) : State :=
  { s with fe := { s.fe with packed := (s.fe.packed.filter fun e => !(e.1 == st && e.2.1 == epoch)) ++ [(st, epoch, k)] } }

/-- The descriptor under which slot k is packed: a former one whose slots are not yet all packed comes first (R133, R171). -/
def State.packDesc (s : State) (st k : Nat) : Option StreamDesc :=
  let open_ (e : Former) : Bool := s.packedNext st e.desc.epoch ≤ k && s.now ≤ e.desc.deadline k
  (((s.formers st k).find? open_).map (·.desc)).or (s.descFor st k)

/-- Slots are packed in turn; slots of which no local input formed any sample may be passed over. -/
def State.packsNext (s : State) (d : StreamDesc) (k : Nat) : Bool :=
  let next := s.packedNext d.id d.epoch
  next ≤ k && (s.streamInputs d.id).all fun i => (s.input i).spec.all fun v => !(v.epoch == d.epoch && next * d.l ≤ v.j && v.j < k * d.l)

/-- R171–R173: the packets of slot k, ascending GROUP then BLOCK. -/
def State.slotPack (d : StreamDesc) (k : Nat) (s : State) : State :=
  let l := d.l
  let t0 := d.slotStart k
  let ins := s.streamInputs d.id
  let s := ins.foldl (fun s i => s.updInput i fun x => x.applyGains t0) s
  let data := ins.filterMap fun i => (s.input i).map.map fun m => (i, (s.input i).slotData d.wide d.epoch (k * l) l m.gid)
  let s := data.foldl (fun s e => s.updInput e.1 fun x => { x with
    det := { x.det with satReq := satAdd 32 x.det.satReq e.2.clamped }, spec := x.spec.filter fun v => v.epoch != d.epoch || (k + 1) * l ≤ v.j }) s
  let s := s.setPacked d.id d.epoch (k + 1)
  let groups := ((List.range d.ngroups).map (d.firstGroup + ·)).filter fun g =>
    d.sourceOf g == s.plane.peerId && data.any fun e => e.2.gid / 16 == g
  groups.foldl (fun s g =>
    let xs := (data.map (·.2)).filter fun x => x.gid / 16 == g
    (List.range d.blocks).foldl (fun s blk =>
      let owners := d.blockOwners blk
      if owners.isEmpty && !(s.handles.live.any fun e => match e.obj with | .capture c => c.format == 2 | _ => false) then s
      else
        let (payload, sat) := packPayload d.wide xs g blk
        let flags := packFlags d.wide sat xs
        let s := s.capturePacked d.id k g blk flags payload
        owners.foldl (fun s o => s.sendData d k g blk flags o payload) s) s) s

def execSlotPack (stream slot : Nat) (s : State) : Host.Outcome State Fault Refusal :=
  settleFlags s (
    if s.teller.safe || !s.plane.joined then s
    else match s.packDesc stream slot with
    | none => s
    | some d => if s.packsNext d slot && s.slotFormed d slot then s.slotPack d slot else s)

end Sys2Proof.Machine
end

