-- ==== Sys2Proof/Machine/Egress.lean ====
section
/-! DEFINITION. Egress: records, datagrams and frames (R85–R89, R212, R251). -/
namespace Sys2Proof.Machine

/-- The header of R212 before its CRC. -/
structure RecordHead where
  rtype : Nat
  flags : Nat
  chan : Nat
  handle : Handle
  pair : Nat
  slots : Nat
  start : Nat
  t0 : BitVec 64
  t1 : BitVec 64
  tally : Nat
  seq : Nat
  digest : Nat

/-- A record: header, CRC-32C over bytes 0–59 and the payload (R212), payload. -/
def RecordHead.record (h : RecordHead) (payload : List Byte) : List Byte :=
  let head : List Byte := [0x5A, 0x43, 0x58, 0x52] ++ le 1 (1 + 16 * h.rtype) ++ le 1 h.flags ++ le 2 h.chan ++ le 4 h.handle.toNat
    ++ le 3 h.pair ++ le 3 h.slots ++ le 6 h.start ++ le 8 h.t0.toNat ++ le 8 h.t1.toNat ++ le 8 h.tally ++ le 8 h.seq ++ le 4 h.digest
  head ++ le 4 (crc32c (head ++ payload)) ++ payload

/-- The IPv4 header (R86). -/
def Egress.ipHead (e : Egress) (n : Nat) : List Byte :=
  let head (sum : Nat) : List Byte := [0x45] ++ le 1 (e.dscp.toNat * 4) ++ be 2 (28 + n) ++ be 2 e.ident.toNat ++ [0x40, 0x00]
    ++ le 1 e.ttl ++ [17] ++ be 2 sum ++ e.srcIp ++ e.dstIp
  head (inetSum (head 0))

/-- The UDP header with its checksum over the pseudo header, or 0 (R86). A computed sum of zero is sent as ones. -/
def Egress.udpHead (e : Egress) (data : List Byte) : List Byte :=
  let n := data.length
  let head (sum : Nat) : List Byte := be 2 e.srcPort.toNat ++ be 2 e.dstPort.toNat ++ be 2 (8 + n) ++ be 2 sum
  let sum := inetSum (e.srcIp ++ e.dstIp ++ [0, 17] ++ be 2 (8 + n) ++ head 0 ++ data)
  head (if e.checksum then (if sum = 0 then 0xFFFF else sum) else 0)

/-- An Ethernet frame of whole records, its padding and its frame check sequence with it (R86). -/
def Egress.frame (e : Egress) (data : List Byte) : List Byte :=
  let tag : List Byte := if e.tagged then [0x81, 0x00] ++ be 2 e.tci.toNat else []
  let body := e.dstMac ++ e.srcMac ++ tag ++ [0x08, 0x00] ++ e.ipHead data.length ++ e.udpHead data ++ data
  let body := body ++ List.replicate (60 - body.length) 0
  body ++ le 4 (crc32 body)

/-- TX_POWER is ON (R89). -/
def State.txOn (s : State) (lane : Nat) : Bool := (s.lane lane).txPower == 0

/-- R89: records dropped for want of a transmitter. -/
def State.dropRecords (lane n : Nat) (s : State) : State :=
  s.updLane lane fun l => { l with roleEvent := satAdd 32 l.roleEvent n }

/-- A frame is given to the transmitter of a lane (R85). -/
def State.sendFrame (lane : Nat) (b : List Byte) (s : State) : State :=
  (s.updLane lane fun l => { l with line := l.line ++ etherBlocks b }).emit (.frame lane b)

/-- The records of a product's open datagram. -/
def Egress.openOf (e : Egress) (h : Handle) : List (List Byte) := ((e.datagrams.find? fun d => d.1 == h).map (·.2)).getD []
def Egress.setOpen (e : Egress) (h : Handle) (l : List (List Byte)) : Egress :=
  { e with datagrams := (e.datagrams.filter fun d => d.1 != h) ++ if l.isEmpty then [] else [(h, l)] }

/-- R87: the open datagram of a product on a port leaves. -/
def State.closeDatagram (lane : Nat) (h : Handle) (s : State) : State :=
  let e := s.egressOf lane
  let l := e.openOf h
  if l.isEmpty then s
  else
    let s := if s.txOn lane then s.sendFrame lane (e.frame l.flatten) else s.dropRecords lane l.length
    s.updEgress lane fun e => { e.setOpen h [] with ident := if s.txOn lane then e.ident + 1 else e.ident }

/-- Every open datagram of a port leaves. -/
def State.closeDatagrams (lane : Nat) (s : State) : State :=
  ((s.egressOf lane).datagrams.map Prod.fst).foldl (fun (s : State) h => s.closeDatagram lane h) s

/-- R87: a record joins the open datagram of its product, or closes it and begins the next. -/
def State.postBytes (lane : Nat) (h : Handle) (b : List Byte) (s : State) : State :=
  if !s.txOn lane then s.dropRecords lane 1
  else
    let e := s.egressOf lane
    let s := if e.mtu - 28 < (e.openOf h).flatten.length + b.length then s.closeDatagram lane h else s
    s.updEgress lane fun e => e.setOpen h (e.openOf h ++ [b])

/-- R87: 10 µs without a further record of the product. -/
def execDatagramCloseTimeout (lane : Nat) (h : Handle) (s : State) : Host.Outcome State Fault Refusal :=
  settleFlags s (if s.teller.safe || !(s.octet (lane / 8)).isEgress then s else s.closeDatagram lane h)

/-- HOLDOVER of a window: the Timekeeper was in holdover at some time from its start to now (R213). -/
def State.heldSince (s : State) (t0 : Nat) : Bool := s.tk.state != .locked || t0 < s.tk.lockSince

/-- DIGEST of R215 and R234. -/
def digestOf (block image extra : List Byte) : Nat := crc32 (patch block 2 [0, 0] ++ image ++ extra)

/-- The record of a closed value (R212–R216, R232–R234). -/
def Closed.record (c : Closed) (digest seq : Nat) : List Byte :=
  let head : RecordHead := {
    rtype := c.rtype, flags := c.flags.toNat, chan := c.chan, handle := c.handle, pair := c.pair, slots := c.stop - c.start, start := c.start
    t0 := shortTime false c.holdover c.t0, t1 := shortTime false c.holdover c.t1, tally := c.tally, seq := seq, digest := digest }
  head.record c.payload

def XCounters.posted (x : XCounters) (flags : BitVec 8) : XCounters :=
  { x with
    records := satAdd 64 x.records 1
    short := satAdd 32 x.short (flagBit (flags.getLsbD 0) 0)
    merged := satAdd 32 x.merged (flagBit (flags.getLsbD 1) 0)
    poisoned := satAdd 32 x.poisoned (flagBit (flags.getLsbD 2) 0) }

/-- R216, R217, R268: a closed value is posted as the next record of its product. -/
def State.postClosed (c : Closed) (s : State) : State :=
  match (s.find c.handle).map Entry.obj with
  | some (.xprod x) =>
    let s := s.postBytes x.egress c.handle (c.record (digestOf x.block c.image []) x.seq)
    s.updXprod c.handle fun x => { x with seq := (x.seq + 1) % 2 ^ 64, cnt := x.cnt.posted c.flags }
  | some (.beam b) =>
    let s := s.postBytes b.egress c.handle (c.record (digestOf b.block c.image (le 4 c.weightCrc)) b.seq)
    s.updBeam c.handle fun b => { b with seq := (b.seq + 1) % 2 ^ 64, cnt := b.cnt.posted c.flags }
  | _ => s

/-- R268: a record whose header is lost: SEQUENCE passes over it and POISONED counts it. -/
def State.dropClosed (c : Closed) (s : State) : State :=
  match (s.find c.handle).map Entry.obj with
  | some (.xprod _) =>
    s.updXprod c.handle fun x => { x with seq := (x.seq + 1) % 2 ^ 64, cnt := { x.cnt with poisoned := satAdd 32 x.cnt.poisoned 1 } }
  | some (.beam _) =>
    s.updBeam c.handle fun b => { b with seq := (b.seq + 1) % 2 ^ 64, cnt := { b.cnt with poisoned := satAdd 32 b.cnt.poisoned 1 } }
  | _ => s

end Sys2Proof.Machine
end

