-- ==== Sys2Proof/Machine/XRecords.lean ====
section
/-! DEFINITION. Records of correlation products in the Vault (R187, R193–R205, R207, R208): the grid and its pieces, the
state words, how a drain and an add act on them, and closing. -/
namespace Sys2Proof.Machine

/-! ### The grid of sub-integrations (R187, R205) -/

def Xprod.l (x : Xprod) : Nat := slotLen x.wide

/-- Slots of one sub-integration. -/
def Xprod.subSlots (x : Xprod) : Nat := x.tsub / x.l

/-- First slot of grid sub-integration sub. -/
def Xprod.subStart (x : Xprod) (sub : Nat) : Nat := x.origin + sub * x.subSlots

/-- The slots at which a map took effect for a stream, inside (a, b). -/
def State.cuts (s : State) (st a b : Nat) : List Nat :=
  let l := (s.plane.old.filterMap fun e => if e.desc.id == st && s.onGrid st e.desc then some e.stop else none)
    ++ (s.plane.starts.filterMap fun e => if e.1 == st then some e.2 else none)
  ((List.range (b - a)).map (a + ·)).filter fun k => a < k && l.contains k

/-- A stretch of slots cut at the given points. -/
def cutAt (b : Nat) : Nat → List Nat → List (Nat × Nat)
  | a, [] => if a < b then [(a, b)] else []
  | a, c :: t => (a, c) :: cutAt b c t

/-- The pieces of a stretch of a stream's slots, truncated by a stop. -/
def State.piecesOf (s : State) (st a n : Nat) (stop : Option Nat) : List (Nat × Nat) :=
  let b := match stop with | some e => min e (a + n) | none => a + n
  cutAt b a (s.cuts st a b)

/-- The pieces of grid sub-integration sub of a product (R204, R205). -/
def State.pieces (s : State) (x : Xprod) (sub : Nat) : List (Nat × Nat) :=
  s.piecesOf x.stream (x.subStart sub) x.subSlots x.stopSlot

def Beam.l (b : Beam) : Nat := slotLen b.wide
def Beam.spanSlots (b : Beam) : Nat := b.tb / b.l
def Beam.spanStart (b : Beam) (span : Nat) : Nat := b.origin + span * b.spanSlots

/-- The pieces of a span (R221, R229). -/
def State.spanPieces (s : State) (b : Beam) (span : Nat) : List (Nat × Nat) :=
  s.piecesOf b.stream (b.spanStart span) b.spanSlots b.stopSlot

/-! ### Records -/

/-- R200: the close phase. -/
def Xprod.phase (x : Xprod) (p ch : Nat) : Nat :=
  if x.aligned then 0 else (p * x.k / max x.pairs 1 + ch) % max x.k 1

/-- The state copy that a sub-integration goes to (R202). -/
def Xprod.copyOf (x : Xprod) (sub : Nat) : Nat := if x.aligned then sub / max x.k 1 % 2 else 0

def Xprod.rec? (x : Xprod) (p ch c : Nat) : Option Rec := x.recs.find? fun r => r.pair == p && r.chan == ch && r.copy == c

/-- A record, or a fresh one: outside the region where its channel has left the package already (R205). -/
def Xprod.recOr (x : Xprod) (p ch c : Nat) : Rec :=
  (x.rec? p ch c).getD { pair := p, chan := ch, copy := c
                         moved := if x.cols.contains (some ch) then none else some (List.replicate x.recWords (0, {})) }

def Xprod.dropRec (x : Xprod) (r : Rec) : Xprod :=
  { x with recs := x.recs.filter fun q => !(q.pair == r.pair && q.chan == r.chan && q.copy == r.copy) }
def Xprod.putRec (x : Xprod) (r : Rec) : Xprod :=
  if (x.rec? r.pair r.chan r.copy).isSome then
    { x with recs := x.recs.map fun q => if q.pair == r.pair && q.chan == r.chan && q.copy == r.copy then r else q }
  else { x with recs := x.recs ++ [r] }

/-- The groups of a pair index: A and B with A ≤ B (R528). -/
def pairGroups : Nat → Nat → Nat → Nat × Nat
  | 0, b, p => (p, b)
  | f + 1, b, p => if p ≤ b then (p, b) else pairGroups f (b + 1) (p - b - 1)

/-- PAIR of R212: global groups. -/
def Xprod.pairField (x : Xprod) (p : Nat) : Nat :=
  let g := pairGroups x.ngroups 0 p
  x.firstGroup + g.1 + 4096 * (x.firstGroup + g.2)

/-- q of R197: pair index and channel. -/
def Rec.q (r : Rec) : Nat := r.pair * 16384 + r.chan

/-! ### State words (R195–R197, R199) -/

/-- The words of a record in the product's region. -/
def Xprod.recAddrs (x : Xprod) (r : Rec) : List Nat :=
  match x.cols.idxOf? (some r.chan) with
  | some col =>
    let base := ((col * x.copies + r.copy) * x.pairs + r.pair) * x.recWords
    (List.range x.recWords).map fun i => regionWord x.statePages (base + i)
  | none => []

/-- Read each of a list of words with one reader. -/
def State.readEach (read : Nat → State → BitVec 64 × Bool × State) : List Nat → State → List (BitVec 64 × Bool) × State
  | [], s => ([], s)
  | w :: t, s =>
    let (d, bad, s) := read w s
    let (l, s) := State.readEach read t s
    ((d, bad) :: l, s)

/-- Words that have left their columns, read where they were (R293). -/
def State.readMoved (src : Nat) : List (Nat × VWord) → State → List (BitVec 64 × Bool) × State
  | [], s => ([], s)
  | (w, x) :: t, s =>
    let (d, bad, s) := s.readHeld src w x
    let (l, s) := State.readMoved src t s
    ((d, bad) :: l, s)

/-- Moved words as a write leaves them. -/
def rewritten (old : List (Nat × VWord)) (l : List VWord) : List (Nat × VWord) := List.zipWith (fun o v => (o.1, v)) old l

/-- The words of a record as a reader finds them: value, and whether poisoned or uncorrectable. -/
def State.readRec (src : Nat) (read : Nat → State → BitVec 64 × Bool × State) (x : Xprod) (r : Rec) (s : State) :
    List (BitVec 64 × Bool) × State :=
  match r.moved with
  | some l => s.readMoved src l
  | none => s.readEach read ((x.recAddrs r).map s.placed)

/-- The adder's read of a record. -/
def State.adderRec (x : Xprod) (r : Rec) (s : State) : List (BitVec 64 × Bool) × State :=
  s.readRec srcAdder (fun w s => s.adderRead w) x r

/-- The vector engine's read of a record. -/
def State.vectorRec (x : Xprod) (r : Rec) (s : State) : List (BitVec 64 × Bool) × State :=
  s.readRec srcVector (fun w s => s.readWord srcVector w) x r

/-- Words as they are written: clean, or with the poison bit. -/
def vwordsOf (l : List (BitVec 64 × Bool)) : List VWord := l.map fun (v : BitVec 64 × Bool) => { data := v.1, poison := v.2 }

/-- A record's words are written: into the region, or where the record has been moved to. -/
def State.writeRec (x : Xprod) (r : Rec) (l : List (BitVec 64 × Bool)) (s : State) : Rec × State :=
  match r.moved with
  | some m => ({ r with moved := some (rewritten m (vwordsOf l)) }, s)
  | none => (r, (List.zip ((x.recAddrs r).map s.placed) l).foldl (fun s (e : Nat × (BitVec 64 × Bool)) => s.setWord e.1 e.2.1 e.2.2) s)

/-- mix of R197. -/
def mix64 (z : BitVec 64) : BitVec 64 :=
  let z := (z ^^^ (z >>> 30)) * 0xbf58476d1ce4e5b9
  let z := (z ^^^ (z >>> 27)) * 0x94d049bb133111eb
  z ^^^ (z >>> 31)

/-- sr_bits of R197. -/
def srBits (seed : BitVec 64) (sub q vis part : Nat) : Nat :=
  let z := mix64 (seed ^^^ mix64 (BitVec.ofNat 64 sub)) ^^^ BitVec.ofNat 64 (q * 512 + vis * 2 + part)
  (mix64 z >>> 40).toNat

/-- R196: one binary32 part of compact state plus an exact partial m × 2^e, rounded once. -/
def addPart (old : Nat) (m e : Int) (random : Option Nat) : Nat :=
  let o := b32.exact old
  let v := addExact o.1 o.2 m e
  match random with
  | some r => b32.stoch v.1 v.2 false r
  | none => b32.round v.1 v.2 false

/-- R195, R196, R199: state words after a drain of 256 partials; `over` takes the state as zero. -/
def Xprod.sumWords (x : Xprod) (sub q : Nat) (ovf poison : Bool) (old : List (BitVec 64 × Bool)) (parts : List (Int × Int)) :
    List (BitVec 64 × Bool) :=
  let was (i : Nat) : BitVec 64 × Bool := if ovf then (0, false) else old.getD i (0, true)
  if x.compact then
    parts.zipIdx.map fun (v : (Int × Int) × Nat) =>
      let o := was v.2
      let bitsOf (part : Nat) : Option Nat := if x.stochastic then some (srBits x.seed sub q v.2 part) else none
      let re := addPart (o.1.toNat % 2 ^ 32) v.1.1 0 (bitsOf 0)
      let im := addPart (o.1.toNat / 2 ^ 32) v.1.2 0 (bitsOf 1)
      (BitVec.ofNat 64 (re + im * 2 ^ 32), o.2 || poison)
  else
    (parts.flatMap fun v => [v.1, v.2]).zipIdx.map fun (v : Int × Nat) =>
      let o := was v.2
      (o.1 + BitVec.ofInt 64 v.1, o.2 || poison)

/-! ### Closing (R199, R203, R212–R214) -/

/-- Payload of a record, zero in place of each poisoned word. -/
def payloadOf (l : List (BitVec 64 × Bool)) : List Byte := l.flatMap fun v => le 8 (if v.2 then 0 else v.1.toNat)

/-- FLAGS of a VIS record: SHORT_CLOSE where R135 or R355 closes it, and where the window is short (R203). -/
def Xprod.recFlags (x : Xprod) (r : Rec) (poison : Bool) : BitVec 8 :=
  BitVec.ofNat 8 (flagBit (r.short || r.stop - r.start < x.k * x.subSlots) 0 + flagBit r.merged 1 + flagBit poison 2 + flagBit r.settled 3
    + flagBit x.compact 4 + flagBit x.aligned 5 + flagBit x.wide 6 + flagBit x.stochastic 7)

/-- The tally store's entry of a record is read (R194, R305): a correction is written back; one that cannot be read leaves the record
POISONED and its tally open. -/
def State.readTally (h : Handle) (r : Rec) (s : State) : Rec × State :=
  let (c, s) := eccClass r.tallyFlips s
  if c = 0 then (r, s)
  else
    let (off, s) := s.takeFree 21
    let s := s.memEvent 0 0xFF 6 (8 * off) h (c == 2) true
    if c = 1 then ({ r with tallyFlips := [] }, s)
    else
      let (v, s) := s.takeFree 64
      ({ r with tally := v, tallyFlips := [], tallyLost := true }, s)

/-- A record's value enters the close queue; its window ends at `stop`. -/
def State.closeRec (h : Handle) (x : Xprod) (r : Rec) (l : List (BitVec 64 × Bool)) (s : State) : Xprod × State :=
  let (r, s) := s.readTally h r
  let d := s.descFor x.stream (r.stop - 1)
  let time (k : Nat) : Nat := (d.map fun d => d.slotStart k).getD 0
  let c : Closed := {
    handle := h, rtype := 1, chan := r.chan, pair := x.pairField r.pair, start := r.start, stop := r.stop, tally := r.tally
    flags := x.recFlags r (r.tallyLost || l.any (·.2)), holdover := s.heldSince (time r.start), t0 := time r.start, t1 := time r.stop
    image := (d.map (·.image)).getD [], payload := payloadOf l }
  let stamp := s.stamp
  ({ x with cnt := { x.cnt with lastClose := stamp } }, s.updXa fun q => { q with closeQ := q.closeQ ++ [c] })

/-- A waiting record of the previous integration is read and emitted (R202). -/
def State.closeWaiting (h : Handle) (x : Xprod) (r : Rec) (s : State) : Xprod × State :=
  let (l, s) := s.vectorRec x r
  let (x, s) := s.closeRec h x r l
  (x.dropRec r, s)

/-- The waiting record with the lowest q. -/
def lowestQ (l : List Rec) : Option Rec :=
  l.foldl (fun b r => match b with | some c => if r.q < c.q then some r else some c | none => some r) none

/-- The waiting records for which p holds are emitted, in ascending q. -/
def State.closeAllWaiting (h : Handle) (p : Rec → Bool) : Nat → Xprod → State → Xprod × State
  | 0, x, s => (x, s)
  | n + 1, x, s =>
    match lowestQ (x.recs.filter fun r => r.waiting && p r) with
    | some r =>
      let (x, s) := s.closeWaiting h x r
      State.closeAllWaiting h p n x s
    | none => (x, s)

/-! ### Drains (R201–R205) -/

/-- What a drain adds to a record, after the words are written: tally, flags and window end. -/
def Rec.took (r : Rec) (it : DrainItem) (ovf : Bool) : Rec :=
  { r with
    drained := true
    start := if ovf then it.first else r.start
    stop := it.stop
    tally := (if ovf then 0 else r.tally) + it.tally
    tallyFlips := []
    tallyLost := !ovf && r.tallyLost
    settled := it.settled || (!ovf && r.settled)
    merged := !ovf && r.merged
    seeded := !ovf && r.seeded
    subint := it.subint }

/-- The adder applies a drain to a record: one that overwrites leaves a retired page (R303); the new words stand in the region and go with the answer. -/
def State.applyDrain (h : Handle) (x : Xprod) (it : DrainItem) (r : Rec) (ovf : Bool) (old : List (BitVec 64 × Bool)) (s : State) :
    Rec × List (BitVec 64 × Bool) × State :=
  let l := x.sumWords it.subint (it.pair * 16384 + it.chan) ovf it.poison old it.partials
  let s := if ovf && r.moved.isNone then s.turnWords (x.recAddrs r) else s
  let (r, s) := s.writeRec x r l
  let (r, s) := if ovf then (r, s) else s.readTally h r
  (r.took it ovf, l, s)

/-- R203, R355: the record flushes with the state a drain leaves; an abort may discard it. -/
def State.flushRec (h : Handle) (x : Xprod) (r : Rec) (l : List (BitVec 64 × Bool)) (s : State) : Xprod × State :=
  let r := { r with short := x.aborted || x.stopSlot != some r.stop }
  let (x, s) := if x.aborted && x.discard then (x, s) else s.closeRec h x r l
  if x.aborted then (x.putRec { pair := r.pair, chan := r.chan, copy := r.copy, done := true }, s) else (x.dropRec r, s)

/-- R201: a drain under rolling close. -/
def State.drainRolling (h : Handle) (x : Xprod) (it : DrainItem) (s : State) : Xprod × State :=
  let r := x.recOr it.pair it.chan 0
  if r.done then (x, s)
  else
    let due := !(r.drained && r.subint == it.subint) && it.subint % max x.k 1 == x.phase it.pair it.chan
    let first := !r.drained && !r.seeded
    let (old, s) := if first then ([], s) else s.adderRec x r
    let (x, s) := if !first && due then s.closeRec h x r old else (x, s)
    let (r2, l, s) := s.applyDrain h x it r (first || due) old
    let r2 := { r2 with passed := r.passed || due }
    if it.flush || x.aborted then s.flushRec h x r2 l else (x.putRec r2, s)

/-- R202: a drain under aligned close. -/
def State.drainAligned (h : Handle) (x : Xprod) (it : DrainItem) (s : State) : Xprod × State :=
  let n := it.subint / max x.k 1
  let c := n % 2
  let r := x.recOr it.pair it.chan c
  if r.done || (x.recOr it.pair it.chan (1 - c)).done then (x, s)
  else
    let due := !(r.drained && r.subint / max x.k 1 == n)
    -- the other copy's integration has ended; what this one still holds is read before it is overwritten
    let x := match x.rec? it.pair it.chan (1 - c) with
      | some o => if due && (o.drained || o.seeded) then x.putRec { o with waiting := true, passed := true } else x
      | none => x
    let (x, s) := if due && r.drained then s.closeWaiting h x r else (x, s)
    let r := x.recOr it.pair it.chan c
    let ovf := due && !r.seeded
    let (old, s) := if ovf then ([], s) else s.adderRec x r
    let (r2, l, s) := s.applyDrain h x it r ovf old
    if it.flush || x.aborted then
      let (x, s) := s.closeAllWaiting h (fun _ => true) x.recs.length x
      s.flushRec h x r2 l
    else (x.putRec r2, s)

/-! ### Co-owners (R207, R208) -/

/-- The owner's drain of a sub-integration has been applied to the record. -/
def State.drainApplied (s : State) (h : Handle) (x : Xprod) (a : WaitingAdd) : Bool :=
  (match x.rec? a.pair a.chan (x.copyOf a.subint) with | some r => r.drained && a.subint ≤ r.subint | none => false)
    || (a.subint < x.next.1 && !(s.xa.ready.any fun e => e.1 == h && e.2.1 == a.subint)
      && !(s.xa.drains.any fun d => d.handle == h && d.subint == a.subint && d.pair == a.pair && d.chan == a.chan))

/-- The window that holds a sub-integration is still open in the record's state. -/
def Xprod.openFor (x : Xprod) (r : Rec) (sub : Nat) : Bool :=
  r.drained && !r.done && sub ≤ r.subint && r.start < x.subStart (sub + 1)
    && (!x.aligned || r.subint / max x.k 1 == sub / max x.k 1)

/-- R208: an exact add that has reached the adder. -/
def State.addNow (h : Handle) (x : Xprod) (a : WaitingAdd) (s : State) : Xprod × State :=
  match x.rec? a.pair a.chan (x.copyOf a.subint) with
  | some r =>
    if x.openFor r a.subint then
      let (old, s) := s.adderRec x r
      let l := a.values.zipIdx.map fun (v : Int × Nat) =>
        ((old.getD v.2 (0, true)).1 + BitVec.ofInt 64 v.1, (old.getD v.2 (0, true)).2 || a.poison)
      let (r, s) := s.writeRec x r l
      let (r, s) := s.readTally h r
      (x.putRec { r with tally := r.tally + a.tally, settled := r.settled || a.settled }, s)
    else ({ x with cnt := { x.cnt with lateAdd := satAdd 16 x.cnt.lateAdd 1 } }, s)
  | none => ({ x with cnt := { x.cnt with lateAdd := satAdd 16 x.cnt.lateAdd 1 } }, s)

/-- R208: an add waits for the owner's drain, is added, or comes too late. -/
def State.coAdd (owner : Handle) (a : WaitingAdd) (s : State) : State :=
  match s.xprod? owner with
  | none => s
  | some x =>
    let live := s.hstate owner == .running || s.hstate owner == .stopping
    if live && !s.drainApplied owner x a then s.updXprod owner fun x => { x with waiting := x.waiting ++ [a] }
    else
      let (x, s) := s.addNow owner x a
      s.updXprod owner fun _ => x

/-- The adds of a record that have waited for this drain. -/
def State.takeWaiting (it : DrainItem) (x : Xprod) (s : State) : Xprod × State :=
  let due (a : WaitingAdd) : Bool := a.pair == it.pair && a.chan == it.chan && a.subint ≤ it.subint
  let l := x.waiting.filter due
  l.foldl (fun (e : Xprod × State) a => e.2.addNow it.handle e.1 a) ({ x with waiting := x.waiting.filter fun a => !due a }, s)

end Sys2Proof.Machine
end

