-- ==== Sys2Proof/Machine/XArray.lean ====
section
/-! DEFINITION. The X-array at work (R177–R193, R201, R205, R208–R211): sub-integrations becoming ready, passes and their
drains, and tiles leaving service. -/
namespace Sys2Proof.Machine

/-! ### Readiness (R192, R455) -/

/-- THROTTLE at a time (R455). -/
def State.throttleAt (s : State) (t : Nat) : Nat :=
  match (s.health.levels.reverse.find? fun e => e.1 ≤ t) with
  | some e => e.2
  | none => if s.health.levels.isEmpty then s.health.throttle else 0

/-- R455: the level gates index `sub`. -/
def gatedAt (level sub : Nat) : Bool :=
  match level with
  | 0 => false
  | 1 => sub % 4 == 3
  | 2 => sub % 2 == 1
  | _ => true

/-- A pending map that has still to cut or pass the slots below b (R133). -/
def State.mapDue (s : State) (st b : Nat) : Bool :=
  match s.plane.pending, (s.desc st).or (s.pendingDesc st) with
  | some (_, t), some d => !s.plane.switched.contains st && d.unitFrom d.l (s.full t) < b
  | _, _ => false

/-- The deadline of the last slot before b has passed (R119, R192). -/
def State.piecePassed (s : State) (st b : Nat) : Bool :=
  match s.descFor st (b - 1) with
  | some d => d.deadline (b - 1) < s.now
  | none => true

/-- Whether the start of slot a was gated at index sub. -/
def State.gated (s : State) (st a sub : Nat) : Bool :=
  match s.descFor st a with
  | some d => gatedAt (s.throttleAt (d.slotStart a)) sub
  | none => false

/-- The channels whose passes a piece has. -/
def State.pieceChans (s : State) (x : Xprod) (a : Nat) : List Nat :=
  match s.descFor x.stream a with
  | some d => s.ownedIn d x.firstChan x.nchan
  | none => []

/-- A sub-integration of a product has drained once none of its passes or drains is left (R217). -/
def State.countSubint (h : Handle) (sub : Nat) (s : State) : State :=
  match s.xprod? h with
  | some x =>
    if sub < x.next.1 && !(s.xa.ready.any fun e => e.1 == h && e.2.1 == sub) && !(s.xa.drains.any fun d => d.handle == h && d.subint == sub) then
      s.updXprod h fun x => { x with cnt := { x.cnt with subints := satAdd 64 x.cnt.subints 1 } }
    else s
  | none => s

/-- R192: the passes of the product's next piece become ready. -/
def State.subintReady (h : Handle) (sub piece : Nat) (s : State) : State :=
  match s.xprod? h with
  | none => s
  | some x =>
    let st := s.hstate h
    if s.teller.safe || !(st == .running || st == .stopping) || x.next != (sub, piece) then s
    else
      let l := s.pieces x sub
      match l[piece]? with
      | none => s
      | some (a, b) =>
        if !s.piecePassed x.stream b || s.mapDue x.stream b then s
        else
          let gate := s.gated x.stream (x.subStart sub) sub
          let s := if gate && piece == 0 then s.updHealth fun t => { t with gatedSubints := satAdd 32 t.gatedSubints 1 } else s
          let next := if piece + 1 < l.length then (sub, piece + 1) else (sub + 1, 0)
          let s := s.updXprod h fun x => { x with next := next }
          if (s.pieceChans x a).isEmpty then s.countSubint h sub
          else s.updXa fun q => { q with ready := q.ready ++ [(h, sub, piece, gate)] }

def execSubintReady (h : Handle) (subint piece : Nat) (s : State) : Host.Outcome State Fault Refusal :=
  settleFlags s (s.subintReady h subint piece)

/-! ### Passes (R177, R188–R191) -/

/-- Tiles of strip j that lie on or above the diagonal. -/
def usefulStrip (h j : Nat) : Nat := ((List.range 8).map fun k => if 8 * j + k < h then 8 * j + k + 1 else 0).sum

/-- Those of brick b of strip j. -/
def usefulBrick (h nr j b : Nat) : Nat :=
  ((List.range 8).map fun k => if 8 * j + k < h then min (8 * j + k + 1) ((b + 1) * nr) - min (8 * j + k + 1) (b * nr) else 0).sum

/-- Passes that end before a brick begins: ascending channel, strip, brick (R191). -/
def passesBefore (h nr ci j b : Nat) : Nat :=
  ci * pairsOf h + ((List.range j).map (usefulStrip h)).sum + ((List.range b).map (usefulBrick h nr j)).sum

/-- One slot of a channel as samples, time by time. -/
def cellSamples (wide : Bool) (b : List Byte) : List (List (Int × Int)) :=
  (List.range (slotLen wide)).map fun t => (List.range 16).map fun i => sampleOf wide b t i

/-- a × conj(b) (R177). -/
def mulConj (a b : Int × Int) : Int × Int := (a.1 * b.1 + a.2 * b.2, a.2 * b.1 - a.1 * b.2)

def addPair (a b : Int × Int) : Int × Int := (a.1 + b.1, a.2 + b.2)

/-- The 256 products of one time of two groups. -/
def outer (a b : List (Int × Int)) : List (Int × Int) := a.flatMap fun x => b.map fun y => mulConj x y

def zeroPartials : List (Int × Int) := List.replicate 256 (0, 0)

/-- The sum over the times of one slot. -/
def slotProducts (wide : Bool) (a b : List Byte) : List (Int × Int) :=
  (List.zip (cellSamples wide a) (cellSamples wide b)).foldl (fun l (e : List (Int × Int) × List (Int × Int)) =>
    List.zipWith addPair l (outer e.1 e.2)) zeroPartials

/-- The four operands of one slot: two row groups and two column groups. -/
structure SlotOperands where
  slot : Nat
  ops : List Operand

/-- The brick of a pass. -/
def brickKey (p : Pass) : List Nat := [p.handle.toNat, p.subint, p.piece, p.chan, p.strip, p.brick]

/-- One operand read; only the tile that a lane reads for leaves a trace of the read (R181). -/
def State.laneOperand (note : Bool) (x : Xprod) (p : Pass) (k g : Nat) (s : State) : Operand × State :=
  let h := p.handle
  if x.ngroups ≤ g then (none, s)
  else
    let (o, s2) := s.operand x.ringId k (x.firstGroup + g) p.chan (brickKey p) fun s =>
      s.updXprod h fun x => { x with cnt := { x.cnt with ctUncorr := satAdd 32 x.cnt.ctUncorr 1 } }
    if note then (o, s2) else (o, { s with freeCtr := s2.freeCtr })

/-- The operands of a tile over the slots of a piece; on the diagonal rows and columns are the same groups. -/
def State.tileOperands (x : Xprod) (p : Pass) (dr dc : Nat) (row col : Bool) : List Nat → State → List SlotOperands × State
  | [], s => ([], s)
  | k :: t, s =>
    let (a, s) := s.laneOperand row x p k (2 * dr)
    let (b, s) := s.laneOperand row x p k (2 * dr + 1)
    let (c, s) := if dr = dc then (a, s) else s.laneOperand col x p k (2 * dc)
    let (d, s) := if dr = dc then (b, s) else s.laneOperand col x p k (2 * dc + 1)
    let (l, s) := State.tileOperands x p dr dc row col t s
    ({ slot := k, ops := [a, b, c, d] } :: l, s)

/-- R193: one quadrant of a pass: its partials, valid slot-pairs, and whether an invalid one carried SETTLING. -/
def quadrant (wide : Bool) (u w : Nat) (settling : Nat → Bool) (l : List SlotOperands) : List (Int × Int) × Nat × Bool :=
  l.foldl (fun (acc : List (Int × Int) × Nat × Bool) e =>
    let a := e.ops.getD u none
    let b := e.ops.getD (2 + w) none
    let sum := match a.bytes, b.bytes with
      | some a, some b => List.zipWith addPair acc.1 (slotProducts wide a b)
      | _, _ => acc.1
    if a.valid && b.valid then (sum, acc.2.1 + 1, acc.2.2) else (sum, acc.2.1, acc.2.2 || settling e.slot)) (zeroPartials, 0, false)

/-- 32-bit accumulators as they end a pass, and the partials that drain from them (R177, R178). -/
def accWords (l : List (Int × Int)) : List (BitVec 32 × BitVec 32) := l.map fun v => (BitVec.ofInt 32 v.1, BitVec.ofInt 32 v.2)
def accPartials (l : List (BitVec 32 × BitVec 32)) : List (Int × Int) := l.map fun v => (v.1.toInt, v.2.toInt)

/-- R188: a tile's live set, which has taken a pass, becomes its shadow set; the new live set starts at zero. -/
def State.swapSets (tile : Option Nat) (live : List (BitVec 32 × BitVec 32)) (s : State) : State :=
  match tile with
  | none => s
  | some t => s.updXa fun q => { q with
      sets := (q.sets.filter fun e => e.tile != t) ++ [{ tile := t, live := List.replicate live.length (0, 0), shadow := live }] }

/-- R209, R210: a residue mismatch of a tile. -/
def State.residue (tile : Option Nat) (h : Handle) (s : State) : State :=
  match tile with
  | none => s
  | some t =>
    let now := s.now
    let s := s.updXa fun q => { q with
      residue := if q.residue.any fun e => e.1 == t then q.residue.map fun e => if e.1 == t then (t, satAdd 16 e.2 1) else e
                 else q.residue ++ [(t, 1)]
      residueTimes := (q.residueTimes.filter fun e => now < e.2 + tickDay) ++ [(t, now)] }
    s.updXprod h fun x => { x with cnt := { x.cnt with residueErr := satAdd 16 x.cnt.residueErr 1 } }

/-- The drains of a pass that R190 keeps. At a dead position the operands are read and counted, and nothing is accumulated (R193,
R211). -/
def State.passDrains (x : Xprod) (p : Pass) (a b dr dc : Nat) (gate poison : Bool) (tile : Option Nat) (s : State) : State :=
  let slots := (List.range (b - a)).map (a + ·)
  let note := p.col == dr - 8 * p.strip
  let (ops, s) := if gate then ([], s) else State.tileOperands x p dr dc note (p.rank == 0) slots s
  let leaves := match s.descFor x.stream b with | some d => !s.owns d p.chan | none => true
  let flush := x.stopSlot == some b || (leaves && !x.merge)
  let settling (g k : Nat) : Bool := match s.ring? x.ringId with
    | some r => r.settling k (x.firstGroup + g) (p.chan / 8)
    | none => false
  let quads := [(0, 0), (0, 1), (1, 0), (1, 1)].map fun (e : Nat × Nat) =>
    (e, quadrant x.wide e.1 e.2 (fun k => settling (2 * dr + e.1) k || settling (2 * dc + e.2) k) ops)
  let s := s.swapSets tile (quads.flatMap fun e => accWords e.2.1)
  let kept := quads.filter fun e => 2 * dr + e.1.1 ≤ 2 * dc + e.1.2 && 2 * dc + e.1.2 < x.ngroups
  kept.foldl (fun s e =>
    let ga := 2 * dr + e.1.1
    let gb := 2 * dc + e.1.2
    let (parts, n, settled) := e.2
    let parts := if tile.isNone then zeroPartials else accPartials (accWords parts)
    let s := s.updXprod p.handle fun x => { x with cnt := { x.cnt with invalid := satAdd 32 x.cnt.invalid (ops.length - n) } }
    let it : DrainItem := {
      handle := p.handle, subint := p.subint, first := a, stop := b, chan := p.chan, pair := gb * (gb + 1) / 2 + ga, partials := parts
      tally := n * x.l, settled := settled, poison := poison, flush := flush }
    s.updXa fun q => { q with drains := q.drains ++ [it] }) s

/-- The passes that have ended when one brick of a channel is whole and the next begins (R191). -/
def brickEdges (h nr : Nat) : List Nat :=
  (List.range (ceilDiv h 8)).flatMap fun j => (List.range (ceilDiv (min (8 * j + 8) h) (max nr 1))).map fun b => passesBefore h nr 0 j b

/-- A product is between two bricks. -/
def State.atBrick (h : Handle) (s : State) : Bool :=
  match s.xprod? h with
  | some x =>
    let d := doubles x.ngroups
    (brickEdges d (s.ranksIn .corr).length).contains ((s.xa.ended.countP fun q => q.handle == h) % max 1 (pairsOf d))
  | none => true

/-- When the ready passes of a product have to end: c_s + window (R192), in seconds; none where none are ready. -/
def State.passDue (h : Handle) (s : State) : Option Frac :=
  match s.xprod? h, s.xa.ready.find? fun e => e.1 == h with
  | some x, some (_, sub, piece, _) =>
    match (s.pieces x sub)[piece]? with
    | some (_, b) => (s.descFor x.stream (b - 1)).map fun d =>
        Frac.add ⟨d.deadline (b - 1), tickSec⟩ ((d.window x.tsub).getD ⟨0, 1⟩)
    | none => none
  | _, _ => none

/-- R191: products are interleaved whole brick by whole brick, earliest deadline first. -/
def State.passTurn (h : Handle) (s : State) : Bool :=
  !s.atBrick h || (s.xa.ready.all fun e => e.1 == h || (s.atBrick e.1
    && match s.passDue h, s.passDue e.1 with | some a, some b => a.le b | _, _ => true))

/-- A pass that ends: its place, whether it is one of the current brick, and what its tile yields. -/
def State.passEnd (p : Pass) (bad : Bool) (s : State) : State :=
  match s.xprod? p.handle, s.xa.ready.find? fun e => e.1 == p.handle with
  | some x, some (_, sub, piece, gate) =>
    let ranks := s.ranksIn .corr
    let nr := ranks.length
    let h := doubles x.ngroups
    match (s.pieces x sub)[piece]? with
    | none => s
    | some (a, b) =>
      let chans := s.pieceChans x a
      let ended := s.xa.ended.filter fun q => q.handle == p.handle
      let before := passesBefore h nr (chans.idxOf p.chan) p.strip p.brick
      let dr := p.brick * nr + p.rank
      let dc := 8 * p.strip + p.col
      if s.teller.safe || sub != p.subint || piece != p.piece || !chans.contains p.chan || nr ≤ p.rank || 8 ≤ p.col || h ≤ 8 * p.strip
          || !s.passTurn p.handle || ended.contains p || ended.length < before || before + usefulBrick h nr p.strip p.brick ≤ ended.length then s
      else
        let tile := s.xa.pos.getD (8 * ranks.getD p.rank 0 + p.col) none
        let s := if bad then s.residue tile p.handle else s
        if dr ≤ dc && dc < h then
          let s := s.passDrains x p a b dr dc gate (bad || tile.isNone) tile
          let all := ended ++ [p]
          if all.length == chans.length * pairsOf h then
            s.updXa fun q => { q with
              ended := q.ended.filter fun e => e.handle != p.handle
              ready := q.ready.erase (p.handle, sub, piece, gate) }
          else s.updXa fun q => { q with ended := q.ended ++ [p] }
        else s
  | _, _ => s

def execPassEnd (p : Pass) (residueBad : Bool) (s : State) : Host.Outcome State Fault Refusal := settleFlags s (s.passEnd p residueBad)

/-! ### Drains -/

/-- The port to a peer is UP: since when. -/
def State.peerUp (s : State) (peer : Nat) : Option (BitVec 64) :=
  (s.portOfPeer peer).bind fun p => if (s.port p).state == .up then some (s.port p).lastChange else none

/-- R202: an aligned integration ends with slot k − 1. -/
def Xprod.endsAt (x : Xprod) (k : Nat) : Bool := x.aligned && (k - x.origin) % max 1 (x.subSlots * max x.k 1) == 0

/-- R135: once the piece before a cut has drained, each record that leaves ships or closes; an aligned integration that the cut ends
is emitted as R202 gives. -/
def State.cutDrained (h : Handle) (cut : Nat) (s : State) : State :=
  match s.xprod? h with
  | none => s
  | some x =>
    let leaving := x.recs.filter fun r => r.moved.isSome && r.drained && r.stop == cut
    let busy := (s.xa.drains.any fun d => d.handle == h && d.stop ≤ cut)
      || s.xa.ready.any fun e => e.1 == h && ((s.pieces x e.2.1)[e.2.2.1]?.map fun (q : Nat × Nat) => decide (q.2 ≤ cut)).getD false
    if leaving.isEmpty || busy then s
    else
      let (x, s) := s.closeAllWaiting h (fun r => r.moved.isSome) x.recs.length x
      let owner (ch : Nat) : Nat := ((s.descFor x.stream cut).map fun d => d.owner ch).getD 0xFF
      let out := leaving.filter fun r => (x.rec? r.pair r.chan r.copy) == some r
      let (x, s) := out.foldl (fun (e : Xprod × State) r =>
        let x := e.1.dropRec r
        match (if x.merge && !x.endsAt cut then e.2.peerUp (owner r.chan) else none) with
        | some t => ({ x with shipping := x.shipping ++ [{ record := r, peer := owner r.chan, cut := cut, since := t }] }, e.2)
        | none =>
          let (l, s) := e.2.adderRec x r
          s.closeRec h x { r with short := !x.endsAt cut } l) (x, s)
      s.updXprod h fun _ => x

/-- R201: the oldest drain is applied. -/
def State.drain (s : State) : State :=
  match s.xa.drains with
  | [] => s
  | it :: t =>
    let h := it.handle
    let s := s.updXa fun q => { q with drains := t }
    match s.xprod? h with
    | none => s
    | some x =>
      if x.shared then
        (s.coAdd x.owner { subint := it.subint, pair := it.pair, chan := it.chan, values := it.partials.flatMap fun v => [v.1, v.2],
                           tally := it.tally, poison := it.poison, settled := it.settled }).countSubint h it.subint
      else
        let (x, s) := if x.aligned then s.drainAligned h x it else s.drainRolling h x it
        let (x, s) := s.takeWaiting it x
        let s := s.updXprod h fun _ => x
        (s.cutDrained h it.stop).countSubint h it.subint

/-- R208: an exact partial of a co-owner reaches the adder. -/
def execCoOwnerAdd (a : CoAdd) (s : State) : Host.Outcome State Fault Refusal :=
  settleFlags s (
    match s.xprod? a.owner with
    | some x =>
      if s.teller.safe || x.coOwners.isEmpty || x.compact || x.pairs ≤ a.pair || a.values.length != 512 then s
      else s.coAdd a.owner { subint := a.subint, pair := a.pair, chan := a.chan, values := a.values, tally := a.tally, poison := false, settled := false }
    | none => s)

/-! ### Tiles (R209–R211) -/

/-- R210: a tile with two mismatches in 24 h, or a failed BIST, leaves service. -/
def execSpareMap (tile : Nat) (bist : Bool) (s : State) : Host.Outcome State Fault Refusal :=
  settleFlags s (
    let now := s.now
    let recent := s.xa.residueTimes.countP fun e => e.1 == tile && now < e.2 + tickDay
    if s.boot.phase == .up && s.usable 1 tile && (bist || 2 ≤ recent) && !s.teller.safe then s.tileOut tile (if bist then 2 else 1) else s)

end Sys2Proof.Machine
end

