-- ==== Sys2Proof/Machine/Resources.lean ====
section
/-! DEFINITION. What live products hold of the Vault (R24–R26, R230, R286–R289, R383): regions grow with the channels that the
maps give the package, and are released with their handles. -/
namespace Sys2Proof.Machine

/-- Bytes of an X product's state for c channels (R24). A co-owner has no region of its own (R207). -/
def Xprod.statePagesFor (x : Xprod) (c : Nat) : Nat := if x.shared then 0 else pagesFor (c * x.copies * x.pairs * x.recWords * 8)

/-- Words of one channel of one weight bank (R223). -/
def Beam.bankWords (b : Beam) : Nat := b.nbb * 32 * 32 * doubles b.ngroups * b.wb / 8

def Beam.weightPagesFor (b : Beam) (c : Nat) : Nat := pagesFor (2 * c * b.bankWords * 8)
def Beam.statePagesFor (b : Beam) (c : Nat) : Nat := if b.kind = 3 then pagesFor (2 * b.nbb * 32 * c * 4) else 0

/-- T_sub or T_b of a product. -/
def State.tsubOf (s : State) (h : Handle) : Nat :=
  match (s.find h).map Entry.obj with
  | some (.xprod x) => x.tsub
  | some (.beam b) => b.tb
  | _ => 0

/-- What a ring has to become: columns, positions, and the pages it still lacks. -/
def State.ringNeed (s : State) (r : CtRing) : Nat × Nat × Nat :=
  let c := max r.c (s.ownedMax r.stream r.firstChan r.nchan)
  let t := maxOf (r.users.map s.tsubOf)
  let q := max r.q (maxOf ((s.descsOf r.stream).map fun d => d.ringSlots t))
  (c, q, ringPages r.ngroups c q - r.pages.length)

def State.xprodC (s : State) (x : Xprod) : Nat := max x.cols.length (s.ownedMax x.stream x.firstChan x.nchan)
def State.beamC (s : State) (b : Beam) : Nat := max b.cols.length (s.ownedMax b.stream b.firstChan b.nchan)

/-- Pages that the live products still lack. -/
def State.growth (s : State) : Nat :=
  ((s.xprods.map fun e => e.2.statePagesFor (s.xprodC e.2) - e.2.statePages.length)
    ++ (s.beams.map fun e => (e.2.statePagesFor (s.beamC e.2) - e.2.statePages.length)
        + (e.2.weightPagesFor (s.beamC e.2) - e.2.weightPages.length))
    ++ s.xa.rings.map fun r => (s.ringNeed r).2.2).sum

/-- Pages in use after the growth, the system reserve with them (R26, R27). -/
def State.pagesAfter (s : State) : Nat := s.pagesUsed + 1024 + s.growth

/-- Columns of a region for c channels. -/
def padCols (c : Nat) (l : List (Option Nat)) : List (Option Nat) := l ++ List.replicate (c - l.length) none

/-- Every live product and ring takes the pages it lacks (R289, R383). -/
def State.growAll (s : State) : State :=
  let s := s.xprods.foldl (fun s (e : Handle × Xprod) =>
    let c := s.xprodC e.2
    let (l, s) := s.takePages { owner := e.1, kind := useState } (e.2.statePagesFor c - e.2.statePages.length)
    s.updXprod e.1 fun x => { x with statePages := x.statePages ++ l, cols := padCols c x.cols }) s
  let s := s.beams.foldl (fun s (e : Handle × Beam) =>
    let c := s.beamC e.2
    let (l, s) := s.takePages { owner := e.1, kind := useState } (e.2.statePagesFor c - e.2.statePages.length)
    let (w, s) := s.takePages { owner := e.1, kind := useWeights } (e.2.weightPagesFor c - e.2.weightPages.length)
    s.updBeam e.1 fun b => { b with statePages := b.statePages ++ l, weightPages := b.weightPages ++ w, cols := padCols c b.cols }) s
  s.xa.rings.foldl (fun s (r : CtRing) =>
    let (c, q, n) := s.ringNeed r
    let (l, s) := s.takePages { owner := 0, kind := useRing } n
    s.resizeRing r q c (r.pages ++ l)) s

/-! ### Release (R25, R135, R383) -/

/-- Pieces of a product from before the descriptor in force are still to run or to drain, or records of channels that have left are
still to go (R133, R135). -/
def State.piecesBehind (s : State) (h : Handle) : Bool :=
  let live := s.hstate h == .running || s.hstate h == .stopping
  let old (st : Nat) (l : Option (Nat × Nat)) : Bool := match l with | some e => e.1 < s.firstSlot st | none => false
  match (s.find h).map Entry.obj with
  | some (.xprod x) =>
    live && old x.stream (s.pieces x x.next.1)[x.next.2]?
      || (s.xa.ready.any fun e => e.1 == h && old x.stream (s.pieces x e.2.1)[e.2.2.1]?)
      || (s.xa.drains.any fun d => d.handle == h && d.first < s.firstSlot x.stream)
      || x.recs.any (·.moved.isSome) || !x.shipping.isEmpty
  | some (.beam b) =>
    live && old b.stream (s.spanPieces b b.next.1)[b.next.2]?
      || (b.ready.any fun e => old b.stream (s.spanPieces b e.1)[e.2.1]?)
      || (b.spanSums.any fun e => e.first < s.firstSlot b.stream)
      || b.recs.any (·.moved.isSome)
  | _ => false

/-- The words of one channel's copy of a power product (R227): two beams each. -/
def Beam.recAddrs (b : Beam) (r : Rec) : List Nat :=
  match b.cols.idxOf? (some r.chan) with
  | some col => (List.range (b.nbb * 16)).map fun i => regionWord b.statePages ((col * 2 + r.copy) * b.nbb * 16 + i)
  | none => []

/-! ### Retired pages of regions (R303) -/

/-- Words of state regions that hold data: those of the records in the Vault. -/
def State.liveWords (s : State) : List Nat :=
  let live (r : Rec) : Bool := r.moved.isNone && (r.drained || r.seeded || r.waiting)
  (s.xprods.flatMap fun e => (e.2.recs.filter live).flatMap e.2.recAddrs)
    ++ s.beams.flatMap fun e => (e.2.recs.filter live).flatMap e.2.recAddrs

/-- The ring that a page belongs to, and the words of the page that it uses. -/
def State.ringPage (s : State) (p : Nat) : Option (CtRing × Nat) :=
  (s.xa.rings.find? fun r => r.pages.contains p).map fun r => (r, min 8192 (r.c * r.columnWords - r.pages.idxOf p * 8192))

/-- None of a ring's products is ARMED, RUNNING or STOPPING. -/
def State.ctIdle (s : State) (r : CtRing) : Bool := r.users.all fun h => !(s.hstate h).active

/-- Every word of a retired page that holds data lies in its replacement. -/
def State.turnedAll (s : State) (m : Moving) : Bool :=
  match s.ringPage m.page with
  | some (r, n) => s.ctIdle r || (List.range n).all m.turned.contains
  | none => s.liveWords.all fun w => wordPage w != m.page || m.turned.contains (w % 8192)

/-- The mappings that have nothing left behind switch. -/
def State.settleMoves (s : State) : State :=
  s.vault.relocate.foldl (fun (s : State) m =>
    match m.target with
    | some n => if s.turnedAll m then s.endMove m.page n else s
    | none => s) s

/-- R303: the page that is due moves: copied for weight banks, system tables and kernels that do not run; switched at once where it holds
no data that will be read. State and rings in use move with their drains and slots. -/
def State.relocateDue (p : Nat) (s : State) : State :=
  match s.vault.relocate.find? fun m => m.page == p with
  | none => s
  | some m =>
    if (s.pageUse p).kind == useState || (s.pageUse p).kind == useRing then
      if s.turnedAll m then
        match s.moveTarget p with
        | some (n, s) => s.endMove p n
        | none => s.failMove p
      else s
    else if s.pageMovable p then s.relocatePage p else s

def execPageRelocate (page : Nat) (s : State) : Host.Outcome State Fault Refusal := settleFlags s (s.relocateDue page)

/-! ### Shrinking -/

/-- Columns that go to free ones below c: from, to. -/
def colMoves (c : Nat) (cols : List (Option Nat)) : List (Nat × Nat) :=
  List.zip ((List.range cols.length).filter fun i => c ≤ i && (cols.getD i none).isSome)
    ((List.range c).filter fun i => (cols.getD i none).isNone)

/-- The channels of c columns after the moves. -/
def movedCols (c : Nat) (cols : List (Option Nat)) : List (Option Nat) :=
  (List.range c).map fun i => match (colMoves c cols).find? fun m => m.2 == i with
    | some m => cols.getD m.1 none
    | none => cols.getD i none

/-- Columns of n words move within a region. -/
def State.moveColumns (pages : List Nat) (n : Nat) (moves : List (Nat × Nat)) (s : State) : State :=
  moves.foldl (fun (s : State) m => (List.range n).foldl (fun (s : State) i =>
    let a := s.placed (regionWord pages (m.1 * n + i))
    (s.putVWord (s.placed (regionWord pages (m.2 * n + i))) (s.vword a)).putVWord a {}) s) s

/-- A correlation product keeps the columns of C channels (R383). -/
def State.trimXprod (h : Handle) (s : State) : State :=
  match s.xprod? h with
  | none => s
  | some x =>
    let c := s.ownedMax x.stream x.firstChan x.nchan
    if x.cols.length ≤ c || s.piecesBehind h then s
    else
      let s := s.moveColumns x.statePages (x.copies * x.pairs * x.recWords) (colMoves c x.cols)
      let s := s.releasePages (x.statePages.drop (x.statePagesFor c))
      s.updXprod h fun x => { x with cols := movedCols c x.cols, statePages := x.statePages.take (x.statePagesFor c) }

/-- A beam product keeps the columns of C channels: weights by index (R223), power state by channel. -/
def State.trimBeam (h : Handle) (s : State) : State :=
  match s.beam? h with
  | none => s
  | some b =>
    let c := s.ownedMax b.stream b.firstChan b.nchan
    if b.cols.length ≤ c || s.piecesBehind h then s
    else
      let s := if b.kind = 3 then s.moveColumns b.statePages (2 * b.nbb * 16) (colMoves c b.cols) else s
      let s := s.releasePages (b.statePages.drop (b.statePagesFor c) ++ b.weightPages.drop (b.weightPagesFor c))
      s.updBeam h fun b => { b with
        cols := movedCols c b.cols, statePages := b.statePages.take (b.statePagesFor c)
        weightPages := b.weightPages.take (b.weightPagesFor c) }

/-- Columns and positions that a ring's users need now (R24, R25, R183). -/
def State.ringWants (s : State) (r : CtRing) : Nat × Nat :=
  let d := s.descsOf r.stream
  (s.ownedMax r.stream r.firstChan r.nchan,
   if d.isEmpty then r.q else maxOf (d.map fun d => d.ringSlots (maxOf (r.users.map s.tsubOf))))

/-- A ring keeps the size that its largest user gives it (R25). -/
def State.trimRing (id : Nat) (s : State) : State :=
  match s.ring? id with
  | none => s
  | some r =>
    let (c, q) := s.ringWants r
    if r.c ≤ c && r.q ≤ q || r.users.any s.piecesBehind then s
    else
      let c := min r.c c
      let q := min r.q q
      let n := ringPages r.ngroups c q
      (s.resizeRing r q c (r.pages.take n)).releasePages (r.pages.drop n)

/-- R25, R135: regions fall to the size that the live products need, once nothing of a former map is left in them. -/
def State.trimAll (s : State) : State :=
  let s := s.settleMoves
  let s := s.xprods.foldl (fun (s : State) (e : Handle × Xprod) => s.trimXprod e.1) s
  let s := s.beams.foldl (fun (s : State) (e : Handle × Beam) => s.trimBeam e.1) s
  s.xa.rings.foldl (fun (s : State) (r : CtRing) => s.trimRing r.id) s

/-- Channels take columns: those that stay keep theirs, the others fill free ones in ascending order. -/
def fillCols : List (Option Nat) → List Nat → List (Option Nat)
  | [], _ => []
  | some c :: t, l => some c :: fillCols t l
  | none :: t, [] => none :: fillCols t []
  | none :: t, c :: l => some c :: fillCols t l

def recol (cols : List (Option Nat)) (owned : List Nat) : List (Option Nat) :=
  let kept := cols.map fun c => match c with | some c => if owned.contains c then some c else none | none => none
  fillCols kept (owned.filter fun c => !kept.contains (some c))

/-- A product joins the ring of its inputs, channels and width, or begins one (R25). -/
def State.joinRing (h : Handle) (d : StreamDesc) (firstGroup ngroups firstChan nchan : Nat) (wide : Bool) (s : State) : Nat × State :=
  match s.ringLike d firstGroup ngroups firstChan nchan with
  | some r => (r.id, s.updRing r.id fun r => { r with users := r.users ++ [h] })
  | none =>
    let id := s.xa.nextRing
    let r : CtRing := { id := id, stream := d.id, firstGroup := firstGroup, ngroups := ngroups, firstChan := firstChan, nchan := nchan,
                        c := 0, wide := wide, epoch := d.epoch, q := 0, pages := [], users := [h] }
    (id, s.updXa fun x => { x with rings := x.rings ++ [r], nextRing := id + 1 })

/-- While no product of the CORR pool is held it is every whole rank outside the BEAM pool; while the BEAM pool is not held
its dead ranks leave (R180, R211, R218). -/
def State.settleRoles (s : State) : State :=
  let beam := if s.beamHeld then s.ranksIn .beam else (s.ranksIn .beam).filter s.rankWhole
  let corr := if s.xprods.isEmpty then [] else s.corrRanks
  s.setRoles corr (if s.beams.isEmpty then [] else beam)

/-! ### Tile supplies (R460) -/

/-- Lists of at most eight. -/
def eights (l : List Nat) : List (List Nat) := (List.range (ceilDiv l.length 8)).map fun i => (l.drop (8 * i)).take 8

/-- Tiles at positions, in ascending position, and the spares at none, that a pool needs: those of the CORR pool while it is held, of
the BEAM pool while there is one. -/
def State.poolTiles (s : State) : List Nat × List Nat :=
  let ranks := (List.range 16).filter fun r => s.xa.roles.getD r .free == .beam || (s.corrHeld && s.xa.roles.getD r .free == .corr)
  let tiles := ranks.flatMap fun r => (s.xa.rank r).filterMap id
  (tiles, if ranks.isEmpty then [] else ((List.range 4).map (128 + ·)).filter fun t => s.usable 1 t && !tiles.contains t)

/-- A step acts. -/
def SupplyStep.apply (l : List Nat) (p : SupplyStep) : List Nat :=
  if p.on then l ++ p.tiles.filter fun t => !l.contains t else l.filter fun t => !p.tiles.contains t

/-- R460: the steps that bring the supplies to what the pools need: at most 8 tiles each, in ascending position, the spares last,
2 µs apart. -/
def State.settleSupply (s : State) : State :=
  let (tiles, spares) := s.poolTiles
  let then_ := s.xa.supply.foldl SupplyStep.apply s.xa.powered
  let placed := s.xa.pos.filterMap id
  let off := placed.filter fun t => then_.contains t && !tiles.contains t && !spares.contains t
  let offLast := then_.filter fun t => !placed.contains t && !spares.contains t
  let on := tiles.filter fun t => !then_.contains t
  let onLast := spares.filter fun t => !then_.contains t
  let steps : List (Bool × List Nat) := (((eights off ++ eights offLast).map fun l => (false, l)) ++ ((eights on ++ eights onLast).map fun l => (true, l)))
  let first := match s.xa.supply.getLast? with | some p => max s.now (p.due + 2 * tickUs) | none => s.now
  s.updXa fun x => { x with supply := x.supply ++ steps.zipIdx.map fun e => { due := first + 2 * tickUs * e.2, on := e.1.1, tiles := e.1.2 } }

/-- The pools, and the supplies with them. -/
def State.settlePools (s : State) : State := s.settleRoles.settleSupply

/-- R211, R460: what becomes of the pools as time passes. -/
def State.poolTick (s : State) : State :=
  let s := s.settlePools
  let due := s.xa.supply.filter fun p => p.due ≤ s.now
  s.updXa fun x => { x with powered := due.foldl SupplyStep.apply x.powered, supply := x.supply.filter fun p => s.now < p.due }

/-! ### Ports of products (R87, R88) -/

/-- The lane is one of an EGRESS octet, and the record fits its MTU. -/
def State.portBad (s : State) (lane size : Nat) : Bool :=
  512 ≤ lane || !(s.octet (lane / 8)).isEgress || (s.egressOf lane).mtu - 28 < size

/-- R183: slot k of a stream starts: its position is cleared in every ring. -/
def execSlotStart (stream slot : Nat) (s : State) : Host.Outcome State Fault Refusal :=
  settleFlags s (
    if s.teller.safe then s
    else match s.descFor stream slot with
    | none => s
    | some d =>
      if s.now < d.slotStart slot then s
      else (s.xa.rings.filter fun r => r.stream == stream && !r.cells.any fun x => x.slot ≥ slot).foldl (fun s r => s.clearPos r slot) s |>.settleMoves)

end Sys2Proof.Machine
end

