-- ==== Sys2Proof/Machine/XprodCmd.lean ====
section
/-! DEFINITION. XPROD_CREATE, XPROD_START and XPROD_STOP (R186, R187, R204, R207, R383–R385). -/
namespace Sys2Proof.Machine

/-- The product that a packet describes; without columns and pages. -/
def xprodOf (p : Pkt) (wide : Bool) : Xprod :=
  { stream := u8 p.b 16, flags := BitVec.ofNat 8 (u8 p.b 17), egress := u16 p.b 18, firstGroup := u16 p.b 20, ngroups := u16 p.b 22
    firstChan := u16 p.b 24, nchan := u16 p.b 26, tsub := u32 p.b 28, k := u16 p.b 32, ptag := BitVec.ofNat 32 (u32 p.b 36)
    origin := u48 p.b 40, seed := BitVec.ofNat 64 (u64 p.b 48), owner := BitVec.ofNat 32 (u32 p.b 56), block := slice p.b 16 48
    wide := wide, cols := [], ringId := 0, statePages := [] }

/-- A range of groups and channels lies within a stream (R383). -/
def StreamDesc.rangeBad (d : StreamDesc) (g ng c nc : Nat) : Bool :=
  g < d.firstGroup || d.firstGroup + d.ngroups < g + ng || ng == 0 || nc == 0 || d.nchan < c + nc

/-- R186, R137, R207 and the ranges of R383 that give BAD_PARAM. -/
def Xprod.bad (x : Xprod) (d : StreamDesc) : Bool :=
  64 ≤ x.flags.toNat || d.rangeBad x.firstGroup x.ngroups x.firstChan x.nchan
    || x.tsub % 64 != 0 || x.tsub < (if x.compact then 256 else 512) || (if x.wide then 32768 else 65536) < x.tsub
    || x.k == 0 || 8388607 < x.k * x.subSlots
    || (x.stochastic && !x.compact) || (x.merge && x.compact) || (x.shared == (x.owner == 0))

/-- R207: the claim on the owner's region holds. -/
def Xprod.mayShare (o x : Xprod) : Bool :=
  !o.shared && !o.compact && !x.compact && o.stream == x.stream && o.firstGroup == x.firstGroup && o.ngroups == x.ngroups
    && o.firstChan == x.firstChan && o.nchan == x.nchan && o.tsub == x.tsub && o.k == x.k && o.origin == x.origin
    && o.aligned == x.aligned && o.coOwners.length < 7

/-- The state with the product added, before its pages are taken. -/
def State.withXprod (d : StreamDesc) (x : Xprod) (s : State) : Option (Handle × State) :=
  (s.handles.alloc (.xprod x)).map fun (e : Handle × Handles) =>
    let h := e.1
    let s := { s with handles := e.2 }
    let (id, s) := s.joinRing h d x.firstGroup x.ngroups x.firstChan x.nchan x.wide
    let cols := padCols (s.xprodC x) (((s.desc x.stream).map fun d => s.ownedIn d x.firstChan x.nchan).getD [] |>.map some)
    let s := s.updXprod h fun x => { x with ringId := id, cols := cols }
    let s := if x.shared then s.updXprod x.owner fun o => { o with coOwners := o.coOwners ++ [h] } else s
    (h, s.settleRoles)

/-- Ranks of both pools. -/
def State.poolSizes (s : State) : Nat × Nat := ((s.ranksIn .corr).length, (s.ranksIn .beam).length)

/-- Admission of a state that already holds what is asked for but the clerks (R27, R352). -/
def State.admitted (clerks : Nat) (s : State) : Option Res := s.admits s.pagesAfter clerks s.poolSizes.1 s.poolSizes.2

/-- R21: the lowest free clerks become those of a product's system kernels. -/
def State.takeServants (h : Handle) (n : Nat) (s : State) : State := s.takeClerks (some h) (s.freeClerks.take n)

def xprodCreateBody (p : Pkt) (s : State) : Body :=
  let d := if 15 < u8 p.b 16 then none else s.sizing (u8 p.b 16)
  let x := xprodOf p ((d.map (·.wide)).getD false)
  let o := s.xprod? x.owner
  let after := d.bind fun d => s.withXprod d x
  { words := 16
    checks := [
      p.noTarget, p.reserved [(34, 2), (46, 2), (60, 4)],
      failIf ((d.map x.bad).getD true) stParam,
      if x.shared then badKind s x.owner [1] else none,
      failIf (s.portBad x.egress x.recBytes) stParam,
      unitFault s 7 (x.egress / 8),
      if x.shared then stale s x.owner else none,
      failIf (x.shared && (match o with | some o => !o.mayShare x | none => false)) stHeld,
      (after.map fun (e : Handle × State) => e.2).bind (State.admitted s.boot.kernelNeeds.1),
      noIndex s]
    effect := fun t =>
      match d, d.bind fun d => t.withXprod d x with
      | some d, some (h, u) =>
        let c := u.ownedMax x.stream x.firstChan x.nchan
        let load := (u.xprodNeeds d u.poolSizes.1 0 c x).corr
        (u.growAll.takeServants h s.boot.kernelNeeds.1, { handle := h, r0 := c, r1 := u.growth, r2 := load.ppm }, .done)
      | _, _ => (t, { status := stResource }, .done) }

def execXprodCreate (src : Source) (s : State) : Host.Outcome State Fault Refusal :=
  settleFlags s (runOp 0x30 xprodCreateBody src true .failed s)

/-! ### XPROD_START (R187, R384) -/

/-- Stream, origin and slots of one grid unit of a product. -/
def Obj.grid : Obj → Option (Nat × Nat × Nat)
  | .xprod x => some (x.stream, x.origin, x.subSlots)
  | .beam b => some (b.stream, b.origin, b.tb / slotLen b.wide)
  | _ => none

/-- The first grid unit that starts at or after time t. -/
def StreamDesc.gridUnitFrom (d : StreamDesc) (origin n t : Nat) : Nat := ceilDiv (d.unitFrom d.l t - origin) (max n 1)

/-- The handle enters ARMED at a grid unit. -/
def State.armProduct (h : Handle) (unit slot : Nat) (s : State) : State :=
  let s := s.updXprod h fun x => { x with
    startSlot := slot, stopSlot := none, reached := false, next := (unit, 0), recs := [], aborted := false, waiting := [], shipping := [] }
  let s := s.updBeam h fun b => { b with
    startSlot := slot, stopSlot := none, reached := false, next := (unit, 0), recs := [], aborted := false, ready := [], swept := 0, sums := [],
    slotTally := [], slotSettled := [], bad := [], spanSums := [] }
  let s := if s.corrHeld && s.beamHeld then s else s.settleRoles
  (s.updEntry h fun e => { e with st := .armed, completed := false, aborting := false }).settleSupply

def productStart (p : Pkt) (s : State) : Body :=
  let t := BitVec.ofNat 64 (u64 p.b 16)
  let g := ((s.find p.target).map Entry.obj).bind Obj.grid
  let d := g.bind fun g => s.sizing g.1
  { words := 6
    checks := [
      badKind s p.target [1, 2], failIf (t != 0 && !shortOk t) stParam, stale s p.target,
      failIf (!(s.hstate p.target == .created || s.hstate p.target == .stopped) || d.isNone) stState,
      failIf (t != 0 && s.full t < p.commitAt + 1000000 * tickNs) stPast]
    effect := fun u =>
      match g, d with
      | some (_, origin, n), some d =>
        let at_ := if t == 0 then p.commitAt + 1000000 * tickNs else s.full t
        let k := d.gridUnitFrom origin n at_
        let slot := origin + k * n
        (u.armProduct p.target k slot, { handle := p.target, r0 := slot % 2 ^ 32, r1 := slot / 2 ^ 32 }, .done)
      | _, _ => (u, {}, .done) }

def execXprodStart (src : Source) (s : State) : Host.Outcome State Fault Refusal :=
  settleFlags s (runOp 0x31 productStart src true .failed s)

/-! ### XPROD_STOP (R204, R385) -/

def State.setStop (h : Handle) (slot : Nat) (s : State) : State :=
  let lower (o : Option Nat) : Option Nat := some (match o with | some e => min e slot | none => slot)
  (s.updXprod h fun x => { x with stopSlot := lower x.stopSlot }).updBeam h fun b => { b with stopSlot := lower b.stopSlot }

/-- RECORDS of a product (R217). -/
def State.recordsOf (s : State) (h : Handle) : Nat :=
  match (s.find h).map Entry.obj with
  | some (.xprod x) => x.cnt.records
  | some (.beam b) => b.cnt.records
  | _ => 0

/-- A product or capture that was only ARMED is STOPPED at once (R345). -/
def State.disarm (h : Handle) (s : State) : State :=
  let t := s.stamp
  (s.updEntry h fun e => { e with st := .stopped, completed := true, doneAt := t }).settlePools

/-- The descriptor of a product's stream, for its stop boundary. -/
def State.gridOf (s : State) (h : Handle) : Option StreamDesc :=
  (((s.find h).map Entry.obj).bind Obj.grid).bind fun g => s.sizing g.1

def productStop (p : Pkt) (s : State) : Body :=
  let t := BitVec.ofNat 64 (u64 p.b 16)
  let st := s.hstate p.target
  { words := 6
    deferred := true
    checks := [
      badKind s p.target [1, 2], failIf (t != 0 && !shortOk t) stParam, stale s p.target,
      failIf (!(st == .armed || st == .running)) stState,
      failIf (t != 0 && s.full t < p.commitAt) stPast]
    effect := fun u =>
      if st == .armed then
        (u.disarm p.target, { handle := p.target }, .final { handle := p.target, r0 := s.recordsOf p.target % 2 ^ 32 })
      else
        let at_ := if t == 0 then p.commitAt else s.full t
        let slot := ((s.gridOf p.target).map fun d => d.unitFrom d.l at_).getD 0
        ((u.setStop p.target slot).setState p.target .stopping, { handle := p.target }, .wait (.stop p.target)) }

def execXprodStop (src : Source) (s : State) : Host.Outcome State Fault Refusal :=
  settleFlags s (runOp 0x32 productStop src true .failed s)

end Sys2Proof.Machine
end

