-- ==== Sys2Proof/Machine/PlaneMap.lean ====
section
/-! DEFINITION. Scheduled remaps and PARTIAL packets (R99, R132–R138, R205, R374). -/
namespace Sys2Proof.Machine

/-! ### PLANE_MAP (R132, R374) -/

/-- Bytes of the descriptor at an offset. -/
def descLength (b : List Byte) (o : Nat) : Nat := 40 + (u16 b (o + 6) + 3) / 4 * 4 + 4 * u16 b (o + 2)

/-- Offsets of n descriptors, and the offset after them. -/
def descOffsets (b : List Byte) : Nat → Nat → List Nat × Nat
  | 0, o => ([], o)
  | n + 1, o =>
    let (l, e) := descOffsets b n (o + descLength b o)
    (o :: l, e)

/-- The descriptor at an offset (Table — PLANE_MAP stream descriptor). -/
def streamDesc (b : List Byte) (o : Nat) : StreamDesc :=
  let n := u16 b (o + 6)
  let r := o + 40 + (n + 3) / 4 * 4
  { id := u8 b o, wide := u8 b (o + 1) == 1, firstGroup := u16 b (o + 4), ngroups := n, nchan := u16 b (o + 8), dmLog2 := u8 b (o + 10)
    emitDelay := u32 b (o + 12), lateness := u32 b (o + 16), fsKhz := u32 b (o + 20), epoch := (fullOf b (o + 24)).getD 0
    source := (List.range n).map fun i => u8 b (o + 40 + i)
    runs := (List.range (u16 b (o + 2))).map fun i => (u16 b (r + 4 * i), u8 b (r + 4 * i + 2))
    image := slice b o (descLength b o) }

/-- First channels rise from 0 and stay within the stream. -/
def runsBad (nchan : Nat) : Nat → List (Nat × Nat) → Bool
  | _, [] => false
  | lo, r :: t => r.1 < lo || nchan ≤ r.1 || runsBad nchan (r.1 + 1) t

/-- Fields of a descriptor that are out of range. -/
def descFieldsBad (b : List Byte) (o : Nat) : Bool :=
  let d := streamDesc b o
  let n := d.ngroups
  let r := o + 40 + (n + 3) / 4 * 4
  15 < d.id || 1 < u8 b (o + 1) || d.runs.isEmpty || 256 < d.runs.length || n == 0 || 1024 < n || 4096 < d.firstGroup + n
    || d.nchan == 0 || 8192 < d.nchan || d.dmLog2 < 7 || 19 < d.dmLog2 || u8 b (o + 11) != 0 || d.lateness < 10000 || 2000000 < d.lateness
    || d.fsKhz < 50000 || 4000000 < d.fsKhz || (fullOf b (o + 24)).isNone || d.source.any (31 < ·)
    || !zeroAt b (o + 40 + n) (r - (o + 40 + n)) || ((d.runs.head?.map (·.1)).getD 1 != 0) || runsBad d.nchan 0 d.runs
    || d.runs.any (fun r => 31 < r.2 && r.2 != 0xFF) || (List.range d.runs.length).any fun i => u8 b (r + 4 * i + 3) != 0

/-- A live XPROD, BEAM or CAPTURE handle names the stream (R374). -/
def State.streamNamed (s : State) (st : Nat) : Bool :=
  s.handles.live.any fun e => match e.obj with
    | .xprod x => x.stream == st
    | .beam b => b.stream == st
    | .capture c => c.format == 2 && c.stream == st
    | _ => false

/-- What may not change for a named stream. -/
def StreamDesc.gridKey (d : StreamDesc) : List Nat := [d.epoch, flagBit d.wide 0, d.nchan, d.fsKhz, d.dmLog2]

/-- R374: a named stream is missing from a new map, or differs in it. -/
def State.mapBreaks (s : State) (l : List StreamDesc) : Bool :=
  (List.range 16).any fun st => s.streamNamed st && (s.descsOf st).any fun d =>
    !(l.any fun e => e.id == st && e.gridKey == d.gridKey)

def State.withPending (m : PlaneMap) (t : BitVec 64) (s : State) : State :=
  { s with plane := { s.plane with pending := some (m, t), switched := [] } }

/-- R132: admission of a new map: what the live products need with the channels it gives the package, once with the
passes of a cut. -/
def State.admitMap (s : State) : Option Res :=
  let pick (st : Nat) : Option StreamDesc := (s.pendingDesc st).or (s.desc st)
  let test (extra : Nat) : Option Res :=
    s.admission pick [s.plane.streams, s.plane.pendingStreams] extra s.pagesAfter 0 s.poolSizes.1 s.poolSizes.2
  (test 0).or (test 144)

def planeMapBody (p : Pkt) (s : State) : Body :=
  let n := u8 p.b 21
  let cancel := bit (u8 p.b 20) 0
  let t := BitVec.ofNat 64 (u64 p.b 24)
  let (offs, fin) := descOffsets p.b n 32
  let l := offs.map (streamDesc p.b)
  let gen := BitVec.ofNat 32 (u32 p.b 16)
  let withdraw := cancel && n == 0
  let soon (t : BitVec 64) : Bool := s.full t < p.commitAt + 10000000 * tickNs
  { words := fin / 4
    checks := [
      p.noTarget, p.reserved [(22, 2)],
      failIf (1 < u8 p.b 20 || 16 < n || (n == 0 && !cancel)) stParam,
      if withdraw then none else failIf (!shortOk t || (s.plane.map.map (·.gen)) == some gen || offs.any (descFieldsBad p.b)
        || (l.zipIdx.any fun e => (l.take e.2).any fun f => f.id == e.1.id)
        || s.nextInputs.any fun x => l.any fun d => x.stream == some d.id && !s.agrees x d) stParam,
      failIf (!s.plane.joined || (s.plane.pending.isSome && !cancel)) stState,
      if withdraw then none else failIf (s.mapBreaks l) stState,
      if cancel then failIf ((s.plane.pending.map fun e => soon e.2).getD false) stPast else none,
      if withdraw then none else failIf (soon t) stPast,
      if withdraw then none else (s.withPending { gen := gen, streams := l } t).admitMap]
    effect := fun u =>
      if withdraw then (({ u with plane := { u.plane with pending := none, switched := [] } } : State).trimAll, {}, .done)
      else ((u.withPending { gen := gen, streams := l } t).growAll, { r0 := gen.toNat }, .done) }

def execPlaneMap (src : Source) (s : State) : Host.Outcome State Fault Refusal :=
  settleFlags s (runOp 0x19 planeMapBody src true .failed s)

/-! ### A map takes effect (R133, R135, R205, R229) -/

/-- Words taken out of a region, which it leaves clear. -/
def State.takeOut (l : List Nat) (s : State) : List (Nat × VWord) × State :=
  (l.map fun w => (w, s.vword w), l.foldl (fun s w => s.putVWord w {}) s)

/-- R202, R205: the records of the channels a correlation product loses: those of an ended integration are emitted, the rest
leave the region to be flushed or shipped by the drain of the piece before the cut. -/
def State.moveXprod (h : Handle) (owned : List Nat) (s : State) : State :=
  match s.xprod? h with
  | none => s
  | some x =>
    let lost (r : Rec) : Bool := r.moved.isNone && !owned.contains r.chan
    let (x, s) := s.closeAllWaiting h lost x.recs.length x
    let (x, s) := (x.recs.filter lost).foldl (fun (e : Xprod × State) r =>
      if r.drained || r.seeded then
        let (l, s) := e.2.takeOut ((e.1.recAddrs r).map e.2.placed)
        (e.1.putRec { r with moved := some l }, s)
      else (e.1.dropRec r, e.2)) (x, s)
    s.updXprod h fun _ => { x with cols := recol x.cols owned }

def State.moveBeam (h : Handle) (owned : List Nat) (s : State) : State :=
  match s.beam? h with
  | none => s
  | some b =>
    let (recs, s) := b.recs.foldl (fun (e : List Rec × State) r =>
      if r.moved.isSome || owned.contains r.chan then (e.1 ++ [r], e.2)
      else if r.drained then
        let (l, s) := e.2.takeOut ((b.recAddrs r).map e.2.placed)
        (e.1 ++ [{ r with moved := some l }], s)
      else e) ([], s)
    s.updBeam h fun _ => { b with recs := recs, cols := recol b.cols owned }

/-- R133: the frames of a local input that start before T_eff, on the former grid, are still to come; then it changes to the new. -/
def FeInput.toGrid (x : FeInput) (fsKhz old stop new : Nat) : FeInput :=
  match x.oldGrid, x.frame with
  | none, some j => if j < stop then { x with oldGrid := some (old, stop) } else x.regrid fsKhz old new
  | none, none => x.regrid fsKhz old new
  | some _, _ => x

/-- The pending map takes effect for one stream. -/
def State.mapTakeEffect (st : Nat) (s : State) : State :=
  match s.plane.pending with
  | none => s
  | some (m, t) =>
    let old := s.desc st
    let new := s.pendingDesc st
    match old.or new with
    | none => s
    | some grid =>
      let k := grid.unitFrom grid.l (s.full t)
      if s.plane.switched.contains st || s.now < grid.slotStart k then s
      else
        let same := old.isNone || new.isNone || (old.map StreamDesc.gridKey) == new.map StreamDesc.gridKey
        let first := match new with
          | some n => if same then k else n.unitFrom n.l (grid.slotStart k)
          | none => k
        let pl := s.plane
        let streams := (pl.streams.filter fun d => d.id != st) ++ new.toList
        let switched := pl.switched ++ [st]
        let done := (pl.streams ++ m.streams).all fun d => switched.contains d.id
        let starts := (pl.starts.filter fun e => e.1 != st) ++ (if new.isSome then [(st, first)] else [])
        let ended := match old with | some d => [{ desc := d, first := s.firstSlot st, stop := k }] | none => []
        let gen := if done then m.gen else (pl.map.map (·.gen)).getD 0
        let s := { s with plane := { pl with
          map := some { gen := gen, streams := streams }, pending := if done then none else pl.pending
          switched := if done then [] else switched, starts := starts, old := pl.old ++ ended } }
        let fresh := old.isNone || (old.map fun d => [d.epoch, d.fsKhz, d.dmLog2]) != new.map fun d => [d.epoch, d.fsKhz, d.dmLog2]
        let s := if fresh && new.isSome then
            let ep := (new.map (·.epoch)).getD 0
            s.setPacked st ep first
          else s
        let epochs : Nat × Nat := ((old.map (·.epoch)).getD 0, (new.map (·.epoch)).getD 0)
        let s := if epochs.1 = epochs.2 then s else (s.streamInputs st).foldl (fun s i => s.updInput i fun x =>
          x.toGrid ((x.map.map s.fsOf).getD 0) epochs.1 ((old.map fun d => k * d.l).getD 0) epochs.2) s
        let owned (f n : Nat) : List Nat := (new.map fun d => s.ownedIn d f n).getD []
        let s := (s.xprods.filter fun e => e.2.stream == st).foldl (fun s (e : Handle × Xprod) =>
          s.moveXprod e.1 (owned e.2.firstChan e.2.nchan)) s
        (s.beams.filter fun e => e.2.stream == st).foldl (fun s (e : Handle × Beam) =>
          s.moveBeam e.1 (owned e.2.firstChan e.2.nchan)) s

def execMapTakeEffect (stream : Nat) (s : State) : Host.Outcome State Fault Refusal :=
  settleFlags s (if s.teller.safe then s else (s.mapTakeEffect stream).trimAll)

/-! ### PARTIAL leaves (R99, R135, R138) -/

/-- Sub-integrations from the cut to the record's next close at the new owner (R135, R200). -/
def Xprod.closeAfter (x : Xprod) (r : Rec) (cut : Nat) : Nat :=
  let k := max x.k 1
  (x.phase r.pair r.chan + k - (cut - x.origin) / max x.subSlots 1 % k) % k

/-- The packets of the records that ship: two channels of one pair share a packet when their windows start alike. -/
def shipPairs (l : List Shipment) : List (Shipment × Option Shipment) :=
  let mates (a b : Shipment) : Bool := a.record.pair == b.record.pair && a.peer == b.peer && a.cut == b.cut
  let order (a : Shipment) : Nat := (l.filter fun b => mates a b && b.record.chan < a.record.chan).length
  let sorted (a : Shipment) : List Shipment := (List.range l.length).filterMap fun i => l.find? fun b => mates a b && order b == i
  let rec pair : List Shipment → List (Shipment × Option Shipment)
    | a :: b :: t => if a.record.start == b.record.start then (a, some b) :: pair t else (a, none) :: pair (b :: t)
    | [a] => [(a, none)]
    | [] => []
  (l.filter fun a => order a == 0).flatMap fun a => pair (sorted a)

/-- The order of R135: earlier close, GROUP_A, GROUP_B, CHAN0. -/
def Xprod.shipKey (x : Xprod) (e : Shipment × Option Shipment) : List Nat :=
  let c (a : Shipment) : Nat := x.closeAfter a.record a.cut
  let g := pairGroups x.ngroups 0 e.1.record.pair
  [match e.2 with | some b => min (c e.1) (c b) | none => c e.1, g.1, g.2, e.1.record.chan]

/-- Lexicographic order of lists of equal length. -/
def lexLt : List Nat → List Nat → Bool
  | a :: s, b :: t => a < b || (a == b && lexLt s t)
  | _, _ => false

/-- The first of those that can go: a peer without credits does not hold up the others. -/
def Xprod.nextShip (x : Xprod) (ready : Shipment → Bool) : Option (Shipment × Option Shipment) :=
  ((shipPairs x.shipping).filter fun e => ready e.1).foldl (fun b e => match b with
    | some c => if lexLt (x.shipKey e) (x.shipKey c) then some e else some c
    | none => some e) none

/-- A shipment can go: its peer's port is UP with a credit and no DATA queued; or it cannot any more, and closes (R135, R138). -/
def State.shipReady (s : State) (a : Shipment) : Bool :=
  s.peerUp a.peer != some a.since
    || (match s.portOfPeer a.peer with | some p => (s.port p).txData.isEmpty && (s.port p).outstanding < 32 | none => true)

/-- Records that do not ship close short (R135, R138). -/
def State.closeShips (h : Handle) (l : List Shipment) (x : Xprod) (s : State) : Xprod × State :=
  l.foldl (fun (e : Xprod × State) a =>
    let (v, s) := e.2.vectorRec e.1 a.record
    s.closeRec h { e.1 with shipping := e.1.shipping.filter (· != a) } { a.record with short := true } v) (x, s)

/-- A PARTIAL packet (R99). -/
def State.partialBytes (x : Xprod) (a : Shipment) (b : Option Shipment) (seq : Nat) (va vb : List (BitVec 64 × Bool)) (s : State) :
    List Byte :=
  let g := x.pairField a.record.pair
  let words (l : List (BitVec 64 × Bool)) : List Byte := l.flatMap fun v => le 8 v.1.toNat
  let head : List Byte := [2, 1] ++ le 1 s.plane.peerId ++ le 1 a.peer ++ le 2 s.plane.planeId.toNat ++ le 2 seq ++ le 4 x.ptag.toNat
    ++ le 2 (g % 4096) ++ le 2 (g / 4096) ++ le 2 a.record.chan ++ le 2 ((b.map fun b => b.record.chan).getD 0xFFFF)
    ++ [0, 0, 0, 0] ++ le 6 a.record.start ++ [0, 0] ++ le 6 a.cut ++ [0, 0] ++ le 8 a.record.tally
    ++ le 8 ((b.map fun b => b.record.tally).getD 0) ++ [0, 0, 0, 0]
  let body := slice (words va) 0 4096 ++ slice (words vb) 0 4096
  head ++ le 4 (crc32c (head ++ body)) ++ body

/-- R135: the next PARTIAL of a product leaves, or its records close short. -/
def State.partialSend (h : Handle) (s : State) : State :=
  match s.xprod? h with
  | none => s
  | some x =>
    match x.nextShip s.shipReady with
    | none => s
    | some (a, b) =>
      let both := a :: b.toList
      if s.peerUp a.peer != some a.since then
        let (x, s) := s.closeShips h (x.shipping.filter fun e => e.peer == a.peer && e.since == a.since) x
        s.updXprod h fun _ => x
      else
        match s.portOfPeer a.peer with
        | none => s
        | some p =>
          let seq := (s.port p).seqTx
          let (va, s) := s.vectorRec x a.record
          let (vb, s) := match b with | some b => s.vectorRec x b.record | none => ([], s)
          let (ra, s) := s.readTally h a.record
          let (rb, s) := match b with | some b => s.readTally h b.record | none => ({ ra with tallyLost := false }, s)
          let s := s.updPort p fun q => { q with seqTx := (q.seqTx + 1) % 65536, txSent := q.txSent + 1 }
          if ra.tallyLost || rb.tallyLost || (va ++ vb).any (·.2) then
            let (x, s) := (s.sendAborted p (s.partialBytes x a b seq va vb)).closeShips h both x
            s.updXprod h fun _ => x
          else
            (s.sendBulk p 2 (s.partialBytes x a b seq va vb)).updXprod h fun x =>
              { x with shipping := x.shipping.filter fun e => !both.contains e }

def execPartialSend (h : Handle) (s : State) : Host.Outcome State Fault Refusal :=
  settleFlags s (if s.teller.safe then s else (s.partialSend h).trimAll)

/-! ### PARTIAL arrives (R136) -/

/-- R120 step 3 for PARTIAL. -/
def partialFormOk (b : List Byte) : Bool :=
  u8 b 0 == 2 && u8 b 1 == 1 && u8 b 2 < 32 && u8 b 3 < 32 && u16 b 12 ≤ u16 b 14 && u16 b 14 < 4096 && u16 b 16 < 8192
    && (u16 b 18 < 8192 || (u16 b 18 == 0xFFFF && zeroAt b 4160 4096))
    && zeroAt b 20 4 && zeroAt b 30 2 && zeroAt b 38 2 && zeroAt b 56 4

/-- The halves of a packet: channel, values, tally. -/
def partialHalves (b : List Byte) : List (Nat × List Int × Nat) :=
  let words (o : Nat) : List Int := (List.range 512).map fun i => sext 64 (u64 b (o + 8 * i))
  (u16 b 16, words 64, u64 b 40) :: (if u16 b 18 == 0xFFFF then [] else [(u16 b 18, words 4160, u64 b 48)])

/-- The latest sub-integration of a record's phase that starts before the cut bounds START_SLOT (R136): one that starts with the cut
begins the next window (notes/assumptions/141.md). -/
def Xprod.startOk (x : Xprod) (p ch start cut : Nat) : Bool :=
  let n := max x.subSlots 1
  let k := max x.k 1
  let sc := (cut - 1 - x.origin) / n
  let back := (sc + k - x.phase p ch) % k
  x.origin < cut && x.origin ≤ start && start < cut && (start - x.origin) % n == 0 && (sc < back || x.subStart (sc - back) ≤ start)

/-- The three conditions of R136 for one product. -/
def State.partialFits (e : Entry) (b : List Byte) (s : State) : Bool :=
  match e.obj with
  | .xprod x =>
    let ga := u16 b 12
    let gb := u16 b 14
    let cut := u48 b 32
    let p := (gb - x.firstGroup) * (gb - x.firstGroup + 1) / 2 + (ga - x.firstGroup)
    x.merge && !x.shared && e.st.active && x.ptag == BitVec.ofNat 32 (u32 b 8)
      && x.firstGroup ≤ ga && gb < x.firstGroup + x.ngroups
      && (s.plane.starts.contains (x.stream, cut) || s.plane.old.any fun o => o.desc.id == x.stream && o.first == cut)
      && (partialHalves b).all fun (h : Nat × List Int × Nat) =>
          x.firstChan ≤ h.1 && h.1 < x.firstChan + x.nchan
            && (match s.descFor x.stream cut with | some d => s.owns d h.1 | none => false)
            && (match s.descFor x.stream (cut - 1) with | some d => !s.owns d h.1 | none => true)
            && x.startOk p h.1 (u48 b 24) cut
  | _ => false

/-- One accepted half meets its record. Under aligned close it enters the integration that the slot before the cut belongs to, so
that no merged window exceeds K sub-integrations (notes/assumptions/141.md). -/
def State.applyHalf (h : Handle) (p ch start cut : Nat) (values : List Int) (tally : Nat) (x : Xprod) (s : State) : Xprod × State :=
  let k := max x.k 1
  let n := (cut - 1 - x.origin) / max x.subSlots 1 / k
  let c := if x.aligned then n % 2 else 0
  let r := x.recOr p ch c
  let late := if x.aligned then x.recs.any fun q => q.pair == p && q.chan == ch && q.drained && n < q.subint / k else r.passed
  if r.done then (x, s)
  else if late then
    -- the formatter emits it alone, with its own window
    s.closeRec h x { pair := p, chan := ch, copy := c, start := start, stop := cut, tally := tally }
      (values.map fun v => (BitVec.ofInt 64 v, false))
  else if r.drained then
    let (old, s) := s.adderRec x r
    let (r, s) := s.writeRec x r (values.zipIdx.map fun (v : Int × Nat) =>
      ((old.getD v.2 (0, true)).1 + BitVec.ofInt 64 v.1, (old.getD v.2 (0, true)).2))
    let (r, s) := s.readTally h r
    (x.putRec { r with tally := r.tally + tally, start := start, merged := true }, s)
  else
    let (r, s) := s.writeRec x r (values.map fun v => (BitVec.ofInt 64 v, false))
    (x.putRec { r with seeded := true, merged := true, start := start, stop := cut, tally := tally, tallyFlips := [], tallyLost := false, settled := false }, s)

/-- R120 step 5 and R136. -/
def State.partialIn (p : Nat) (b : List Byte) (s : State) : State :=
  match s.handles.live.find? fun e => s.partialFits e b with
  | none => s.countPort p fun c => { c with dropForm := satAdd 32 c.dropForm 1 }
  | some e =>
    match e.obj with
    | .xprod x =>
      let cut := u48 b 32
      let ga := u16 b 12 - x.firstGroup
      let gb := u16 b 14 - x.firstGroup
      let pi := gb * (gb + 1) / 2 + ga
      let key (ch : Nat) : Nat × Nat × Nat × Nat := (e.h.toNat, pi, ch, cut)
      let halves := partialHalves b
      let new := halves.filter fun (h : Nat × List Int × Nat) => !s.plane.partials.contains (key h.1)
      let s := if new.length < halves.length then s.countPort p fun c => { c with dropDup := satAdd 32 c.dropDup 1 } else s
      let s := { s with plane := { s.plane with partials := s.plane.partials ++ new.map fun (h : Nat × List Int × Nat) => key h.1 } }
      let (x, s) := new.foldl (fun (a : Xprod × State) (h : Nat × List Int × Nat) =>
        a.2.applyHalf e.h pi h.1 (u48 b 24) cut h.2.1 h.2.2 a.1) (x, s)
      s.updXprod e.h fun _ => x
    | _ => s

def execPartialReceive (port : Nat) (a : Arrival) (s : State) : Host.Outcome State Fault Refusal :=
  settleFlags s (s.portIn port false a fun b s =>
    s.creditedIn port b 8256 64 (partialFormOk b) (u16 b 6) fun s => if s.teller.safe then s else s.partialIn port b)

end Sys2Proof.Machine
end

