-- ==== Sys2Proof/Machine/Beams.lean ====
section
/-! DEFINITION. Beam products (R218–R234, R386, R387): weights, sweeps, the output stage, power state. -/
namespace Sys2Proof.Machine

def Beam.h (b : Beam) : Nat := doubles b.ngroups
/-- Sweeps of one round (R220). -/
def Beam.depth (b : Beam) : Nat := ceilDiv b.h 8

def State.beamChans (s : State) (b : Beam) (a : Nat) : List Nat :=
  match s.descFor b.stream a with
  | some d => s.ownedIn d b.firstChan b.nchan
  | none => []

/-! ### Weights (R222, R223, R387) -/

/-- The word of a bank that holds its flat word fw. -/
def Beam.weightWord (b : Beam) (bank fw : Nat) : Nat :=
  regionWord b.weightPages ((fw / max b.bankWords 1 * 2 + bank) * b.bankWords + fw % max b.bankWords 1)

/-- Words of one bank over all channels. -/
def Beam.bankSize (b : Beam) : Nat := b.cols.length * b.bankWords

/-- WEIGHT_CRC of R232. -/
def State.weightCrc (s : State) (b : Beam) : Nat :=
  crc32 ((List.range b.bankSize).flatMap fun w => le 8 (s.vword (b.weightWord b.active w)).data.toNat)

/-- A weight that no bank may hold (R222). -/
def weightBad (fp : Bool) (l : List Byte) (i : Nat) : Bool :=
  if fp then !b16.isFinite (u16 l (4 * i)) || !b16.isFinite (u16 l (4 * i + 2)) else u8 l (2 * i) == 0x80 || u8 l (2 * i + 1) == 0x80

/-- One word of the inactive bank with new bytes laid over it; `o` is the flat byte address of the first. -/
def State.writeWeightWord (b : Beam) (bank o : Nat) (l : List Byte) (fw : Nat) (s : State) : State :=
  let covered (i : Nat) : Bool := o ≤ 8 * fw + i && 8 * fw + i < o + l.length
  let w := b.weightWord bank fw
  let whole := (List.range 8).all covered
  let (old, bad, s) := if whole then ((0 : BitVec 64), false, s) else s.readWord srcWeights w
  let was := le 8 old.toNat
  let bytes := (List.range 8).map fun i => if covered i then l.getD (8 * fw + i - o) 0 else was.getD i 0
  s.setWord w (BitVec.ofNat 64 (leNat 8 bytes)) bad

/-- Weights enter a bank from flat byte address o. -/
def State.writeWeights (b : Beam) (bank o : Nat) (l : List Byte) (s : State) : State :=
  if l.isEmpty then s
  else ((List.range ((o + l.length - 1) / 8 - o / 8 + 1)).map (o / 8 + ·)).foldl (fun s fw => s.writeWeightWord b bank o l fw) s

/-- The active bank is copied into the other. -/
def State.copyBank (b : Beam) (s : State) : State :=
  (List.range b.bankSize).foldl (fun s fw => s.copyWord (b.weightWord b.active fw) (b.weightWord (1 - b.active) fw)) s

/-- A copy starts from a clear bank, so that words of zero are copied too. -/
def State.clearBank (b : Beam) (bank : Nat) (s : State) : State :=
  (List.range b.bankSize).foldl (fun s fw => s.setWord (b.weightWord bank fw) 0 false) s

def beamWeightsBody (p : Pkt) (s : State) : Body :=
  let b := s.beam? p.target
  let wb := (b.map Beam.wb).getD 2
  let off := u32 p.b 20
  let n := u32 p.b 24
  let data := p.b.drop 32
  { words := 8 + (n * wb + 3) / 4
    checks := [
      p.reserved [(17, 3), (28, 4)], failIf (3 < u8 p.b 16) stParam, badKind s p.target [2],
      failIf (match b with
        | some b => b.cols.length * b.nbb * 32 * 32 * b.h < off + n || (List.range n).any (weightBad b.fp data) || !zeroAt data (n * wb) (4 * ((n * wb + 3) / 4) - n * wb)
        | none => false) stParam,
      unitAbsent s 8 0, stale s p.target,
      failIf (s.hstate p.target == .faulted || (b.map (·.swapReq)).getD false) stState]
    effect := fun t =>
      match b with
      | none => (t, {}, .done)
      | some b =>
        let t := if bit (u8 p.b 16) 1 then (t.clearBank b (1 - b.active)).copyBank b else t
        let t := t.writeWeights b (1 - b.active) (off * wb) (data.take (n * wb))
        let (d, t) := t.takeFree 40
        let end_ := t.now + d
        let t := t.updBeam p.target fun b => { b with swapReq := bit (u8 p.b 16) 0, writingTo := end_ }
        (t, { handle := p.target, r0 := b.weightGen % 2 ^ 32 }, .done) }

def execBeamWeights (src : Source) (s : State) : Host.Outcome State Fault Refusal :=
  settleFlags s (runOp 0x35 beamWeightsBody src true .failed s)

/-- R223: a requested swap takes place before the first sweep of a span, or of an integration of a power product; one whose bank is
still being written then waits for the next such boundary, and counts WEIGHT_LATE. -/
def execWeightSwap (h : Handle) (s : State) : Host.Outcome State Fault Refusal :=
  settleFlags s (
    match s.beam? h with
    | none => s
    | some b =>
      let st := s.hstate h
      let next := match b.ready with | r :: _ => (r.1, r.2.1) | [] => b.next
      let spanEdge := b.swept == 0 && next.2 == 0
      let edge := spanEdge && (b.kind != 3 || next.1 % max b.kb 1 == 0 || !b.recs.any (·.drained))
      if b.swapReq && !s.teller.safe && st != .faulted && (!(st == .running || st == .stopping) || (edge && b.spanSums.isEmpty)) then
        let now := s.now
        s.updBeam h fun b =>
          if now < b.writingTo then { b with weightLate := satAdd 16 b.weightLate 1 }
          else { b with active := 1 - b.active, swapReq := false, weightGen := b.weightGen + 1 }
      else s)

/-! ### BEAM_CREATE (R218, R221, R230, R386) -/

def beamOf (p : Pkt) (wide : Bool) : Beam :=
  { stream := u8 p.b 16, flags := BitVec.ofNat 8 (u8 p.b 17), egress := u16 p.b 18, firstGroup := u16 p.b 20, ngroups := u16 p.b 22
    firstChan := u16 p.b 24, nchan := u16 p.b 26, beams := u16 p.b 28, tb := u16 p.b 30, kb := u16 p.b 32, vshift := u8 p.b 35
    origin := u48 p.b 40, seed := BitVec.ofNat 64 (u64 p.b 48), block := slice p.b 16 40, wide := wide, cols := [], ringId := 0
    weightPages := [], statePages := [] }

/-- Field ranges of R386. -/
def Beam.badFields (b : Beam) (d : StreamDesc) : Bool :=
  32 ≤ b.flags.toNat || b.kind == 0 || d.rangeBad b.firstGroup b.ngroups b.firstChan b.nchan || b.beams == 0 || 1024 < b.beams
    || b.tb % 64 != 0 || b.tb < 128 || 1024 < b.tb || (if b.kind == 3 then b.kb == 0 else b.kb != 0)
    || (if b.kind == 1 then 31 < b.vshift else b.vshift != 0) || (b.stochastic && b.kind != 3)

/-- The first BEAM product takes its ranks (R218). -/
def State.takeBeamRanks (n : Nat) (s : State) : State :=
  if !s.beams.isEmpty then s
  else
    let beam := s.beamRanks n
    s.setRoles (if s.corrHeld then s.ranksIn .corr else if s.xprods.isEmpty then []
      else (List.range 16).filter fun r => s.rankWhole r && !beam.contains r) beam

def State.withBeam (d : StreamDesc) (b : Beam) (n : Nat) (s : State) : Option (Handle × State) :=
  let s := s.takeBeamRanks n
  (s.handles.alloc (.beam b)).map fun (e : Handle × Handles) =>
    let h := e.1
    let s := { s with handles := e.2 }
    let (id, s) := s.joinRing h d b.firstGroup b.ngroups b.firstChan b.nchan b.wide
    let cols := padCols (s.beamC b) (((s.desc b.stream).map fun d => s.ownedIn d b.firstChan b.nchan).getD [] |>.map some)
    (h, s.updBeam h fun b => { b with ringId := id, cols := cols })

/-- Usable ranks: whole ones. -/
def State.wholeRanks (s : State) : Nat := (List.range 16).countP s.rankWhole

def beamCreateBody (p : Pkt) (s : State) : Body :=
  let d := if 15 < u8 p.b 16 then none else s.sizing (u8 p.b 16)
  let b := beamOf p ((d.map (·.wide)).getD false)
  let n := u8 p.b 34
  let first := s.beams.isEmpty
  let have_ := (s.ranksIn .beam).length
  let got := (s.beamRanks n).length
  let after := d.bind fun d => s.withBeam d b n
  { words := 14
    checks := [
      p.noTarget, p.reserved [(36, 4), (46, 2)],
      failIf (match d with | some d => b.badFields d | none => true) stParam,
      failIf (first && (n == 0 || s.wholeRanks < n)) stParam,
      failIf (s.portBad b.egress b.recBytes) stParam,
      unitAbsent s 8 0, unitFault s 8 0, unitFault s 7 (b.egress / 8),
      match (after.map fun (e : Handle × State) => e.2).bind (State.admitted s.boot.kernelNeeds.2) with
      | some r => if r.status == stFit then some r else none
      | none => none,
      if first then (if got < n then some { status := stResource, r0 := 5, r1 := n, r2 := got } else none)
      else (if have_ < n then some { status := stResource, r0 := 5, r1 := n, r2 := have_ } else none),
      (after.map fun (e : Handle × State) => e.2).bind (State.admitted s.boot.kernelNeeds.2),
      noIndex s]
    effect := fun t =>
      match d, d.bind fun d => t.withBeam d b n with
      | some d, some (h, u) =>
        let c := u.ownedMax b.stream b.firstChan b.nchan
        (u.growAll.settleSupply.takeServants h s.boot.kernelNeeds.2, { handle := h, r0 := c, r1 := u.growth, r2 := (u.beamNeeds d u.poolSizes.2 c b).beam.ppm }, .done)
      | _, _ => (t, { status := stResource }, .done) }

def execBeamCreate (src : Source) (s : State) : Host.Outcome State Fault Refusal :=
  settleFlags s (runOp 0x34 beamCreateBody src true .failed s)

/-! ### Spans (R231, R455) -/

/-- A span has passed once none of its sweeps or sums is left. -/
def State.countSpan (h : Handle) (span : Nat) (s : State) : State :=
  match s.beam? h with
  | some b =>
    if span < b.next.1 && !(b.ready.any fun e => e.1 == span) && !(b.spanSums.any fun e => e.span == span) then
      s.updBeam h fun b => { b with cnt := { b.cnt with subints := satAdd 64 b.cnt.subints 1 } }
    else s
  | none => s

def State.spanReady (h : Handle) (span : Nat) (s : State) : State :=
  match s.beam? h with
  | none => s
  | some b =>
    let st := s.hstate h
    if s.teller.safe || !(st == .running || st == .stopping) || b.next.1 != span then s
    else
      let l := s.spanPieces b span
      match l[b.next.2]? with
      | none => s
      | some (a, e) =>
        if !s.piecePassed b.stream e || s.mapDue b.stream e then s
        else
          let gate := s.gated b.stream (b.spanStart span) span
          let next := if b.next.2 + 1 < l.length then (span, b.next.2 + 1) else (span + 1, 0)
          let s := s.updBeam h fun b => { b with next := next }
          if (s.beamChans b a).isEmpty then s.countSpan h span
          else s.updBeam h fun q => { q with ready := q.ready ++ [(span, b.next.2, gate)] }

def execSpanReady (h : Handle) (span : Nat) (s : State) : Host.Outcome State Fault Refusal := settleFlags s (s.spanReady h span)

/-! ### Beam arithmetic (R219, R224, R225) -/

/-- w × x. -/
def mulCx (w x : Int × Int) : Int × Int := (w.1 * x.1 - w.2 * x.2, w.1 * x.2 + w.2 * x.1)

/-- The exact integer sum over inputs. -/
def beamInt (w x : List (Int × Int)) : Int × Int := (List.zipWith mulCx w x).foldl addPair (0, 0)

/-- The exact sum of products of binary16 weights and integer samples, rounded once to binary32. -/
def tileSum (l : List (Nat × Int)) : Nat :=
  let v := l.foldl (fun (acc : Int × Int) e =>
    let w := b16.exact e.1
    addExact acc.1 acc.2 (w.1 * e.2) w.2) (0, 0)
  b32.round v.1 v.2 false

/-- One tile: 32 rows. -/
def tileFp (w : List (Nat × Nat)) (x : List (Int × Int)) : Nat × Nat :=
  let z := List.zip w x
  (tileSum (z.flatMap fun (e : (Nat × Nat) × (Int × Int)) => [(e.1.1, e.2.1), (e.1.2, -e.2.2)]),
   tileSum (z.flatMap fun (e : (Nat × Nat) × (Int × Int)) => [(e.1.1, e.2.2), (e.1.2, e.2.1)]))

def addFp (a b : Nat × Nat) : Nat × Nat := (b32.add a.1 b.1, b32.add a.2 b.2)

/-- The rank's tree: three levels over 8 tiles. -/
def treeFp (l : List (Nat × Nat)) : Nat × Nat :=
  let t (i : Nat) : Nat × Nat := l.getD i (0, 0)
  addFp (addFp (addFp (t 0) (t 1)) (addFp (t 2) (t 3))) (addFp (addFp (t 4) (t 5)) (addFp (t 6) (t 7)))

/-- Entries from place a on, n of them, padded. -/
def window {α : Type} (d : α) (l : List α) (a n : Nat) : List α := (List.range n).map fun i => l.getD (a + i) d

/-- One beam at one time of a sweep: 256 weights as read and 256 inputs. -/
def Beam.sweepValue (b : Beam) (w : List (Nat × Nat)) (x : List (Int × Int)) : Int × Int :=
  if b.fp then
    let v := treeFp ((List.range 8).map fun k => tileFp (window (0, 0) w (32 * k) 32) (window (0, 0) x (32 * k) 32))
    ((v.1 : Int), (v.2 : Int))
  else beamInt (w.map fun v => (sext 8 v.1, sext 8 v.2)) x

/-- One sweep's value joins the beam sum buffer. -/
def Beam.addSum (b : Beam) (a v : Int × Int) : Int × Int :=
  if b.fp then
    let r := addFp (a.1.toNat, a.2.toNat) (v.1.toNat, v.2.toNat)
    ((r.1 : Int), (r.2 : Int))
  else addPair a v

/-! ### Sweeps (R220, R228) -/

/-- The operands of one slot of a sweep: 16 groups. -/
def State.sweepSlot (b : Beam) (h : Handle) (ch g k : Nat) : Nat → State → List Operand × State
  | 0, s => ([], s)
  | n + 1, s =>
    let pg := 16 * g + 15 - n
    let (o, s) := if b.ngroups ≤ pg then (none, s)
      else s.operand b.ringId k (b.firstGroup + pg) ch [h.toNat] fun s =>
        s.updBeam h fun b => { b with cnt := { b.cnt with ctUncorr := satAdd 32 b.cnt.ctUncorr 1 } }
    let (l, s) := State.sweepSlot b h ch g k n s
    (o :: l, s)

def State.sweepSlots (b : Beam) (h : Handle) (ch g : Nat) : List Nat → State → List (List Operand) × State
  | [], s => ([], s)
  | k :: t, s =>
    let (o, s) := s.sweepSlot b h ch g k 16
    let (l, s) := State.sweepSlots b h ch g t s
    (o :: l, s)

/-- The 256 inputs at time t of a slot; zero where a group-slot is invalid. -/
def slotInputs (wide : Bool) (o : List Operand) (t : Nat) : List (Int × Int) :=
  o.flatMap fun c => match c.bytes with
    | some c => (List.range 16).map fun i => sampleOf wide c t i
    | none => List.replicate 16 (0, 0)

/-- The weights of one beam for a sweep, as patterns, and whether a word is poisoned. -/
def State.sweepWeights (b : Beam) (ci beam g : Nat) (s : State) : List (Nat × Nat) × Bool × State :=
  let row := 32 * b.h
  let n := min 256 (row - 256 * g)
  let first := (beam * row + 256 * g) * b.wb / 8 + ci * b.bankWords
  let (l, s) := s.readEach (fun w s => s.readWord srcWeights w) ((List.range (n * b.wb / 8)).map fun i => b.weightWord b.active (first + i))
  let bytes := l.flatMap fun (v : BitVec 64 × Bool) => le 8 (if v.2 then 0 else v.1.toNat)
  let ws := (List.range n).map fun i => if b.fp then (u16 bytes (4 * i), u16 bytes (4 * i + 2)) else (u8 bytes (2 * i), u8 bytes (2 * i + 1))
  (ws, l.any (·.2), s)

/-- The weights of a block's 32 beams, and the beams with a poisoned word. -/
def State.blockWeights (b : Beam) (ci block g : Nat) : Nat → State → List (List (Nat × Nat)) × List Nat × State
  | 0, s => ([], [], s)
  | n + 1, s =>
    let beam := 32 * block + 31 - n
    let (w, bad, s) := s.sweepWeights b ci beam g
    let (l, m, s) := State.blockWeights b ci block g n s
    (w :: l, if bad then beam :: m else m, s)

/-- One rank's part of a sweep; a gated one adds zero. -/
def State.sweepBlock (h : Handle) (ci block rank g : Nat) (gate : Bool) (times : List (List (Int × Int))) (s : State) : State :=
  match s.beam? h with
  | none => s
  | some b =>
    let (ws, bad, s) := if gate then (List.replicate 32 [], [], s) else s.blockWeights b ci block g 32
    let dead := !gate && (List.range 8).any fun k => 8 * g + k < b.h && (s.xa.pos.getD (8 * rank + k) none).isNone
    let bad := if dead then (List.range 32).map (32 * block + ·) else bad
    let v := times.flatMap fun x => ws.map fun w => b.sweepValue w x
    let old := ((b.sums.find? fun e => e.1 == block).map (·.2)).getD (List.replicate v.length (0, 0))
    s.updBeam h fun b => { b with
      sums := (b.sums.filter fun e => e.1 != block) ++ [(block, List.zipWith b.addSum old v)]
      bad := b.bad ++ bad.filter fun i => !b.bad.contains i }

/-! ### Output stage (R226, R227, R232, R233) -/

/-- A sum as m × 2^e. -/
def Beam.exactSum (b : Beam) (v : Int) : Int × Int := if b.fp then b32.exact v.toNat else (v, 0)

/-- One part of a voltage sample: its bytes, and whether it was clamped (R226). -/
def Beam.voltPart (b : Beam) (v : Int) : List Byte × Bool :=
  let (m, e) := b.exactSum v
  if b.kind = 1 then
    let r := rheFrac ⟨m * 2 ^ e.toNat, 2 ^ ((-e).toNat + b.vshift)⟩
    let c := clampSym 127 r
    (leInt 1 c, c != r)
  else
    let ovf := (65504 : Int) * 2 ^ (-e).toNat < (m.natAbs : Int) * 2 ^ e.toNat
    let neg := if b.fp then bit v.toNat 31 else m < 0
    if ovf then (le 2 (b16.signPat neg + 0x7BFF), true) else (le 2 (b16.round m e neg), false)

/-- FLAGS of a BEAM record (R232). -/
def Beam.recFlags (b : Beam) (short poison settled : Bool) : BitVec 8 :=
  BitVec.ofNat 8 (flagBit short 0 + flagBit poison 2 + flagBit settled 3 + flagBit (b.kind != 1) 4 + flagBit (b.kind == 3) 5
    + flagBit b.wide 6 + flagBit b.stochastic 7)

/-- The payload descriptor (Table — BEAM payload descriptor). -/
def Beam.descriptor (b : Beam) (weights : Nat × Nat) (sat : Nat) : List Byte :=
  le 1 b.kind ++ le 1 (if b.fp then 2 else 1) ++ le 2 (if b.kind = 3 then 1 else 64) ++ le 4 weights.1 ++ le 4 weights.2 ++ le 4 sat

/-- A closed value of a beam product. -/
def State.closeBeam (h : Handle) (b : Beam) (chan pair start stop tally : Nat) (flags : BitVec 8) (weights : Nat × Nat)
    (payload : List Byte) (s : State) : State :=
  let d := s.descFor b.stream (stop - 1)
  let time (k : Nat) : Nat := (d.map fun d => d.slotStart k).getD 0
  let c : Closed := {
    handle := h, rtype := 2, chan := chan, pair := pair, start := start, stop := stop, tally := tally, flags := flags
    holdover := s.heldSince (time start), t0 := time start, t1 := time stop, image := (d.map (·.image)).getD []
    weightCrc := weights.1, payload := payload }
  let stamp := s.stamp
  (s.updXa fun q => { q with closeQ := q.closeQ ++ [c] }).updBeam h fun b => { b with cnt := { b.cnt with lastClose := stamp } }

/-- R226, R233: the voltage records of a block over one piece: one for each 64 channel samples of the span's grid. -/
def State.voltRecords (h : Handle) (b : Beam) (span a e chan block : Nat) (v : List (Int × Int)) (s : State) : State :=
  let ws := 64 / b.l
  let weights := (s.weightCrc b, b.weightGen)
  let count := min 32 (b.beams - 32 * block)
  let poison := b.bad.any fun i => 32 * block ≤ i && i < 32 * block + count
  (List.range (b.tb / 64)).foldl (fun s w =>
    let lo := max a (b.spanStart span + w * ws)
    let hi := min e (b.spanStart span + (w + 1) * ws)
    if hi ≤ lo then s
    else
      let first := b.spanStart span + w * ws
      let sample (t i : Nat) : Int × Int :=
        let at_ := (first - a) * b.l + t - (a - first) * b.l
        if count ≤ i || b.bad.contains (32 * block + i) || t < (lo - first) * b.l || (hi - first) * b.l ≤ t then (0, 0)
        else v.getD (at_ * 32 + i) (0, 0)
      let parts := (List.range 64).flatMap fun t => (List.range 32).flatMap fun i =>
        let x := sample t i
        [b.voltPart x.1, b.voltPart x.2]
      let slots := (List.range (hi - lo)).map fun k => lo - a + k
      let tally := (slots.map fun k => b.slotTally.getD k 0).sum * 16 * b.l
      let settled := slots.any fun k => b.slotSettled.getD k false
      s.closeBeam h b chan (32 * block + 4096 * count) lo hi tally (b.recFlags (hi - lo < ws) poison settled) weights
        (b.descriptor weights (parts.countP (·.2)) ++ parts.flatMap (·.1))) s

/-- R227: the power of one beam over a piece. -/
def Beam.powerSum (b : Beam) (l : List (Int × Int)) : Int × Int :=
  if b.fp then
    let wide (v : Int) : Nat := let x := b32.exact v.toNat; b64.round x.1 x.2 false
    b64.exact (l.foldl (fun acc v => b64.add acc (b64.add (b64.mul (wide v.1) (wide v.1)) (b64.mul (wide v.2) (wide v.2)))) 0)
  else ((l.map fun v => v.1 * v.1 + v.2 * v.2).sum, 0)

/-- The round ends: every block it holds goes to the output stage. -/
def State.roundEnd (h : Handle) (span a e chan : Nat) (s : State) : State :=
  match s.beam? h with
  | none => s
  | some b =>
    let leaves := match s.descFor b.stream e with | some d => !s.owns d chan | none => true
    b.sums.foldl (fun s (q : Nat × List (Int × Int)) =>
      if b.kind = 3 then
        let sum : SpanSum := {
          span := span, first := a, stop := e, chan := chan, block := q.1
          values := (List.range 32).map fun i => b.powerSum ((List.range (q.2.length / 32)).map fun t => q.2.getD (t * 32 + i) (0, 0))
          bad := b.bad.filter fun i => i / 32 == q.1
          tally := b.slotTally.sum * 16 * b.l, settled := b.slotSettled.any id, weights := (s.weightCrc b, b.weightGen)
          flush := b.stopSlot == some e || leaves }
        s.updBeam h fun b => { b with spanSums := b.spanSums ++ [sum] }
      else s.voltRecords h b span a e chan q.1 q.2) s

/-- A sweep ends (R220). -/
def State.sweepEnd (sw : Sweep) (s : State) : State :=
  match s.beam? sw.handle with
  | none => s
  | some b =>
    match b.ready with
    | [] => s
    | (span, piece, gate) :: rest =>
      match (s.spanPieces b span)[piece]? with
      | none => s
      | some (a, e) =>
        let h := sw.handle
        let ranks := s.ranksIn .beam
        let nb := ranks.length
        let chans := s.beamChans b a
        let rounds := ceilDiv b.nbb nb
        let ci := chans.idxOf sw.chan
        if s.teller.safe || nb == 0 || span != sw.span || !chans.contains sw.chan || rounds ≤ sw.round || b.depth ≤ sw.g
            || (ci * rounds + sw.round) * b.depth + sw.g != b.swept then s
        else
          let slots := (List.range (e - a)).map (a + ·)
          let s := if sw.g = 0 then s.updBeam h fun b => { b with
              sums := [], slotTally := List.replicate slots.length 0, slotSettled := List.replicate slots.length false, bad := [] } else s
          let (ops, s) := if gate then (slots.map fun _ => List.replicate 16 none, s) else s.sweepSlots b h sw.chan sw.g slots
          let times := ops.flatMap fun o => (List.range b.l).map fun t => slotInputs b.wide o t
          let ring := s.ring? b.ringId
          let groups := (List.range 16).filter fun i => 16 * sw.g + i < b.ngroups
          let settling (k : Nat) (o : List Operand) : Bool := !gate && groups.any fun i =>
            !Operand.valid (o.getD i none) && (ring.map fun r => r.settling k (b.firstGroup + 16 * sw.g + i) (sw.chan / 8)).getD false
          let invalid := if gate then 0 else (ops.map fun o => groups.countP fun i => !Operand.valid (o.getD i none)).sum
          let s := s.updBeam h fun b => { b with
            slotTally := List.zipWith (· + ·) b.slotTally (ops.map fun o => o.countP Operand.valid)
            slotSettled := List.zipWith (· || ·) b.slotSettled (List.zipWith settling slots ops)
            cnt := { b.cnt with invalid := satAdd 32 b.cnt.invalid invalid } }
          let s := (List.range nb).foldl (fun s i =>
            let block := sw.round * nb + i
            if block < b.nbb then s.sweepBlock h ci block (ranks.getD i 0) sw.g gate times else s) s
          let s := if sw.g + 1 = b.depth then s.roundEnd h span a e sw.chan else s
          if b.swept + 1 = chans.length * rounds * b.depth then
            (s.updBeam h fun b => { b with swept := 0, sums := [], ready := rest }).countSpan h span
          else s.updBeam h fun b => { b with swept := b.swept + 1 }

def execSweepEnd (sw : Sweep) (s : State) : Host.Outcome State Fault Refusal := settleFlags s (s.sweepEnd sw).trimAll

/-! ### Power state (R227–R229, R234) -/

def Beam.rec? (b : Beam) (ch c : Nat) : Option Rec := b.recs.find? fun r => r.chan == ch && r.copy == c
/-- A record, or a fresh one: outside the region where its channel has left the package already. -/
def Beam.recOr (b : Beam) (ch c : Nat) : Rec :=
  (b.rec? ch c).getD { pair := 0, chan := ch, copy := c
                       moved := if b.cols.contains (some ch) then none else some (List.replicate (b.nbb * 16) (0, {})) }
def Beam.dropRec (b : Beam) (r : Rec) : Beam := { b with recs := b.recs.filter fun q => !(q.chan == r.chan && q.copy == r.copy) }
def Beam.putRec (b : Beam) (r : Rec) : Beam := { (b.dropRec r) with recs := (b.dropRec r).recs ++ [r] }

/-- The words of one block of a record. -/
def blockWords {α : Type} (l : List α) (block : Nat) : List α := (l.drop (16 * block)).take 16

/-- R227: the state words of a block after a span sum. -/
def Beam.sumPower (b : Beam) (it : SpanSum) (ovf : Bool) (old : List (BitVec 64 × Bool)) : List (BitVec 64 × Bool) :=
  (List.range 16).map fun w =>
    let o : BitVec 64 × Bool := if ovf then (0, false) else old.getD w (0, true)
    let half (i : Nat) : Nat :=
      let v := it.values.getD (2 * w + i) (0, 0)
      let beam := 32 * it.block + 2 * w + i
      addPart (o.1.toNat / 2 ^ (32 * i) % 2 ^ 32) v.1 v.2 (if b.stochastic then some (srBits b.seed it.span (beam * 16384 + it.chan) 0 0) else none)
    let hit := it.bad.any fun i => i / 2 == 16 * it.block + w
    (BitVec.ofNat 64 (half 0 + half 1 * 2 ^ 32), o.2 || hit)

/-- A power record closes with its values (R229, R233). -/
def State.closePower (h : Handle) (b : Beam) (r : Rec) (l : List (BitVec 64 × Bool)) (s : State) : State :=
  let short := r.stop - r.start < b.kb * b.spanSlots
  let values := (List.range (32 * b.nbb)).flatMap fun i =>
    let w := l.getD (i / 2) (0, false)
    le 4 (if b.beams ≤ i || w.2 then 0 else w.1.toNat / 2 ^ (32 * (i % 2)))
  s.closeBeam h b r.chan (4096 * b.beams) r.start r.stop r.tally (b.recFlags short (l.any (·.2)) r.settled) r.weights
    (b.descriptor r.weights 0 ++ values)

/-- The vector engine reads a record and emits it. -/
def State.readPower (h : Handle) (r : Rec) (s : State) : State :=
  match s.beam? h with
  | none => s
  | some b =>
    let (l, s) := match r.moved with
      | some m => s.readMoved srcVector m
      | none => s.readEach (fun w s => s.readWord srcVector w) ((b.recAddrs r).map s.placed)
    (s.closePower h b r l).updBeam h fun b => b.dropRec r

/-- All waiting power records of a product, in ascending channel. -/
def State.readAllPower (h : Handle) : Nat → State → State
  | 0, s => s
  | n + 1, s =>
    match (s.beam? h).bind fun b => lowestQ (b.recs.filter (·.waiting)) with
    | some r => State.readAllPower h n (s.readPower h r)
    | none => s

/-- R227: the oldest span sum of a product is added. -/
def State.powerSpanAdd (h : Handle) (s : State) : State :=
  match s.beam? h with
  | none => s
  | some b0 =>
    match b0.spanSums with
    | [] => s
    | it :: rest =>
      let s := s.updBeam h fun b => { b with spanSums := rest }
      let n := it.span / max b0.kb 1
      let c := n % 2
      let gone := (b0.recOr it.chan c).done || (b0.recOr it.chan (1 - c)).done
      if gone then s.countSpan h it.span
      else
        let r := b0.recOr it.chan c
        let due := it.block == 0 && !(r.drained && r.subint / max b0.kb 1 == n)
        let s := if due then
            s.updBeam h fun b => match b.rec? it.chan (1 - c) with
              | some o => if o.drained then b.putRec { o with waiting := true } else b
              | none => b
          else s
        let s := if due && r.drained then s.readPower h r else s
        match s.beam? h with
        | none => s
        | some b =>
          let r := b.recOr it.chan c
          let ovf := due || (it.block != 0 && r.start == it.first)
          let region := blockWords (b.recAddrs r) it.block
          let s := if ovf && r.moved.isNone then s.turnWords region else s
          let addrs := region.map s.placed
          let (old, s) := if ovf then ([], s) else match r.moved with
            | some m => s.readMoved srcAdder (blockWords m it.block)
            | none => s.readEach (fun w s => s.adderRead w) addrs
          let l := b.sumPower it ovf old
          let s := if r.moved.isSome then s else (List.zip addrs l).foldl (fun s (e : Nat × (BitVec 64 × Bool)) => s.setWord e.1 e.2.1 e.2.2) s
          let last := it.block + 1 == b.nbb
          let r : Rec := { r with
            drained := true, subint := it.span, start := if due then it.first else r.start, stop := it.stop
            tally := (if due then 0 else r.tally) + (if last then it.tally else 0), settled := (!due && r.settled) || it.settled
            weights := it.weights, 
            moved := r.moved.map fun m =>
              m.take (16 * it.block) ++ rewritten (blockWords m it.block) (vwordsOf l) ++ m.drop (16 * it.block + 16) }
          let s := s.updBeam h fun b => b.putRec r
          let s := if last && (it.flush || b.aborted) then
              let s := s.readAllPower h b.recs.length
              if b.aborted && b.discard then s.updBeam h fun b => b.putRec { pair := 0, chan := r.chan, copy := r.copy, done := true }
              else
                let s := s.readPower h r
                if b.aborted then s.updBeam h fun b => b.putRec { pair := 0, chan := r.chan, copy := r.copy, done := true } else s
            else s
          s.countSpan h it.span

def execPowerSpanAdd (h : Handle) (s : State) : Host.Outcome State Fault Refusal :=
  settleFlags s (if s.teller.safe then s else (s.powerSpanAdd h).trimAll)

end Sys2Proof.Machine
end

