-- ==== Sys2Proof/Machine/Captures.lean ====
section
/-! DEFINITION. Captures (R245–R251, R391–R394): rings of blocks in the Reserve, freezes and their windows, and readout. -/
namespace Sys2Proof.Machine

/-! ### Sample indices (R165, R246) -/

/-- Ticks from the plane epoch to sample n at fs. -/
def sampleTicks (fsKhz n : Nat) : Nat := n * 1000000 * 65536 / max 1 fsKhz

/-- The first sample at or after a time. -/
def sampleFrom (fsKhz t : Nat) : Nat := ceilDiv (t * max 1 fsKhz) (1000000 * 65536)

/-- The local input that carries a global input. -/
def State.inputOf (s : State) (gid : Nat) : Option Nat :=
  (List.range 512).find? fun i => match (s.input i).map with | some m => m.gid == gid | none => false

/-- What an input's coarse delay puts out at array-time index a (R150); none before its data and beyond it. -/
def FeInput.coarseAt (x : FeInput) (a : Int) : Option Sample :=
  if a < x.outFirst then none
  else if a < x.left then x.out[(a - x.outFirst).toNat]?
  else
    let q := a - x.nc - x.first
    if q < 0 then none else x.hist[q.toNat]?

/-- The array-time index of plane index n. -/
def FeInput.arrayIndex (x : FeInput) (fsKhz : Nat) (n : Nat) : Int := (n : Int) - planeIndex x.anchor fsKhz 0

/-! ### Geometry of a capture -/

/-- Blocks of one round: one for each group, and for CHAN44 each channel block. -/
def Capture.perGroup (c : Capture) : Nat := if c.format = 1 then 1 else max 1 c.nblocks
def Capture.unitCount (c : Capture) : Nat := c.ngroups * c.perGroup
def Capture.groupOf (c : Capture) (u : Nat) : Nat := c.firstGroup + u / c.perGroup
def Capture.blockOf (c : Capture) (u : Nat) : Nat := c.firstBlock + u % c.perGroup
def Capture.step (c : Capture) : Nat := if c.format = 1 then 4096 else 8

/-- Time of an index of unit u: a sample of its group, or a slot of the stream. -/
def State.capTime (s : State) (c : Capture) (u i : Nat) : Nat :=
  if c.format = 1 then sampleTicks (c.rates.getD (u / c.perGroup) 0) i
  else match s.sizing c.stream with
    | some d => d.slotStart i
    | none => 0

/-- The first index of unit u at or after a time. -/
def State.capFrom (s : State) (c : Capture) (u t : Nat) : Nat :=
  if c.format = 1 then sampleFrom (c.rates.getD (u / c.perGroup) 0) t
  else match s.sizing c.stream with
    | some d => d.unitFrom d.l t
    | none => 0

/-- Where the next block of unit u starts and ends. -/
def State.nextSpan (s : State) (c : Capture) (u : Nat) : Nat × Nat :=
  let i := c.heads.getD u 0
  (s.capTime c u i, s.capTime c u (i + c.step))

/-- The unit whose next block ends first. -/
def State.nextUnit (s : State) (c : Capture) : Nat :=
  (List.range c.unitCount).foldl (fun b u => if (s.nextSpan c u).2 < (s.nextSpan c b).2 then u else b) 0

/-- Everything before this time has been written. -/
def State.writtenTo (s : State) (c : Capture) : Nat :=
  (List.range c.unitCount).foldl (fun t u => min t (s.nextSpan c u).1) (s.nextSpan c 0).1

/-! ### Contents of a block (R246) -/

/-- The bytes of a block, its flags, the clamped samples (CAP_SAT), and the free values it takes. -/
structure BlockData where
  bytes : List Byte
  flags : BitVec 16
  clamped : Nat
  free : Nat := 0

/-- One RAW8 byte, and whether it was clamped. A byte of an IQ input has no stated value: `free` supplies it. -/
def rawByte (shift : Nat) (iq : Bool) (free : Nat) : Option Sample → Byte × Bool
  | none => (0x80, false)
  | some v =>
    if v.zeroed || v.parity then (0x80, false)
    else if iq then (BitVec.ofNat 8 (Config.freeNat free), false)
    else
      let x := rhe v.re shift
      let y := clampSym 127 x
      (BitVec.ofInt 8 y, x != y)

/-- The inputs of a group, by place; none where none is mapped or its rate differs. -/
def State.groupInputs (s : State) (fsKhz g : Nat) : List (Option FeInput) :=
  (List.range 16).map fun j => (s.inputOf (16 * g + j)).bind fun i =>
    let x := s.input i
    if (match x.map with | some m => s.fsOf m == fsKhz | none => false) then some x else none

/-- Every input of a group has put out its samples below array time n; one whose link is gone never will. -/
def State.rawWhole (s : State) (fsKhz g n : Nat) : Bool :=
  sampleTicks fsKhz n ≤ s.now && (s.groupInputs fsKhz g).all fun x => match x with
    | none => true
    | some x =>
      let a := x.arrayIndex fsKhz n - 1
      a < x.outFirst || (x.coarseAt a).isSome
        || (match x.map with | some m => (s.linkNamed m.link).isNone | none => true)

/-- A RAW8 block of group g from sample n. -/
def State.rawBlock (s : State) (c : Capture) (fsKhz g n : Nat) : BlockData :=
  let xs := s.groupInputs fsKhz g
  let cells : List (Byte × Bool) := (List.range 4096).flatMap fun t => xs.zipIdx.map fun (e : Option FeInput × Nat) =>
    match e.1 with
    | none => ((0x80 : Byte), false)
    | some x => rawByte c.rawshift x.iq (s.freeCtr + 16 * t + e.2) (x.coarseAt (x.arrayIndex fsKhz (n + t)))
  let some_ (p : FeInput → Bool) : Bool := xs.any fun x => match x with | some x => p x | none => false
  let settling (x : FeInput) : Bool :=
    let a := x.arrayIndex fsKhz n
    x.settle.any fun i => (i.1 : Int) < a + 4096 && a < (i.2 + x.support : Nat)
  { bytes := cells.map Prod.fst
    flags := (if cells.any fun (e : Byte × Bool) => e.1 == 0x80 then fMarked else 0) ||| (if some_ settling then fSettling else 0)
      ||| (if some_ fun x => pTest x.path != 0 then fTest else 0)
    clamped := cells.countP Prod.snd
    free := if some_ FeInput.iq then 65536 else 0 }

/-- A CHAN44 block of group g and channel block b from slot k. -/
def Capture.chanBlock (c : Capture) (g b k : Nat) : BlockData :=
  let slot (i : Nat) : Option (Nat × List Byte) :=
    (c.packed.find? fun e => e.1 == k + i && e.2.1 == g && e.2.2.1 == b).map fun e => (e.2.2.2.1, e.2.2.2.2)
  let parts := (List.range 8).map slot
  let bytes := parts.flatMap fun e => match e with
    | some (f, d) => if bit f 0 then slice d 0 8192 else List.replicate 8192 0x88
    | none => List.replicate 8192 0x88
  let has (n : Nat) : Bool := parts.any fun e => match e with | some (f, _) => bit f n | none => false
  { bytes := bytes
    flags := (if bytes.contains 0x88 then fMarked else 0) ||| (if has 1 then fSettling else 0) ||| (if has 3 then fTest else 0)
    clamped := 0 }

/-! ### Windows (R248, R249) -/

/-- The blocks of unit u still to be written that overlap a stretch of array time: the first of them and the one after the last,
counted from the next block. -/
def State.blocksToCome (s : State) (c : Capture) (u : Nat) (w : Window) : Nat × Nat :=
  let i := c.heads.getD u 0
  ((s.capFrom c u (w.first + 1) - 1 - i) / c.step, ceilDiv (s.capFrom c u w.stop - i) c.step)

/-- How many whole numbers lie in some of the stretches [a, b), taken in ascending a. -/
def unionCount (l : List (Nat × Nat)) : Nat :=
  (l.foldl (fun (acc : Nat × Nat) e => (acc.1 + (e.2 - max e.1 acc.2), max acc.2 e.2)) (0, 0)).1

/-- Windows in ascending order of their beginning. -/
def insertWindow (w : Window) : List Window → List Window
  | [] => [w]
  | v :: t => if w.first ≤ v.first then w :: v :: t else v :: insertWindow w t

/-- Protected blocks of a capture with these windows: those retained and those to come, a block that two windows share once. -/
def State.protectedBy (s : State) (c : Capture) (l : List Window) : Nat :=
  let l := l.foldl (fun a w => insertWindow w a) []
  c.blocks.countP (fun b => l.any fun w => w.first < b.t1 && b.t0 < w.stop)
    + ((List.range c.unitCount).map fun u => unionCount (l.map (s.blocksToCome c u))).sum

/-- R248: windows whose end has been written are FROZEN; with it a STOP-mode capture completes (R354). -/
def State.settleWindows (h : Handle) (s : State) : State :=
  match s.capture? h with
  | none => s
  | some c =>
    let t := s.writtenTo c
    let done (w : Nat × Window) : Nat × Window := (w.1, { w.2 with frozen := w.2.frozen || w.2.stop ≤ t })
    let ws := c.windows.map done
    let s := s.updCapture h fun c => { c with windows := ws }
    if s.hstate h == .stopping && !c.keep && ws.all (fun (w : Nat × Window) => w.2.frozen) then
      let now := s.stamp
      s.updEntry h fun e => { e with st := .stopped, completed := true, doneAt := now }
    else s

/-- What became of a freeze. -/
inductive Freeze where
  /-- its window's number, and whether it was merged into a window -/
  | window (n : Nat) (clipped merged : Bool)
  | ignored
  | refused
  | idle
  deriving DecidableEq, Repr

/-- The start of the earliest block of unit u that a window from `first` can hold: retained, or to come. -/
def State.earliestBlock (s : State) (c : Capture) (first u : Nat) : Nat :=
  let mine (b : CapBlock) : Bool := b.group == c.groupOf u && (c.format = 1 || b.cblock == c.blockOf u)
  ((c.blocks.filter fun b => mine b && first < b.t1).map (·.t0)).foldl min (s.nextSpan c u).1

/-- The window a freeze asks for: it begins no earlier than the next retained block or block to come, and is CLIPPED where a block of
some group is not retained (R248). -/
def State.clipWindow (s : State) (c : Capture) (first stop : Nat) (fires : List (Handle × Nat)) : Window :=
  let starts := (List.range c.unitCount).map (s.earliestBlock c first)
  let start := starts.foldl min (starts.headD 0)
  { first := if first < start then min start stop else first, stop := stop, clipped := starts.any (first < ·), fires := fires }

/-- The union of windows that overlap or touch. -/
def Window.join (a b : Window) : Window :=
  { first := min a.first b.first, stop := max a.stop b.stop, clipped := if a.first < b.first then a.clipped else b.clipped
    suspect := a.suspect || b.suspect, frozen := a.frozen && b.frozen, fires := a.fires ++ b.fires }

def Window.touches (a b : Window) : Bool := a.first ≤ b.stop && b.first ≤ a.stop

/-- Blocks of a window become PROTECTED, and SUSPECT with it. -/
def State.protect (h : Handle) (w : Window) (s : State) : State :=
  match s.capture? h with
  | none => s
  | some c => s.flagBlocks h ((c.inWindow w).map (·.pos)) (· ||| (if w.suspect then fProtected ||| fSuspect else fProtected))

/-- R248, R249: a freeze of a capture: the window [t − pre, t + post) in ticks. -/
def State.freeze (h : Handle) (t preNs postNs : Nat) (fires : List (Handle × Nat)) (s : State) : Freeze × State :=
  match s.capture? h with
  | none => (.idle, s)
  | some c =>
    let w := s.clipWindow c (t - min preNs c.preMax * tickNs) (t + min postNs c.postMax * tickNs) fires
    let st := s.hstate h
    if st == .running && !c.keep then
      let s := (s.updCapture h fun c => { c with windows := [(0, w)] }).setState h .stopping
      (.window 0 w.clipped false, (s.protect h w).settleWindows h)
    else if st == .running then
      let hit := c.windows.filter fun (e : Nat × Window) => e.2.touches w
      let rest := c.windows.filter fun (e : Nat × Window) => !e.2.touches w
      let w := hit.foldl (fun w (e : Nat × Window) => e.2.join w) w
      let n := match hit.head? with
        | some e => some (hit.foldl (fun a (e : Nat × Window) => min a e.1) e.1)
        | none => (List.range 8).find? fun i => !c.windows.any fun (e : Nat × Window) => e.1 == i
      match n with
      | none => (.refused, s.updCapture h fun c => { c with freezeRefused := satAdd 32 c.freezeRefused 1 })
      | some n =>
        let ws := (List.range 8).filterMap fun i => (rest ++ [(n, w)]).find? fun (e : Nat × Window) => e.1 == i
        if c.ringBlocks < 2 * s.protectedBy c (ws.map Prod.snd) then
          (.refused, s.updCapture h fun c => { c with freezeRefused := satAdd 32 c.freezeRefused 1 })
        else
          let merged := if hit.isEmpty then 0 else 1
          let s := s.updCapture h fun c => { c with windows := ws, trigMerged := satAdd 32 c.trigMerged merged }
          (.window n w.clipped (!hit.isEmpty), (s.protect h w).settleWindows h)
    else if (st == .stopping || st == .stopped) && !c.keep then
      (.ignored, s.updCapture h fun c => { c with trigIgnored := satAdd 32 c.trigIgnored 1 })
    else (.idle, s)

/-- R239, R244: every local capture whose tag list holds a tag is frozen. -/
def State.freezeTagged (tag : BitVec 32) (t preNs postNs : Nat) (fires : List (Handle × Nat)) (s : State) : State :=
  (s.captures.filter fun e => e.2.tags.contains tag).foldl (fun s (e : Handle × Capture) => (s.freeze e.1 t preNs postNs fires).2) s

/-- R250: a window is released: its blocks are no longer protected, unless another window holds them. -/
def State.releaseWindow (h : Handle) (n : Nat) (s : State) : State :=
  match s.capture? h with
  | none => s
  | some c =>
    match c.windows.find? fun e => e.1 == n with
    | none => s
    | some (_, w) =>
      let rest := c.windows.filter fun e => e.1 != n
      let free := (c.inWindow w).filter fun b => !rest.any fun (e : Nat × Window) => e.2.first < b.t1 && b.t0 < e.2.stop
      (s.updCapture h fun c => { c with windows := rest }).flagBlocks h (free.map (·.pos)) (· &&& ~~~ fProtected)

/-! ### Writing (R245–R249, R309–R311) -/

/-- R392: an armed capture begins writing. -/
def execCaptureWriteStart (h : Handle) (s : State) : Host.Outcome State Fault Refusal :=
  settleFlags s (
    match s.capture? h with
    | none => s
    | some c =>
      if s.teller.safe || s.hstate h != .armed || s.now < c.start then s
      else
        let heads := (List.range c.unitCount).map fun u => s.capFrom c u c.start
        (s.updCapture h fun c => { c with heads := heads, next := 0 }).setState h .running)

/-- The ring position for the next block: the write pointer passes over protected blocks (R249). -/
def Capture.place (c : Capture) : Nat :=
  let n := max 1 c.ringBlocks
  let kept (p : Nat) : Bool := c.blocks.any fun b => b.pos == p && b.flags &&& fProtected != 0
  ((List.range n).map fun i => (c.next + i) % n).find? (fun p => !kept p) |>.getD (c.next % n)

/-- Bit errors that a pending injection gives the next Till word of a channel (R320). -/
def State.tillErrors (ch : Nat) (s : State) : Nat × State :=
  match s.reserve.injectTill with
  | some (c, n) => if c = ch then (n, s.updRes fun r => { r with injectTill := none }) else (0, s)
  | none => (0, s)

/-- The next block of a capture: whole into the Till, or dropped with GAP (R247, R311). -/
def State.writeBlock (h : Handle) (c : Capture) (u : Nat) (d : BlockData) (s : State) : State :=
  let i := c.heads.getD u 0
  let (t0, t1) := s.nextSpan c u
  let pos := c.place
  let ch := c.chOf pos
  let held := c.windows.filter fun (w : Nat × Window) => w.2.first < t1 && t0 < w.2.stop
  let x := s.ch ch
  let room := x.level < 16 && !x.throttled && x.state == 1
  let joined := (if held.isEmpty then 0 else fProtected) ||| (if held.any fun (w : Nat × Window) => w.2.suspect then fSuspect else 0)
  let b : CapBlock := {
    pos := pos, first := i, group := c.groupOf u, cblock := if c.format = 1 then 0xFFFF else c.blockOf u
    flags := d.flags ||| joined ||| (if room then 0 else fGap)
    valid := if room then d.bytes.countP (· != markerOf c.format) else 0, t0 := t0, t1 := t1 }
  let s := { s with freeCtr := s.freeCtr + d.free }
  let s := s.updCapture h fun c => { c with
    blocks := (c.blocks.filter fun b => b.pos != pos) ++ [b], heads := c.heads.set u (i + c.step), next := (pos + 1) % max 1 c.ringBlocks
    capSat := satAdd 32 c.capSat d.clamped
    packed := c.packed.filter fun e => !(e.2.1 == b.group && e.2.2.1 == b.cblock && e.1 < i + c.step) }
  let s := if room then
      let (errs, s) := s.tillErrors ch
      s.updCh ch fun x => { x with
        till := x.till ++ [{ handle := h, pos := pos, q := c.qOf pos, data := d.bytes, bitErrs := errs }]
        tillPeak := max x.tillPeak (65536 * (x.level + 1)) }
    else (s.updCh ch fun x => { x with gapBlocks := satAdd 32 x.gapBlocks 1 }).writeIndex h pos
  s.settleWindows h

/-- R247: the next block of a capture is whole. -/
def State.blockWrite (h : Handle) (s : State) : State :=
  match s.capture? h with
  | none => s
  | some c =>
    if !(s.hstate h == .running || s.hstate h == .stopping) then s
    else
      let u := s.nextUnit c
      let i := c.heads.getD u 0
      let g := c.groupOf u
      if c.format = 1 then
        let fs := c.rates.getD (u / c.perGroup) 0
        if s.rawWhole fs g (i + 4096) then s.writeBlock h c u (s.rawBlock c fs g i) else s
      else
        let packed := s.packedNext c.stream (((s.desc c.stream).map (·.epoch)).getD 0)
        if i + 8 ≤ packed then s.writeBlock h c u (c.chanBlock g (c.blockOf u) i) else s

def execCaptureBlockWrite (h : Handle) (s : State) : Host.Outcome State Fault Refusal :=
  settleFlags s (if s.teller.safe then s else s.blockWrite h)

end Sys2Proof.Machine
end

