-- ==== Sys2Proof/Machine/Triggers.lean ====
section
/-! DEFINITION. Triggers (R235–R244, R390): coarse beams, rules, TRIG_IN and TRIG_OUT, TRIG packets. -/
namespace Sys2Proof.Machine

def State.updCoarse (b : Nat) (f : Coarse → Coarse) (s : State) : State := { s with coarse := s.coarse.modify b f }
/-! ### Detector arithmetic (R236) -/

/-- What the trigger path has of a value: nothing where a sample it rests on has not come. -/
abbrev Known (α : Type) := Option α

/-- Input i at plane index n − δ. -/
def State.trigSample (s : State) (fsKhz : Nat) (i δ n : Nat) : Known Int :=
  let x := s.input i
  match x.map with
  | none => none
  | some _ =>
    match x.coarseAt (x.arrayIndex fsKhz n - δ) with
    | some v => some (v.seen.getD v.re)
    | none => none

/-- R241: the trigger path takes samples before their multiblock is released: the inputs with the samples that follow the last
released ones. -/
def State.withEarly (l : List (Nat × List Int)) (s : State) : State :=
  l.foldl (fun (s : State) e => s.updInput e.1 fun x => { x with hist := x.hist ++ e.2.map fun v => ({ re := v } : Sample) }) s

/-- All of a list, or nothing. -/
def allKnown {α : Type} : List (Known α) → Known (List α)
  | [] => some []
  | none :: _ => none
  | some a :: t => (allKnown t).map (a :: ·)

/-- v before the envelope: the square of the saturated sum, or the rounded sum of squares; and whether y saturated. -/
def State.beamPower (s : State) (c : Coarse) (n : Nat) : Known (Nat × Bool) :=
  let fs := s.beamRate c
  (allKnown (c.inputs.map fun i => (s.trigSample fs i.1 i.2.1 n).map fun x => (x, i.2.2))).map fun l =>
    if c.mode = 1 then
      let y := rhe (l.map fun (e : Int × Int) => e.2 * e.1).sum c.yshift
      let v := clampBits 16 y
      ((v * v).toNat, v != y)
    else
      let u (x : Int) : Int := clampBits 8 (rhe x 8)
      ((rhe (l.map fun (e : Int × Int) => e.2 * (u e.1 * u e.1)).sum c.yshift).toNat, false)

/-- e at plane index n. -/
def State.envelope (s : State) (c : Coarse) (n : Nat) : Known Nat :=
  (allKnown ((List.range (2 ^ c.eLog2)).map fun j => if n < j then none else s.beamPower c (n - j))).map fun l =>
    (l.map fun (e : Nat × Bool) => e.1).sum

/-! ### Baseline and threshold (R237) -/

/-- The last completed block before sample n of the beam in which the rule did not fire, its firings as samples of the beam; none
where none has completed since the beam was allocated. -/
def State.baseBlock (s : State) (c : Coarse) (fires : List Nat) (n : Nat) : Option Nat :=
  let len := 2 ^ c.baseLog2
  let first := ceilDiv (sampleFrom (s.beamRate c) c.since) len
  ((List.range (n / len - first)).map fun i => n / len - 1 - i).find? fun b => !fires.any fun f => f / len == b

/-- The baseline of a beam at sample n. -/
def State.baseline (s : State) (c : Coarse) (block : Nat) : Known Nat :=
  let len := 2 ^ c.baseLog2
  (allKnown ((List.range len).map fun i => s.envelope c (block * len + i))).map fun l => max 1 (l.sum / len)

/-- M of a beam at sample n; 0 where no block has completed. -/
def State.metric (s : State) (c : Coarse) (fires : List Nat) (n : Nat) : Known Nat :=
  match s.baseBlock c fires n with
  | none => some 0
  | some b =>
    match s.envelope c n, s.baseline c b with
    | some e, some base => some (min 65535 (16 * e / base))
    | _, _ => none

/-- Over threshold at sample n; never before a block has completed. -/
def State.ovf (s : State) (c : Coarse) (fires : List Nat) (n : Nat) : Known Bool :=
  match s.baseBlock c fires n with
  | none => some false
  | some _ => (s.metric c fires n).map fun m => c.thresh ≤ m

/-- Over threshold at some of the last samples up to n. -/
def State.overLately (s : State) (c : Coarse) (fires : List Nat) (n coincLog2 : Nat) : Known Bool :=
  let l := (List.range (2 ^ coincLog2)).map fun i => if n < i then some false else s.ovf c fires (n - i)
  if l.contains (some true) then some true else if l.contains none then none else some false

/-! ### Rules (R238–R240) -/

/-- Whether a rule's coincidence holds at sample n: yes, no, or not known from the state. -/
def State.coincidence (s : State) (r : TrigRule) (n : Nat) : Known Bool :=
  let l := r.beams.map fun b => s.overLately (s.coarseBeam b) (r.fires.map (s.indexIn r b)) (s.indexIn r b n) r.coincLog2
  let sure := l.countP (· == some true)
  let open_ := l.countP (· == none)
  if r.minBeams ≤ sure then some true else if r.minBeams ≤ sure + open_ then none else some false

/-- The highest M at a sample and the lowest beam that has it. -/
def State.bestMetric (s : State) (r : TrigRule) (n : Nat) : Known (Nat × Nat) :=
  (allKnown (r.beams.map fun b => (s.metric (s.coarseBeam b) (r.fires.map (s.indexIn r b)) (s.indexIn r b n)).map fun m => (m, b))).map fun l =>
    l.foldl (fun (a b : Nat × Nat) => if a.1 < b.1 then b else a) (l.headD (0, 0))

/-- The array time of sample n, in ticks: that of the first input of the rule's first beam. -/
def State.fireTime (s : State) (r : TrigRule) (n : Nat) : Nat :=
  let c := s.coarseBeam (r.beams.headD 0)
  let fs := s.beamRate c
  match c.inputs.head? with
  | none => sampleTicks fs n
  | some i =>
    let x := s.input i.1
    if fs = 0 then 0
    else ((x.anchor.2 + (x.arrayIndex fs n - x.anchor.1) * fineSec / ((fs : Int) * 1000)) / 125).toNat

/-- R239: TRIG_OUT pins go high; a pin stays high to the end of the last pulse driven on it. -/
def State.pulse (mask : BitVec 4) (ns : Nat) (s : State) : State :=
  let stop := s.now + ns * tickNs
  let next (i : Nat) : Option Nat :=
    let old := s.pins.trigOut.getD i none
    if mask.getLsbD i then some (match old with | some t => max t stop | none => stop) else old
  let l := (List.range 4).map next
  { s with pins := { s.pins with trigOut := l } }

/-- Bytes of a TRIG packet (R103, R243). -/
def trigPacket (head : List Byte) (slot seq : Nat) (key : List Byte) (time tag : Nat) (pre post source beam metric : Nat) : List Byte :=
  let body := head ++ le 1 slot ++ [0, 0, 0] ++ le 4 seq ++ le 8 time ++ le 4 tag ++ le 4 pre ++ le 4 post ++ le 1 source ++ le 1 beam
    ++ le 2 metric ++ List.replicate 8 0
  withCrc (body ++ tagOf key body ++ [0, 0, 0, 0])

/-- R243: one TRIG packet on each UP port of a mask whose key slot can still send. -/
def State.sendTrig (mask : Nat) (time : BitVec 64) (tag : BitVec 32) (pre post source beam metric : Nat) (s : State) : State :=
  (List.range 64).foldl (fun (s : State) p =>
    let slot := (s.port p).entry.trigSlot
    let k := s.keySlot slot
    if bit mask p && (s.port p).state == .up && k.state != 0 && k.trigSend ≤ 0xFFFFFFFF then
      let s' := s.updKey slot fun k => { k with trigSend := k.trigSend + 1 }
      let s' := if k.trigSend = 0xFFFFFFFF then s'.raise evSendSeq else s'
      s'.sendUrgent p true (trigPacket (s.ctrlHeadFor p 0x31 64) slot k.trigSend k.key time.toNat tag.toNat pre post source beam metric)
    else s) s

/-- R239: what a firing rule does. -/
def State.fire (h : Handle) (r : TrigRule) (t source beam metric : Nat) (fires : List (Handle × Nat)) (s : State) : State :=
  let s := s.updRule h fun r => { r with lastFire := some t }
  let s := s.pulse r.outMask (8 * r.pulse)
  let s := s.sendTrig r.portMask.toNat (s.stampAt t) r.tag r.preNs r.postNs source beam metric
  s.freezeTagged r.tag t r.preNs r.postNs fires

/-- The first plane index of a coarse beam for which not all of its inputs have put out their samples. -/
def State.beamTop (s : State) (c : Coarse) : Nat :=
  let fs := s.beamRate c
  let top (i : Nat × Nat × Int) : Nat :=
    let x := s.input i.1
    (((x.arrived + x.nc + i.2.1 : Nat) : Int) + planeIndex x.anchor fs 0).toNat
  match c.inputs with
  | [] => 0
  | i :: t => t.foldl (fun n j => min n (top j)) (top i)

/-- Saturations of a coarse beam over the samples that have come count TRIG_SAT, each once (R236). -/
def State.countTrigSat (b : Nat) (s : State) : State :=
  let c := s.coarseBeam b
  let top := s.beamTop c
  let from_ := max c.counted (sampleFrom (s.beamRate c) c.since)
  if c.owner == 0 || top ≤ from_ then s
  else
    let sat := ((List.range (top - from_)).filter fun i =>
      match s.beamPower c (from_ + i) with | some (_, b) => b | none => false).length
    s.updCoarse b fun c => { c with counted := top, trigSat := satAdd 32 c.trigSat sat }

/-- The samples that the rule's coincidence at n rests on held some of a multiblock that failed its CRC (R241). -/
def State.firedOnBad (s : State) (r : TrigRule) (n : Nat) : Bool :=
  r.beams.any fun b =>
    let c := s.coarseBeam b
    let fs := s.beamRate c
    let last := s.indexIn r b n
    c.inputs.any fun i => (List.range (2 ^ c.eLog2 + 2 ^ r.coincLog2 - 1)).any fun k =>
      let x := s.input i.1
      match x.coarseAt (x.arrayIndex fs last - i.2.1 - k) with | some v => v.seen.isSome | none => false

/-- R238: a BEAM rule fires at sample n where its coincidence holds and its hold-off has passed; METRIC and BEAM are those of the
samples the trigger path has, `early` among them. -/
def State.ruleFire (h : Handle) (n : Nat) (early : List (Nat × List Int)) (s : State) : State :=
  match s.rule? h with
  | none => s
  | some r =>
    let u := s.withEarly early
    let t := s.fireTime r n
    let held := match r.lastFire with | some u => t < u + r.holdoffUs * 1000 * tickNs | none => false
    if r.kind != 1 || held || u.coincidence r n != some true then s
    else
      let (m, b) := (u.bestMetric r n).getD (0, r.beams.headD 0)
      let bad := s.firedOnBad r n
      let s := s.updRule h fun r => { r with fires := r.fires ++ [n] }
      let s := s.fire h r t 0 b m [(h, n)]
      if bad then s.suspectFire (h, n) else s

def execTrigRuleFire (d : Detection) (s : State) : Host.Outcome State Fault Refusal :=
  settleFlags s (if s.teller.safe then s else s.ruleFire d.handle d.index d.early)

/-- R83, R84, R236: a link releases an extended multiblock, and the coarse beams take its samples. -/
def execMultiblockRelease (link : Nat) (words : List (List (BitVec 16))) (crcOk : List Bool) (whole : Bool) (s : State) :
    Host.Outcome State Fault Refusal :=
  settleFlags s (
    match s.linkNamed link with
    | none => s
    | some k => (List.range 32).foldl (fun s b => s.countTrigSat b) (s.release k words crcOk whole))


/-- The edge acts on a PIN rule: high for at least 10 ns, at least 1 µs after the last accepted (R240). -/
def TrigRule.takesEdge (r : TrigRule) (pin highNs t : Nat) : Bool :=
  r.kind == 2 && r.pin == pin && 10 ≤ highNs && match r.lastEdge with | some u => u + 1000 * tickNs ≤ t | none => true

/-- R240: a rising edge on TRIG_IN, stamped with a resolution of 2 ns. -/
def execTrigInEdge (pin highNs : Nat) (s : State) : Host.Outcome State Fault Refusal :=
  settleFlags s (
    if s.teller.safe then s
    else
      let t := s.now / (2 * tickNs) * (2 * tickNs)
      let hit (e : Entry) : Bool := match e.obj with | .trigRule r => r.takesEdge pin highNs t | _ => false
      (s.handlesOf hit).foldl (fun s h =>
        match s.rule? h with
        | some r => (s.updRule h fun r => { r with lastEdge := some t }).fire h r t 2 0 0 []
        | none => s) s)

/-- R239: a pulse on a TRIG_OUT pin ends. -/
def execTrigOutPulseEnd (pin : Nat) (s : State) : Host.Outcome State Fault Refusal :=
  settle s (
    match s.pins.trigOut.getD pin none with
    | some t => if t ≤ s.now then { s with pins := { s.pins with trigOut := s.pins.trigOut.set pin none } } else s
    | none => s)

/-! ### Received TRIG packets (R124–R128, R244) -/

/-- Form of a TRIG packet (R103). Its KEY_SLOT is left to R124 (notes/assumptions/151.md). -/
def trigFormOk (b : List Byte) : Bool :=
  u8 b 0 == 0x31 && u8 b 1 == 1 && u16 b 6 == 64 && b.length == 64 && zeroAt b 9 3 && zeroAt b 40 8 && zeroAt b 56 4
    && u8 b 36 < 3 && u8 b 37 < 32 && shortOk (BitVec.ofNat 64 (u64 b 16))

/-- R244: an accepted TRIG freezes tagged captures and fires REMOTE rules, which drive their pins only. -/
def State.trigActs (b : List Byte) (s : State) : State :=
  let tag := BitVec.ofNat 32 (u32 b 24)
  let t := s.full (BitVec.ofNat 64 (u64 b 16))
  let s := s.freezeTagged tag t (u32 b 28) (u32 b 32) []
  let hit (e : Entry) : Bool := match e.obj with | .trigRule r => r.kind == 3 && r.tag == tag | _ => false
  (s.handlesOf hit).foldl (fun s h =>
    match s.rule? h with
    | some r => (s.updRule h fun r => { r with lastFire := some t }).pulse r.outMask (8 * r.pulse)
    | none => s) s

/-- R124: rate, key slot, tag, replay; a failure gets no reply. -/
def State.trigIn (p : Nat) (b : List Byte) (s : State) : State :=
  let (c, ok) := rateStep s.now (s.port p).entry.trigRate (s.port p).trigThisSecond
  let s := s.updPort p fun q => { q with trigThisSecond := c }
  let slot := (s.port p).entry.trigSlot
  let k := s.keySlot slot
  let peer := (s.port p).entry.peer
  let seq := u32 b 12
  if !ok then s.ctrlDrop p
  else if u8 b 8 ≠ slot then (s.countPort p fun c => { c with authFail := satAdd 16 c.authFail 1 }).authFailure p
  else if k.state = 0 then s.countUnsound p .form
  else if tagOf k.key (b.take 48) != slice b 48 8 then
    (s.countPort p fun c => { c with authFail := satAdd 16 c.authFail 1 }).authFailure p
  else if seq ≤ k.highOf peer then (s.countPort p fun c => { c with replay := satAdd 16 c.replay 1 }).authFailure p
  else
    let s := s.acceptSeq slot peer seq
    if s.teller.safe then s else s.trigActs b

/-- R124 step 1, and the rest for a TRIG that passes it. -/
def State.trigArrives (p : Nat) (b : List Byte) (s : State) : State :=
  let v : Sound := if !crcLastOk b then .crc
    else if trigFormOk b && (s.port p).state == .up && s.addressed p (u8 b 2) (u8 b 3) (u16 b 4) then .good else .form
  if v == .good then s.trigIn p b else s.countUnsound p v

def execTrigReceive (port : Nat) (a : Arrival) (s : State) : Host.Outcome State Fault Refusal :=
  settleFlags s (s.portIn port true a fun b s => s.trigArrives port b)

/-! ### TRIG_RULE_CREATE (R235, R390) -/

/-- Coarse beam descriptors from an offset. -/
def coarseDescs (b : List Byte) : Nat → Nat → List (Coarse × Nat)
  | 0, _ => []
  | n + 1, o =>
    let nin := u16 b (o + 6)
    let input (i : Nat) : Nat × Nat × Int :=
      let w := u32 b (o + 8 + 4 * i)
      (bits w 8 0, bits w 18 9, sext 8 (bits w 26 19))
    let c : Coarse := { mode := u8 b o, yshift := u8 b (o + 1), eLog2 := u8 b (o + 2), baseLog2 := u8 b (o + 3), thresh := u16 b (o + 4)
                        inputs := (List.range nin).map input }
    (c, o) :: coarseDescs b n (o + 8 + 4 * nin)

/-- A descriptor out of range (R235). -/
def State.coarseBad (s : State) (b : List Byte) (e : Coarse × Nat) : Bool :=
  let (c, o) := e
  let m (i : Nat × Nat × Int) : Option InMap := (s.input i.1).map
  let rate := s.beamRate c
  !(c.mode == 1 || c.mode == 2) || 31 < c.yshift || c.eLog2 < 2 || 8 < c.eLog2 || c.baseLog2 < 10 || 24 < c.baseLog2
    || c.inputs.isEmpty || 512 < c.inputs.length
    || (List.range c.inputs.length).any (fun i => bits (u32 b (o + 8 + 4 * i)) 31 27 != 0)
    || c.inputs.any (fun i => (match m i with | some m => m.iq || s.fsOf m != rate | none => true)
        || (if c.mode == 1 then i.2.2 == -128 else i.2.2 < 0 || 15 < i.2.2))

/-- The fixed fields of a rule. -/
def trigRuleOf (b : List Byte) (beams : List Nat) : TrigRule :=
  { kind := u8 b 16, pin := u8 b 17, outMask := BitVec.ofNat 4 (u8 b 18), minBeams := u8 b 19, tag := BitVec.ofNat 32 (u32 b 20)
    portMask := BitVec.ofNat 64 (u64 b 24), preNs := u32 b 32, postNs := u32 b 36, holdoffUs := u32 b 40, pulse := u8 b 44
    coincLog2 := u8 b 45, beams := beams }

def trigRuleCreateBody (p : Pkt) (s : State) : Body :=
  let b := p.b
  let kind := u8 b 16
  let n := u8 b 46
  let descs := coarseDescs b n 48
  let free := (List.range 32).filter fun i => (s.coarseBeam i).owner == 0
  let beams := free.take n
  { words := 12 + (descs.map fun e => 2 + e.1.inputs.length).sum
    checks := [
      p.noTarget, p.reserved [(47, 1)],
      failIf (kind == 0 || 3 < kind || 15 < u8 b 18 || (if kind == 2 then 3 < u8 b 17 else u8 b 17 != 0)
        || (if kind == 1 then n == 0 || 32 < n || u8 b 19 == 0 || n < u8 b 19 else n != 0)
        || u32 b 40 == 0 || 10000000 < u32 b 40 || u8 b 44 == 0 || 127 < u8 b 44 || 12 < u8 b 45) stParam,
      failIf (descs.any (s.coarseBad b)) stParam,
      unitAbsent s 9 0, unitFault s 9 0,
      failIf (free.length < n) stResource,
      noIndex s]
    effect := fun t =>
      match t.handles.alloc (.trigRule (trigRuleOf b beams)) with
      | none => (t, { status := stResource }, .done)
      | some (h, hs) =>
        let t := { t with handles := hs }
        let t := ((beams.zip descs).foldl (fun (t : State) (e : Nat × Coarse × Nat) =>
          t.updCoarse e.1 fun _ => { e.2.1 with owner := h, since := t.now }) t)
        (t, { handle := h, r0 := (beams.map fun i => 2 ^ i).sum }, .done) }

def execTrigRuleCreate (src : Source) (s : State) : Host.Outcome State Fault Refusal :=
  settleFlags s (runOp 0x38 trigRuleCreateBody src true .failed s)

end Sys2Proof.Machine
end

