-- ==== Sys2Proof/Machine/CmdCapture.lean ====
section
/-! DEFINITION. The capture opcodes (R245, R250, R251, R391–R394) and the delivery of windows. -/
namespace Sys2Proof.Machine

/-! ### CAPTURE_CREATE (R245, R391) -/

/-- fs_in of each group of a RAW8 capture in kHz: that of its first mapped input; where it has none, of the first group that
has one. -/
def State.groupRates (s : State) (first n : Nat) : List Nat :=
  let rate (g : Nat) : Option Nat :=
    ((List.range 16).findSome? fun j => (s.inputOf (16 * g + j)).bind fun i => (s.input i).map).map s.fsOf
  let all := (List.range n).map fun i => rate (first + i)
  let dflt := (all.findSome? id).getD 0
  all.map fun r => r.getD dflt

/-- Bytes a second of blocks (R245, R246). -/
def State.blockRate (s : State) (c : Capture) : Frac :=
  if c.format = 1 then Frac.nat ((c.rates.map fun f => 16 * f * 1000).sum)
  else match s.sizing c.stream with
    | some d => Frac.mul (Frac.nat (128 * c.ngroups * c.nblocks)) d.rate
    | none => ⟨0, 1⟩

/-- With the index of 16 B for each 64 KiB. -/
def State.captureRate (s : State) (c : Capture) : Frac := Frac.mul (s.blockRate c) ⟨4097, 4096⟩

/-- Blocks of a capture, ring and index (R245). -/
def Capture.allBlocks (c : Capture) : Nat := c.ringBlocks + ceilDiv c.ringBlocks 4096

/-- Channel blocks that every usable channel has. -/
def State.resBlocks (s : State) : Nat :=
  let l := s.resChans.map fun c => (s.ch c).capacity / 65536
  l.foldl min (l.headD 0)

/-- Free ranges of channel blocks below a limit, in ascending order, beside the used ones. -/
def freeRanges (limit : Nat) (used : List (Nat × Nat)) : List (Nat × Nat) :=
  let after (p : Nat) : Nat := used.foldl (fun (m : Nat) r => if p ≤ r.1 then min m r.1 else m) limit
  let starts := (0 :: used.map fun r => r.1 + r.2).filter fun p => p < limit && !used.any fun r => r.1 ≤ p && p < r.1 + r.2
  let sorted := starts.foldl (fun (l : List Nat) p => if l.contains p then l else (l.filter (· < p)) ++ [p] ++ l.filter (p < ·)) []
  sorted.map fun p => (p, after p - p)

/-- n blocks from free ranges, lowest first. -/
def takeRanges : Nat → List (Nat × Nat) → List (Nat × Nat)
  | 0, _ => []
  | _, [] => []
  | n + 1, (p, m) :: t => if n + 1 ≤ m then [(p, n + 1)] else (p, m) :: takeRanges (n + 1 - m) t

/-- Free channel blocks. -/
def State.resFree (s : State) : Nat := ((freeRanges s.resBlocks s.reserve.used).map fun r => r.2).sum

/-- The capture that a packet describes. -/
def State.captureOf (s : State) (p : Pkt) : Capture :=
  let b := p.b
  let raw := u8 b 16 == 1
  let c : Capture := {
    format := u8 b 16, keep := u8 b 17 == 1, rawshift := u8 b 18, stream := u8 b 19, units := u32 b 20, preMax := u32 b 24
    postMax := u32 b 28, firstGroup := u16 b 32, ngroups := u16 b 34, firstBlock := u16 b 36, nblocks := u16 b 38
    tags := (List.range (u8 b 40)).map fun i => BitVec.ofNat 32 (u32 b (48 + 4 * i)), chans := s.resChans, stripes := []
    retentionMs := 0, rateMb := 0, rates := if raw then s.groupRates (u16 b 32) (u16 b 34) else [] }
  c

/-- Ranges of R391; the groups of a RAW8 capture must have a mapped input to set its rate. -/
def State.captureBad (s : State) (c : Capture) (mode tags : Nat) : Bool :=
  !(c.format == 1 || c.format == 2) || 1 < mode || 8 < tags || c.units == 0 || c.ngroups == 0 || 4096 < c.firstGroup + c.ngroups
    || (if c.format == 1 then 8 < c.rawshift || c.rates.all (· == 0)
        else c.nblocks == 0 || match s.sizing c.stream with
          | some d => 15 < c.stream || d.wide || d.rangeBad c.firstGroup c.ngroups 0 1 || d.blocks < c.firstBlock + c.nblocks
          | none => true)

/-- Retention in ns as a fraction: the ring over the block rate. -/
def State.retention (s : State) (c : Capture) : Frac :=
  Frac.div (Frac.nat (c.units * 67108864 * 1000000000)) (s.blockRate c)

/-- PRE_MAX + POST_MAX above half the retention (R391). -/
def State.retentionShort (s : State) (c : Capture) : Bool :=
  let r := s.retention c
  (2 * (c.preMax + c.postMax) * r.den : Int) > r.num

/-- A fraction as a whole number; its rounding is the device's. -/
def Frac.open (f : Frac) : Nat := (divOpen f.num f.den).toNat

/-- Write rates of the live captures with another (R245), bytes a second. -/
def State.writeLoad (s : State) (c : Capture) : Frac :=
  Frac.sum ((s.captures.map fun (e : Handle × Capture) => s.captureRate e.2) ++ [s.captureRate c])

def captureCreateBody (p : Pkt) (s : State) : Body :=
  let c := s.captureOf p
  let n := s.resChans.length
  let need := ceilDiv c.allBlocks (max 1 n)
  let used := (s.reserve.used.map fun r => r.2).sum
  { words := 12 + u8 p.b 40
    checks := [
      p.noTarget, p.reserved [(41, 7)],
      failIf (s.captureBad c (u8 p.b 17) (u8 p.b 40)) stParam,
      failIf (!s.captureBad c (u8 p.b 17) (u8 p.b 40) && s.retentionShort c) stParam,
      unitAbsent s 10 0, unitFault s 10 0,
      shortOf stResource 11 (s.writeLoad c).mega (min 256000 (32000 * n)),
      if need ≤ s.resFree then none
        else some { status := stResource, r0 := 13, r1 := ceilDiv ((used + need) * n) 1024 % 2 ^ 32, r2 := s.resBlocks * n / 1024 % 2 ^ 32 },
      noIndex s]
    effect := fun t =>
      let stripes := takeRanges need (freeRanges t.resBlocks t.reserve.used)
      let ms := (Frac.div (t.retention c) (Frac.nat 1000000)).open
      let mb := (Frac.div (t.captureRate c) (Frac.nat 1000000)).open
      match t.handles.alloc (.capture { c with stripes := stripes, retentionMs := ms, rateMb := mb }) with
      | none => (t, { status := stResource }, .done)
      | some (h, hs) =>
        let t := { t with handles := hs }
        (t.updRes fun r => { r with used := r.used ++ stripes }, { handle := h, r0 := ms % 2 ^ 32, r1 := mb % 2 ^ 32 }, .done) }

def execCaptureCreate (src : Source) (s : State) : Host.Outcome State Fault Refusal :=
  settleFlags s (runOp 0x39 captureCreateBody src true .failed s)

/-! ### CAPTURE_ARM (R249, R345, R392) -/

def captureArmBody (p : Pkt) (s : State) : Body :=
  let t := BitVec.ofNat 64 (u64 p.b 16)
  let st := s.hstate p.target
  let reading := match s.capture? p.target with | some c => c.reading.isSome | none => false
  { words := 6
    checks := [
      badKind s p.target [4], failIf (t != 0 && !shortOk t) stParam, unitAbsent s 10 0, stale s p.target,
      failIf (!(st == .created || st == .stopped) || reading) stState,
      failIf (t != 0 && s.full t < p.commitAt) stPast]
    effect := fun u =>
      let start := if t == 0 then p.commitAt else s.full t
      let u := u.updCapture p.target fun c => { c with start := start, blocks := [], windows := [], packed := [], next := 0, heads := [] }
      (u.updEntry p.target fun e => { e with st := .armed, completed := false, aborting := false }, { handle := p.target }, .done) }

def execCaptureArm (src : Source) (s : State) : Host.Outcome State Fault Refusal :=
  settleFlags s (runOp 0x3A captureArmBody src true .failed s)

/-! ### CAPTURE_FREEZE (R249, R393) -/

def captureFreezeBody (p : Pkt) (s : State) : Body :=
  let t := BitVec.ofNat 64 (u64 p.b 16)
  let forward := bit (u8 p.b 32) 0
  let st := s.hstate p.target
  let keep := match s.capture? p.target with | some c => c.keep | none => false
  { words := 12
    checks := [
      badKind s p.target [4], p.reserved [(33, 3)], failIf (!shortOk t || 1 < u8 p.b 32) stParam, unitAbsent s 10 0, stale s p.target,
      failIf (!(st == .running || (!keep && (st == .stopping || st == .stopped)))) stState]
    effect := fun u =>
      match u.freeze p.target (s.full t) (u32 p.b 24) (u32 p.b 28) [] with
      | (.window n clipped merged, u) =>
        let u := if forward then
            u.sendTrig (u64 p.b 40) t (BitVec.ofNat 32 (u32 p.b 36)) (u32 p.b 24) (u32 p.b 28) 1 0 0
          else u
        (u, { handle := p.target, r0 := n, r1 := flagBit clipped 0 + flagBit merged 1 }, .done)
      | (.refused, u) => (u, { status := stResource }, .done)
      | (_, u) => (u, { status := stAlready, handle := p.target }, .done) }

def execCaptureFreeze (src : Source) (s : State) : Host.Outcome State Fault Refusal :=
  settleFlags s (runOp 0x3B captureFreezeBody src true .failed s)

/-! ### CAPTURE_READ (R250, R358, R394) -/

def State.windowOf (s : State) (h : Handle) (n : Nat) : Option Window :=
  (s.capture? h).bind fun c => (c.windows.find? fun w => w.1 == n).map (·.2)

/-- The bits a second already given to an egress port. -/
def State.wireLoad (s : State) (lane : Nat) : Frac :=
  let t := s.totals s.sizing 0 s.poolSizes.1 s.poolSizes.2
  ((t.wire.find? fun e => e.1 == lane).map (·.2)).getD (s.captureWire lane)

def captureReadBody (p : Pkt) (s : State) : Body :=
  let b := p.b
  let flags := u8 b 17
  let toEgress := bit flags 0
  let only := bit flags 2
  let lane := u16 b 18
  let host := !toEgress && !only
  let w := s.windowOf p.target (u8 b 16)
  let blocks := match s.capture? p.target, w with | some c, some w => (c.inWindow w).length | _, _ => 0
  let keep := match s.capture? p.target with | some c => c.keep | none => false
  let reading := match s.capture? p.target with | some c => c.reading.isSome | none => false
  let st := s.hstate p.target
  let egress := toEgress && !only
  { words := 10
    deferred := true
    checks := [
      badKind s p.target [4], p.reserved [(36, 4)], failIf (7 < u8 b 16 || 7 < flags) stParam,
      if host then failIf (p.src != .ring || u32 b 32 < 65552 * blocks) stParam else failIf (u64 b 24 != 0) stParam,
      if host then p.destBad 24 32 else none,
      failIf (egress && s.portBad lane 8256) stParam,
      unitAbsent s 10 0,
      if egress then unitFault s 7 (lane / 8) else none,
      stale s p.target,
      failIf (!((st == .running && keep) || st == .stopped || st == .faulted)) stState,
      failIf (reading || match w with | some w => !w.frozen | none => true) stState,
      if egress then shortOf stResource 8 ((s.wireLoad lane).add (Frac.nat (u32 b 20 * 1000000))).mega (s.egressLimit lane) else none]
    effect := fun u =>
      if only then (u.releaseWindow p.target (u8 b 16), { handle := p.target }, .final { handle := p.target })
      else
        let r : CapRead := { window := u8 b 16, flags := BitVec.ofNat 8 flags, port := lane, rate := u32 b 20, dest := BitVec.ofNat 64 (u64 b 24) }
        (u.updCapture p.target fun c => { c with reading := some r }, { handle := p.target }, .wait (.captureRead p.target)) }

def execCaptureRead (src : Source) (s : State) : Host.Outcome State Fault Refusal :=
  settleFlags s (runOp 0x3C captureReadBody src true .failed s)

/-! ### Delivery (R250, R251, R316, R317, R394) -/

/-- A block as it is read: its index entry's flags and its bytes. -/
structure ReadBlock where
  block : CapBlock
  lost : Bool
  bytes : List Byte

/-- Burst reads of a block; on a channel out of service it reads as markers, its entry as zero with only POISONED. -/
def State.readBlock (c : Capture) (b : CapBlock) (s : State) : ReadBlock × State :=
  let ch := c.chOf b.pos
  if (s.ch ch).state != 1 then
    ({ block := { b with flags := fPoisoned }, lost := true, bytes := List.replicate 65536 (markerOf c.format) }, s)
  else
    let (d, bad, s) := (List.range 1024).foldl (fun (r : List Byte × Bool × State) u =>
      let (x, bad, s) := r.2.2.readBurst 1 ch (c.qOf b.pos) u
      (r.1 ++ x, r.2.1 || bad, s)) ([], false, s)
    ({ block := { b with flags := if bad then b.flags ||| fPoisoned else b.flags }, lost := false, bytes := d }, s)

/-- The index entry as delivered. -/
def ReadBlock.entry (r : ReadBlock) : List Byte :=
  if r.lost then List.replicate 10 0 ++ le 2 fPoisoned.toNat ++ [0, 0, 0, 0] else r.block.entry

/-- The unit of a capture that a block belongs to. -/
def Capture.unitOf (c : Capture) (b : CapBlock) : Nat :=
  (b.group - c.firstGroup) * c.perGroup + if c.format = 1 then 0 else b.cblock - c.firstBlock

/-- The eight CAPTURE records of a block (R251). -/
def State.captureRecords (s : State) (h : Handle) (c : Capture) (n : Nat) (w : Window) (digest seq : Nat) (r : ReadBlock) :
    List (List Byte) :=
  let u := c.unitOf r.block
  let part := c.step / 8
  let gap := r.block.flags &&& fGap != 0
  (List.range 8).map fun e =>
    let first := r.block.first + e * part
    let t0 := s.capTime c u first
    let t1 := s.capTime c u (first + part)
    let m := markerOf c.format
    let bytes := if gap then List.replicate 8192 m else slice r.bytes (8192 * e) 8192
    let good := bytes.countP (· != m)
    let short := t0 < w.first || w.stop < t1 || gap || good != 8192
    let hold := s.heldSince t0
    let head : RecordHead := {
      rtype := 3
      flags := flagBit short 0 + flagBit (r.block.flags &&& fPoisoned != 0) 2 + flagBit (r.block.flags &&& fSettling != 0) 3
      chan := if c.format = 1 then 0xFFFF else 8 * r.block.cblock
      handle := h, pair := r.block.group + 4096 * n, slots := part, start := first
      t0 := shortTime false hold t0, t1 := shortTime false hold t1, tally := good, seq := (seq + e) % 2 ^ 64, digest := digest }
    head.record bytes

/-- Bursts of a window that reading the DIMM found uncorrectable, by block and burst of the window. -/
def State.strike (c : Capture) (l : List CapBlock) (bad : List Nat) (s : State) : State :=
  bad.foldl (fun (s : State) j =>
    match l[j / 1024]? with
    | some b =>
      let k := resKey (c.chOf b.pos) (c.qOf b.pos) (j % 1024 * 64) / 64
      s.updRes fun r => { r with bad := Memory.set ([], false) r.bad k ([0, 1], false) }
    | none => s) s

/-- Every block of a window in turn, `put` taking its position, what was read and the state. -/
def State.deliverWindow (c : Capture) (l : List CapBlock) (put : Nat → ReadBlock → State → State) (s : State) : Nat × State :=
  (l.zipIdx).foldl (fun (r : Nat × State) e =>
    let (x, s) := r.2.readBlock c e.1
    (r.1 + (if x.block.flags &&& fPoisoned != 0 then 1 else 0), put e.2 x s)) (0, s)

/-- R394: the delivery of a window ends. -/
def State.captureDelivered (h : Handle) (bad : List Nat) (wr : Bool) (s : State) : State :=
  match (s.capture? h).bind fun c => c.reading.map fun r => (c, r) with
  | none => s
  | some (c, r) =>
    let n := r.window
    let w := (s.windowOf h n).getD { first := 0, stop := 0 }
    let l := c.inWindow w
    let ended (res : Res) (s : State) : State :=
      (s.updCapture h fun c => { c with reading := none }).finish (fun d => d.wait == .captureRead h) res
    let s := s.strike c l bad
    let toEgress := bit r.flags.toNat 0
    if !toEgress && !wr then ended { status := stFault, r0 := 3 } s
    else
      let (poisoned, s) :=
        if toEgress then
          let (digest, s) := s.takeFree 32
          s.deliverWindow c l fun i x s =>
            let recs := s.captureRecords h c n w digest (c.seq + 8 * i) x
            recs.foldl (fun s b => s.postBytes r.port h b) s
        else s.deliverWindow c l fun i x s => s.emit (.hostWrite (r.dest + BitVec.ofNat 64 (65552 * i)) (x.entry ++ x.bytes))
      let s := if toEgress then s.updCapture h fun c => { c with seq := (c.seq + 8 * l.length) % 2 ^ 64 } else s
      let s := if bit r.flags.toNat 1 then s.releaseWindow h n else s
      ended { r0 := l.length, r1 := l.countP fun b => b.flags &&& fGap != 0, r2 := poisoned } s

def execCaptureReadComplete (h : Handle) (bad : List Nat) (wr : Bool) (s : State) : Host.Outcome State Fault Refusal :=
  settleFlags s (if s.teller.safe then s else s.captureDelivered h bad wr)

end Sys2Proof.Machine
end

