-- ==== Sys2Proof/Machine/Products.lean ====
section
/-! DEFINITION. Products as they start, post, stop and complete (R187, R202–R204, R268, R345), ABORT (R354, R355, R410) and QUERY
(R217, R411). -/
namespace Sys2Proof.Machine

/-- R187: an ARMED product reaches its first grid boundary. -/
def execProductStartBoundary (h : Handle) (s : State) : Host.Outcome State Fault Refusal :=
  settleFlags s (
    match s.gridOf h, (s.find h).map Entry.obj with
    | some d, some o =>
      let start := match o with | .xprod x => some x.startSlot | .beam b => some b.startSlot | _ => none
      match start with
      | some k => if !s.teller.safe && s.hstate h == .armed && d.slotStart k ≤ s.now then s.setState h .running else s
      | none => s
    | _, _ => s)

/-- R204: the stop boundary of a product in STOPPING has passed. -/
def State.stopPassed (h : Handle) (s : State) : State :=
  (s.updXprod h fun x => { x with reached := true }).updBeam h fun b => { b with reached := true }

/-- R204: a product in STOPPING reaches its stop boundary. -/
def execStopBoundary (h : Handle) (s : State) : Host.Outcome State Fault Refusal :=
  settleFlags s (
    match s.gridOf h, (s.find h).map Entry.obj with
    | some d, some o =>
      let stop := match o with | .xprod x => x.stopSlot | .beam b => b.stopSlot | _ => none
      match stop with
      | some k => if !s.teller.safe && s.hstate h == .stopping && d.slotStart k ≤ s.now then s.stopPassed h else s
      | none => s
    | _, _ => s)

/-! ### Drains (R201) -/

def execDrain (s : State) : Host.Outcome State Fault Refusal := settleFlags s (if s.teller.safe then s else s.drain.trimAll)

/-! ### Posting (R202, R206, R268) -/

/-- The first product with a record of a past integration still to be read. -/
def State.nextWaiting (s : State) : Option Handle :=
  (s.handles.live.find? fun e => match e.obj with
    | .xprod x => x.recs.any (·.waiting)
    | .beam b => b.recs.any (·.waiting)
    | _ => false).map Entry.h

/-- The waiting record with the lowest q of a product is read into the close queue. -/
def State.readWaiting (h : Handle) (s : State) : State :=
  match (s.find h).map Entry.obj with
  | some (.xprod x) =>
    match lowestQ (x.recs.filter (·.waiting)) with
    | some r =>
      let (x, s) := s.closeWaiting h x r
      s.updXprod h fun _ => x
    | none => s
  | some (.beam b) =>
    match lowestQ (b.recs.filter (·.waiting)) with
    | some r => s.readPower h r
    | none => s
  | _ => s

/-- Words of VX data memory before user data (R255). -/
def formatterWords : Nat := 0x180000 / 4

/-- A payload with each 8 B that holds a lost word zeroed (R268). -/
def zeroLost (l : List Byte) (lost : List Bool) : List Byte :=
  l.zipIdx.map fun e => if lost.getD (e.2 / 8 * 2) false || lost.getD (e.2 / 8 * 2 + 1) false then 0 else e.1

/-- R268: a closed value lies in the formatter's memory, header first, in a place of the formatter's choosing
(notes/assumptions/102.md). A word of its payload that is lost is poison; a lost header word drops the record. -/
def State.postHeld (c : Closed) (s : State) : State :=
  let lead := 16 + if c.rtype = 2 then 4 else 0
  let n := 16 + ceilDiv c.payload.length 4
  let (p, s) := s.takeFree 32
  let (lost, s) := s.badVxWords (p % (formatterWords - n)) n
  if (lost.take lead).any id then s.dropClosed c
  else if lost.any id then
    s.postClosed { c with flags := c.flags ||| 4, payload := zeroLost c.payload (lost.drop 16) }
  else s.postClosed c

/-- The oldest closed value is posted. -/
def State.postOldest (s : State) : State :=
  match s.xa.closeQ with
  | c :: t => (s.updXa fun x => { x with closeQ := t }).postHeld c
  | [] => s

/-- R268: the formatter posts the oldest closed value, or reads the next waiting record and posts it. -/
def execRecordPost (s : State) : Host.Outcome State Fault Refusal :=
  settleFlags s (
    if s.teller.safe || !(s.ctx 0).running then s
    else if s.xa.closeQ.isEmpty then
      match s.nextWaiting with
      | some h => (s.readWaiting h).postOldest
      | none => s
    else s.postOldest)

/-! ### Completion (R204, R354, R355) -/

/-- Nothing of a stopping product is left to come: its boundary has passed, or an abort has cut it (R204, R355). -/
def State.drained (s : State) (h : Handle) : Bool :=
  !(s.xa.ready.any fun e => e.1 == h) && !(s.xa.drains.any fun d => d.handle == h) && !(s.xa.closeQ.any fun c => c.handle == h)
    && match (s.find h).map Entry.obj with
      | some (.xprod x) => (x.reached || x.aborted) && (s.pieces x x.next.1)[x.next.2]?.isNone && x.shipping.isEmpty && !x.recs.any (·.waiting)
      | some (.beam b) => (b.reached || b.aborted) && (s.spanPieces b b.next.1)[b.next.2]?.isNone && b.ready.isEmpty && b.spanSums.isEmpty && !b.recs.any (·.waiting)
      | _ => false

/-- The final replies of an ABORT, then of the XPROD_STOP it overtook; or of the XPROD_STOP (R354, R355). -/
def State.productDone (h : Handle) (s : State) : State :=
  let aborted := match s.find h with | some e => e.aborting | none => false
  let t := s.stamp
  let s := s.updEntry h fun e => { e with st := .stopped, completed := true, doneAt := if e.aborting then e.doneAt else t }
  let stop (d : Deferred) : Bool := d.wait == .stop h
  let s := s.settlePools
  if aborted then (s.finish (fun d => d.wait == .abort h) {}).finish stop { status := stAlready }
  else s.finish stop { r0 := s.recordsOf h % 2 ^ 32 }

def execProductComplete (h : Handle) (s : State) : Host.Outcome State Fault Refusal :=
  settleFlags s (if !s.teller.safe && s.hstate h == .stopping && s.drained h then s.productDone h else s)

/-! ### ABORT (R354, R355, R410) -/

/-- The first slot boundary at or after now, where an abort truncates a product. -/
def State.abortSlot (s : State) (h : Handle) : Nat := ((s.gridOf h).map fun d => d.unitFrom d.l s.now).getD 0

/-- A capture stops writing at the commit; its windows stay readable. -/
def State.abortCapture (h : Handle) (s : State) : State :=
  let t := s.stamp
  let freeze (w : Nat × Window) : Nat × Window := (w.1, { w.2 with frozen := true })
  let s := s.updCapture h fun c => { c with windows := c.windows.map freeze }
  s.updEntry h fun e => { e with st := .stopped, completed := true, aborting := true, doneAt := t }

/-- A running product is truncated. -/
def State.abortProduct (h : Handle) (s : State) : State :=
  let t := s.stamp
  let slot := s.abortSlot h
  let s := s.setStop h slot
  let s := (s.updXprod h fun x => { x with aborted := true }).updBeam h fun b => { b with aborted := true }
  s.updEntry h fun e => { e with st := .stopping, aborting := true, doneAt := t }

def abortBody (p : Pkt) (s : State) : Body :=
  let h := p.target
  let st := s.hstate h
  let e := s.find h
  let aborting := match e with | some e => e.aborting | none => false
  let doneAt := match e with | some e => e.doneAt | none => 0
  let completed := match e with | some e => e.completed | none => false
  let kind := match e with | some e => e.obj.kind | none => 0
  let lost := (st == .stopped && completed) || ((st == .stopping || st == .running) && aborting)
  { words := 4
    deferred := true
    checks := [
      failIf p.fence stParam, badKind s h [1, 2, 4, 5], stale s h,
      failIf (st == .created || st == .faulted) stState,
      if lost then some { status := stAlready, handle := h, compl := some doneAt } else none]
    effect := fun u =>
      if st == .armed then (u.disarm h, { handle := h }, .final { handle := h })
      else if kind = 4 then (u.abortCapture h, { handle := h }, .final { handle := h })
      else if kind = 5 then
        let t := u.stamp
        ((u.requestStop h).updEntry h fun e => { e with aborting := true, doneAt := t }, { handle := h }, .wait (.abort h))
      else (u.abortProduct h, { handle := h }, .wait (.abort h)) }

def execAbort (src : Source) (s : State) : Host.Outcome State Fault Refusal :=
  settleFlags s (runOp 0x70 abortBody src true .failed s)

/-! ### QUERY (R217, R411) -/

/-- The block of R217; a BEAM product's LATE_ADD holds WEIGHT_LATE and its MERGED is zero. -/
def counterBlock (h : Handle) (st : HState) (c : XCounters) (merged late : Nat) : List Byte :=
  le 4 h.toNat ++ le 1 st.code ++ [0, 0, 0] ++ le 8 c.subints ++ le 8 c.records ++ le 4 c.short ++ le 4 merged ++ le 4 c.poisoned
    ++ le 2 c.residueErr ++ le 2 late ++ le 4 c.ctUncorr ++ le 4 c.invalid ++ le 8 c.lastClose.toNat ++ List.replicate 8 0

/-- What QUERY writes. -/
def State.queryData (s : State) (h : Handle) : List Byte :=
  if h = 0 then s.handles.live.flatMap fun e => le 4 e.h.toNat ++ le 1 e.st.code ++ [0, 0, 0]
  else match s.find h with
    | some e => match e.obj with
      | .xprod x => counterBlock h e.st x.cnt x.cnt.merged x.cnt.lateAdd
      | .beam b => counterBlock h e.st b.cnt 0 b.weightLate
      | _ => []
    | none => []

/-- RESULT1 of QUERY; the firings left of an endless schedule have no stated number. -/
def State.queryWord (s : State) (h : Handle) : Nat × State :=
  match (s.find h).map Entry.obj with
  | some (.xprod x) => (x.cnt.records % 2 ^ 32, s)
  | some (.beam b) => (b.cnt.records % 2 ^ 32, s)
  | some (.capture c) => (c.windows.length, s)
  | some (.kernel k) => (k.exit.toNat, s)
  | some (.schedule _ q) => if q.endless then s.takeFree 32 else (max q.count 1 - q.fired, s)
  | _ => (0, s)

/-- CLEAR of R217. -/
def State.clearCounters (h : Handle) (s : State) : State :=
  let clear (c : XCounters) : XCounters := { lastClose := c.lastClose }
  (s.updXprod h fun x => { x with cnt := clear x.cnt }).updBeam h fun b => { b with cnt := clear b.cnt, weightLate := 0 }

def queryBody (p : Pkt) (s : State) : Body :=
  let h := p.target
  let a := u64 p.b 24
  let n := u32 p.b 32
  let clear := bit (u8 p.b 16) 0
  let kind := match s.find h with | some e => e.obj.kind | none => 0
  { words := 10
    checks := [
      p.reserved [(17, 7), (36, 4)], failIf (1 < u8 p.b 16) stParam,
      match p.src with
      | .ring => if a = 0 && n = 0 then none else failIf (a == 0 || n == 0 || a % 64 != 0 || n % 4 != 0) stParam
      | _ => failIf (a != 0 || n != 0) stParam,
      failIf (clear && (h == 0 || ((s.find h).isSome && kind != 1 && kind != 2))) stParam,
      if h = 0 then none else stale s h]
    effect := fun u =>
      let code := if h = 0 then s.handles.live.length else (s.hstate h).code
      let (word, u) := if h = 0 then (0, u) else u.queryWord h
      let data := s.queryData h
      if p.src == .spi || a ≠ 0 then
        let (u', _, omitted, failed) := p.deliver 24 32 data u
        if failed then (u, { status := stFault, r0 := 3 }, .done)
        else (if clear && omitted = 0 then u'.clearCounters h else u', { handle := h, r0 := code, r1 := word, r2 := omitted }, .done)
      else (u, { handle := h, r0 := code, r1 := word }, .done) }

def execQuery (src : Source) (wr : Bool) (s : State) : Host.Outcome State Fault Refusal :=
  settleFlags s (runOp 0x71 queryBody src wr .failed s)

end Sys2Proof.Machine
end

