-- ==== Sys2Proof/Machine/Kernels.lean ====
section
/-! DEFINITION. Loading and running kernels (R278–R285, R396, R397, R477): images, clerks, contexts, channels and regions, and the
events of the kernel machinery. What the instructions do stands in Vx.lean and Clerks.lean. -/
namespace Sys2Proof.Machine

/-! ### Images (R278) -/

/-- Bytes of an image's sections. -/
def imgTarget (b : List Byte) : Nat := u8 b 5
def imgClerks (b : List Byte) : Nat := u16 b 6
def imgEntry (b : List Byte) : Nat := u32 b 8
def imgCode (b : List Byte) : Nat := u32 b 12
def imgData0 (b : List Byte) : Nat := u32 b 16
def imgData1 (b : List Byte) : Nat := u32 b 20
def imgChannels (b : List Byte) : Nat := u8 b 26

/-- Its sections fit a clerk's memories (R272). -/
def imgFitsClerk (b : List Byte) : Bool :=
  1 ≤ imgClerks b && imgClerks b ≤ 16 && imgCode b % 8 == 0 && imgCode b ≤ 131072 && imgData0 b ≤ 0x20000 && imgData1 b ≤ 0x1FF00

/-- Its sections fit the vector engine's memories (R255). -/
def imgFitsVx (b : List Byte) : Bool :=
  imgClerks b == 0 && imgCode b % 20 == 0 && imgCode b ≤ 81920 && imgData0 b ≤ 0x7FF00 && imgData1 b == 0

/-- R278: an image that may be loaded. -/
def imgOk (b : List Byte) : Bool :=
  32 ≤ b.length && u32 b 0 == 0x4E524B5A && u8 b 4 == 1 && u8 b 27 == 0 && u16 b 24 ≤ 256 && imgChannels b ≤ 4
    && crc32 (patch b 28 [0, 0, 0, 0]) == u32 b 28
    && 32 + imgCode b + imgData0 b + imgData1 b ≤ b.length
    && (if imgTarget b = 1 then imgFitsClerk b else if imgTarget b = 2 then imgFitsVx b else false)

/-- n instruction words of `size` bytes, from byte o. -/
def codeWords (w size : Nat) (b : List Byte) (o n : Nat) : List (BitVec w) :=
  (List.range n).map fun i => BitVec.ofNat w (field b (o + size * i) size)

/-- Fresh memory bytes. -/
def eccBytes (b : List Byte) (o n : Nat) : List EccCell := (List.range n).map fun i => { data := u8 b (o + i) }

/-- The code and data of an image reach a clerk. -/
def State.loadClerk (b : List Byte) (n : Nat) (s : State) : State :=
  let code := codeWords 64 8 b 32 (imgCode b / 8)
  let o := 32 + imgCode b
  s.updClerk n fun c =>
    let mem := Memory.setRange {} c.mem 0 (eccBytes b o (imgData0 b))
    let mem := Memory.setRange {} mem 0x20000 (eccBytes b (o + imgData0 b) (imgData1 b))
    { c with prog := Memory.setRange 0 c.prog 0 code, progFlips := Memory.clear c.progFlips 0 code.length, mem := mem }

/-- The code and data of an image reach the vector engine. -/
def State.loadVx (b : List Byte) (s : State) : State :=
  let code := codeWords 160 20 b 32 (imgCode b / 20)
  let o := 32 + imgCode b
  let words : List EccCell := (List.range (ceilDiv (imgData0 b) 4)).map fun i =>
    { data := leNat 4 (slice b (o + 4 * i) (min 4 (imgData0 b - 4 * i))) }
  { s with vx := { s.vx with
    prog := Memory.setRange 0 s.vx.prog 0 code, progFlips := s.vx.progFlips.modify 1 fun m => Memory.clear m 0 code.length
    data := Memory.setRange {} s.vx.data (0x180000 / 4) words } }

/-! ### DMA channels (R477) -/

/-- The channels the Teller grants: 2–15 of engines 0–2, 2–7 of engine 3. -/
def grantable (ch : Nat) : Bool := 2 ≤ ch % 16 && ch < 56

/-- Channels free to be granted, lowest engine and channel first. -/
def State.freeChannels (s : State) : List Nat :=
  (List.range 56).filter fun ch => grantable ch && s.usable 3 (ch / 16) && (s.dmaCh ch).owner.isNone

/-- RESULT1: engine in [7:4] and channel in [3:0] of each byte, which is the channel's number here. -/
def channelWord (l : List Nat) : Nat := leNat 4 (l.map (BitVec.ofNat 8))

/-! ### KERNEL_LOAD (R280, R396) -/

/-- One region entry: owner, pages, WRITE. -/
structure RegionEntry where
  owner : Handle
  pages : Nat
  write : Bool
  deriving DecidableEq, Repr

def regionEntries (b : List Byte) : List RegionEntry :=
  (List.range (u8 b 28)).map fun i =>
    { owner := BitVec.ofNat 32 (u32 b (32 + 16 * i)), pages := u32 b (36 + 16 * i), write := bit (u8 b (40 + 16 * i)) 0 }

def windowEntries (b : List Byte) : List (BitVec 64 × BitVec 64 × BitVec 8) :=
  let o := 32 + 16 * u8 b 28
  (List.range (u8 b 29)).map fun i =>
    (BitVec.ofNat 64 (u64 b (o + 24 * i)), BitVec.ofNat 64 (u64 b (o + 24 * i + 8)), BitVec.ofNat 8 (u8 b (o + 24 * i + 16)))

/-- Reserved bytes, flags and alignment of the entries. -/
def loadBad (b : List Byte) : Bool :=
  let nr := u8 b 28
  let o := 32 + 16 * nr
  u64 b 16 % 8 != 0 || nr > 4 || u8 b 29 > 4
    || ((List.range nr).any fun i => u8 b (40 + 16 * i) > 1 || !zeroAt b (41 + 16 * i) 7)
    || ((List.range (u8 b 29)).any fun i =>
        u64 b (o + 24 * i) % 4096 != 0 || u64 b (o + 24 * i + 8) % 4096 != 0 || u8 b (o + 24 * i + 16) > 3 || !zeroAt b (o + 24 * i + 17) 7)

/-- The Vault pages that a handle owns. -/
def State.pagesOf (s : State) (h : Handle) : List Nat :=
  match (s.find h).map Entry.obj with
  | some (.xprod x) => x.statePages
  | some (.beam b) => b.weightPages ++ b.statePages
  | some (.kernel k) => k.regions.flatMap fun (r : List Nat × Bool) => r.1.filter fun p => (s.pageUse p).owner == h
  | _ => []

/-- The regions of a kernel: new pages are its own, to read and write; those of another handle it may read. -/
def State.takeRegions (h : Handle) : List RegionEntry → State → List (List Nat × Bool) × State
  | [], s => ([], s)
  | e :: t, s =>
    let (r, s) : (List Nat × Bool) × State :=
      if e.owner = 0 then
        let (l, s) := s.takePages { owner := h, kind := useKernel } e.pages
        ((l, true), s)
      else ((s.pagesOf e.owner, false), s)
    let (l, s) := State.takeRegions h t s
    (r :: l, s)

/-- The effect of an accepted KERNEL_LOAD. -/
def State.loadKernel (b img : List Byte) (s : State) : State × Res :=
  let vx := imgTarget img = 2
  let clerks := s.freeClerks.take (imgClerks img)
  let channels := s.freeChannels.take (imgChannels img)
  let k : Kernel := { vx := vx, clerks := clerks, channels := channels, regions := [], windows := windowEntries b, entry := imgEntry img }
  match s.handles.alloc (.kernel k) with
  | none => (s, { status := stResource })
  | some (h, t) =>
    let s := { s with handles := t }
    let (regions, s) := s.takeRegions h (regionEntries b)
    let s := s.updKernel h fun k => { k with regions := regions }
    let s := channels.foldl (fun (s : State) ch => s.updDma ch fun _ => { owner := some h }) s
    let s := clerks.foldl (fun (s : State) n => (s.updClerk n fun c => { c.kept with owner := some h }).loadClerk img n) s
    let s := if vx then s.loadVx img else s
    let map := (clerks.map fun n => 2 ^ n).sum + flagBit vx 16
    let first := match regions with | r :: _ => (match r.1 with | p :: _ => p * 65536 | [] => 0) | [] => 0
    (s, { handle := h, r0 := map, r1 := channelWord channels, r2 := first })

def kernelLoadBody (p : Pkt) (s : State) : Body :=
  let es := regionEntries p.b
  let named := es.filter fun e => e.owner != 0
  let img := match p.image with | .ok d => some (slice d 0 (u32 p.b 24)) | _ => none
  let b := img.getD []
  let bad := loadBad p.b || p.target != 0
  let pages := ((es.filter fun e => e.owner == 0).map RegionEntry.pages).sum
  let rest : List (Option Res) :=
    [failIf (!imgOk b) stParam]
      ++ named.map (fun e => badKind s e.owner [1, 2, 5]) ++ named.map (fun e => stale s e.owner)
      ++ [failIf (named.any fun e => e.write) stHeld,
          shortOf stFit 1 (s.pagesAfter + pages) s.pageCapacity,
          s.clerkShort (if imgTarget b = 1 then imgClerks b else 0),
          failIf (imgTarget b = 2 && s.vxKernel.isSome) stResource,
          failIf (s.freeChannels.length < imgChannels b) stResource,
          noIndex s]
  { words := 8 + 4 * u8 p.b 28 + 6 * u8 p.b 29
    checks := [p.reserved [(30, 2)], failIf bad stParam] ++ (if img.isSome then rest else [])
    effect := fun t =>
      match img with
      | none => ({ t with ring := { t.ring with fetchErr := true } }, { status := stParam }, .done)
      | some b => let (t, r) := t.loadKernel p.b b; (t, r, .done) }

/-- R396: `image` is what the reads of the image return. -/
def execKernelLoad (src : Source) (image : ReadResult) (s : State) : Host.Outcome State Fault Refusal :=
  settleFlags s (runOp 0x40 kernelLoadBody src true image s)

/-! ### KERNEL_RUN (R281, R397) -/

/-- A register file whose lane 0 of v63 points at the parameter block. -/
def vxEntryRegs : VxRegs :=
  let r : VxRegs := {}
  { r with v := r.v.set 63 (BitVec.ofNat 2048 vxParam) }

/-- A clerk at kernel entry: d15 its index, d14 the clerks of the kernel. -/
def clerkEntry (c : Clerk) (index count entry : Nat) : Clerk :=
  let r : Clerk := c.kept
  { r with
    d := (r.d.set 15 (BitVec.ofNat 24 index)).set 14 (BitVec.ofNat 24 count)
    pc := entry % 16384, running := true, owner := c.owner, system := c.system }

/-- R281: the kernel's engines start at ENTRY. -/
def State.startKernel (h : Handle) (k : Kernel) (s : State) : State :=
  let s := (s.setState h .running).updEntry h fun e => { e with completed := false, aborting := false }
  if k.vx then s.updCtx 1 fun _ => { regs := vxEntryRegs, pc := k.entry % 4096, running := true }
  else k.clerks.foldl (fun s n => s.updClerk n fun c => clerkEntry c (k.indexOf n) k.clerks.length k.entry) s

def kernelRunBody (p : Pkt) (s : State) : Body :=
  let h := p.target
  let post := bit (u8 p.b 16) 0
  let n := u16 p.b 18
  let params := slice p.b 32 n
  let st := s.hstate h
  { words := 8 + (n + 3) / 4
    deferred := !post
    checks := [
      p.reserved [(17, 1), (20, 4), (32 + n, 4 * ((n + 3) / 4) - n)], failIf (1 < u8 p.b 16 || 256 < n) stParam,
      badKind s h [5], stale s h,
      failIf (!(st == .created || st == .stopped || (st == .running && post))) stState]
    effect := fun t =>
      match t.kernel? h with
      | none => (t, {}, .done)
      | some k =>
        let t := t.writeParams k params
        if post then (t.kernelEvent h 0, {}, .done)
        else
          let t := t.updKernel h fun k => { k with maxCycles := u64 p.b 24, exit := 0, faulted := 0, stopAt := none }
          (t.startKernel h k, { handle := h }, .wait (.kernelRun h)) }

def execKernelRun (src : Source) (s : State) : Host.Outcome State Fault Refusal :=
  settleFlags s (runOp 0x41 kernelRunBody src true .failed s)

/-! ### Events of the kernel machinery -/

/-- The kernel that runs on an engine. -/
def State.engineKernel (s : State) : Engine → Option Handle
  | .vx c => if c = 1 then s.vxKernel else none
  | .clerk n => (s.clerk n).owner

def State.engineRuns (s : State) : Engine → Bool
  | .vx c => (s.ctx c).running
  | .clerk n => (s.clerk n).running

def State.engineCycles (s : State) : Engine → Nat
  | .vx c => (s.ctx c).regs.cyc.toNat
  | .clerk n => (s.clerk n).cyc.toNat

/-- A fault of an engine (R282, R285). -/
def State.engineFault (e : Engine) (exit : Nat) (s : State) : State :=
  match e with
  | .vx c => s.vxFault c exit
  | .clerk n => s.clerkFault n exit

/-- R282: the engine has run past MAX_CYCLES. -/
def State.overLimit (s : State) (e : Engine) : Bool :=
  match (s.engineKernel e).bind s.kernel? with
  | some k => k.maxCycles != 0 && k.maxCycles < s.engineCycles e
  | none => false

/-- A waiting clerk's CYC counts on (R269): when its limit is passed during the wait, CYC stands one above it. -/
def State.passLimit (s : State) (e : Engine) : Option State :=
  match e, (s.engineKernel e).bind s.kernel? with
  | .clerk n, some k =>
    if (s.clerk n).waiting && k.maxCycles != 0 && k.maxCycles < 2 ^ 48 - 1 && !s.overLimit e then
      some (s.updClerk n fun c => { c with cyc := BitVec.ofNat 48 (k.maxCycles + 1) })
    else none
  | _, _ => none

def execMaxCyclesExceeded (e : Engine) (s : State) : Host.Outcome State Fault Refusal :=
  settleFlags s (
    if !s.engineRuns e then s
    else if s.overLimit e then s.engineFault e exitCycles
    else match s.passLimit e with
      | some t => t.engineFault e exitCycles
      | none => s)

/-- R284: 10 µs after the stop was requested the kernel stops; EXIT is clerk 0's own code where it has halted (R282). -/
def execKernelStopTimeout (h : Handle) (s : State) : Host.Outcome State Fault Refusal :=
  settleFlags s (
    match s.kernel? h with
    | some k => match k.stopAt with
      | some t => if s.hstate h == .running && t + 10 * tickUs ≤ s.now then
          let own := match k.clerks.head? with | some n => (s.clerk n).halted | none => false
          (s.updKernel h fun k => { k with exit := if own then k.exit else BitVec.ofNat 32 exitAborted }).finishRun h else s
      | none => s
    | none => s)

/-- R279: a bit of EVT under the mask ends a wait. The cycles that passed are the device's (notes/assumptions/19.md). -/
def execWaitResume (e : Engine) (s : State) : Host.Outcome State Fault Refusal :=
  settle s (
    match e with
    | .vx c =>
      let x := s.ctx c
      match x.wait with
      | some m => if x.running && x.regs.evt &&& m != 0 then s.updCtx c fun x => { x with wait := none } else s
      | none => s
    | .clerk n =>
      let x := s.clerk n
      if x.running && x.waiting && x.evt &&& x.evm != 0 then (s.waitCycles n).updClerk n fun x => { x with waiting := false } else s)

/-- R285, R305: the Teller reloads and restarts the formatter, or the system kernels that stopped. -/
def execSystemKernelReload (formatter : Bool) (served : Handle) (s : State) : Host.Outcome State Fault Refusal :=
  settleFlags s (
    if s.teller.safe then s
    else
      let noted (cls unit kind : Nat) (h : Handle) (s : State) : State :=
        (s.logAdd 0x0701 cls unit (le 1 kind ++ List.replicate 11 0 ++ le 4 h.toNat)).raise evKernelRestart
      if formatter then
        if (s.ctx 0).running then s
        else noted 0 0xFF 2 0 ({ s with vx := { s.vx with progFlips := s.vx.progFlips.set 0 [] } }.updCtx 0 fun _ => { running := true })
      else match (List.range 16).filter fun n => (s.clerk n).system && !(s.clerk n).running with
        | [] => s
        | n :: t => noted 2 n 1 served ((n :: t).foldl (fun (s : State) n => s.updClerk n fun c =>
            { system := true, owner := c.owner, running := true, mem := c.mem, prog := c.prog }) s))

/-! ### Doorbells of granted channels (R272, R479) -/

/-- The channel whose doorbell lies at offset o of the doorbell space of kernel h, and the offset within it. -/
def State.doorbellOf (s : State) (h : Handle) (o : Nat) : Option (Nat × Nat) :=
  (s.kernel? h).bind fun k => (k.channels[o / 16]?).map fun ch => (ch, o % 16)

/-- The 16 B of a doorbell as read: CUR_DESC, STATUS, CHAIN_LIMIT. -/
def DmaCh.doorbellBytes (c : DmaCh) : List Byte := le 8 c.curDesc.toNat ++ le 4 c.status ++ le 4 c.chainLimit

/-- A KICK (R484). One whose read of NEXT goes to host memory is carried out by the KICK command or a burst of the bus matrix,
which brings what that read returns. -/
def State.doorbellKick (ch : Nat) (s : State) : State :=
  match targetOf ((s.dmaCh ch).curDesc.toNat + 40) with
  | .host _ => if (s.dmaCh ch).st == .parked then s.updDma ch fun c => { c with kickDue := true, chainCount := 0 } else s.dmaKick ch .failed
  | _ => s.dmaKick ch .failed

/-- A write of some bytes of one doorbell, all within one of its registers: HEAD takes effect with its last byte. -/
def State.doorbellWrite (ch o : Nat) (b : List Byte) (s : State) : State :=
  if o < 8 then
    let s := s.updDma ch fun c => { c with latch := patch c.latch o b }
    if o + b.length = 8 then s.dmaHead ch (BitVec.ofNat 64 (leNat 8 (s.dmaCh ch).latch)) else s
  else if o < 12 then s.doorbellKick ch
  else
    let v := leNat 4 (patch (le 4 (s.dmaCh ch).chainLimit) (o - 12) b) % 2 ^ 24
    if v = 0 then s else s.updDma ch fun c => { c with chainLimit := v }

end Sys2Proof.Machine
end

