-- ==== Sys2Proof/Machine/VxMath.lean ====
section
/-! DEFINITION. The arithmetic of the vector engine on one lane: IEEE 754 results with their exceptions (R258), conversions, integer
operations, and the long accumulators (R263–R266). A result comes with the FF bits it raises: 1 invalid, 2 overflow, 4 inexact,
8 saturation (R254). -/
namespace Sys2Proof.Machine

def ffInvalid : Nat := 1
def ffOverflow : Nat := 2
def ffInexact : Nat := 4
def ffSaturation : Nat := 8

/-- The one NaN of R258. -/
def nan32 : Nat := 0x7FC00000
def maxFinite32 : Nat := 0x7F7FFFFF

/-- A signalling NaN: the top fraction bit is 0. -/
def Fmt.isSnan (f : Fmt) (a : Nat) : Bool := f.isNan a && !bit a (f.m - 1)

/-- A rounded finite result: overflow and inexact of an exact m × 2^e that became pattern p. -/
def Fmt.roundFlags (f : Fmt) (m e : Int) (p : Nat) : Nat :=
  if !f.isFinite p then ffOverflow + ffInexact
  else
    let x := f.exact p
    flagBit ((addExact m e (-x.1) x.2).1 != 0) 2

/-- Invalid where an operand is a signalling NaN, or where no operand is a NaN and the result is. -/
def Fmt.invalid (f : Fmt) (l : List Nat) (p : Nat) : Nat :=
  flagBit (l.any f.isSnan || (f.isNan p && !l.any f.isNan)) 0

/-- Flags of a sum that became p. -/
def addFlags (a b p : Nat) : Nat :=
  if b32.isFinite a && b32.isFinite b then
    let r := addExact (b32.exact a).1 (b32.exact a).2 (b32.exact b).1 (b32.exact b).2
    b32.roundFlags r.1 r.2 p
  else b32.invalid [a, b] p

/-- vfadd (R258). -/
def fpAdd (a b : Nat) : Nat × Nat := let p := b32.add a b; (p, addFlags a b p)

/-- vfsub: the sum with B's sign inverted. -/
def fpSub (a b : Nat) : Nat × Nat := fpAdd a (b32.neg b)

/-- vfmul. -/
def fpMul (a b : Nat) : Nat × Nat :=
  let p := b32.mul a b
  let x := b32.exact a
  let y := b32.exact b
  (p, if b32.isFinite a && b32.isFinite b then b32.roundFlags (x.1 * y.1) (x.2 + y.2) p else b32.invalid [a, b] p)

/-- The product of a and b is infinity times zero. -/
def infTimesZero (a b : Nat) : Bool := b32.isNan (b32.mul a b) && !b32.isNan a && !b32.isNan b

/-- vfma: a × b + c with one rounding. Whether infinity times zero with a quiet NaN is invalid, IEEE 754 leaves open. -/
def fpFma (a b c : Nat) (s : State) : Nat × Nat × State :=
  let p := b32.fma a b c
  let x := b32.exact a
  let y := b32.exact b
  let z := b32.exact c
  if b32.isFinite a && b32.isFinite b && b32.isFinite c then
    let r := addExact (x.1 * y.1) (x.2 + y.2) z.1 z.2
    (p, b32.roundFlags r.1 r.2 p, s)
  else if infTimesZero a b && b32.isNan c && !b32.isSnan c then
    let (v, s) := s.takeFree 1
    (nan32, v, s)
  else (p, b32.invalid [a, b, c] p, s)

/-- Order of two numbers, the zeros by sign (IEEE 754 minimum and maximum). -/
def fpLess (a b : Nat) : Bool := b32.lt a b || (b32.eq a b && bit a 31 && !bit b 31)

/-- vfmin and vfmax: a NaN operand gives NaN. -/
def fpMin (a b : Nat) : Nat × Nat :=
  (if b32.isNan a || b32.isNan b then nan32 else if fpLess b a then b else a, b32.invalid [a, b] 0)
def fpMax (a b : Nat) : Nat × Nat :=
  (if b32.isNan a || b32.isNan b then nan32 else if fpLess a b then b else a, b32.invalid [a, b] 0)

/-- vfcmp: 0 eq, 1 lt, 2 le, 3 unordered. Whether lt and le of a quiet NaN are invalid, IEEE 754 leaves to the operation. -/
def fpCmp (cond a b : Nat) (s : State) : Bool × Nat × State :=
  let un := b32.isNan a || b32.isNan b
  let snan := b32.invalid [a, b] 0
  match cond with
  | 0 => (b32.eq a b, snan, s)
  | 3 => (un, snan, s)
  | _ =>
    let r := if cond = 1 then b32.lt a b else b32.lt a b || b32.eq a b
    if un && snan == 0 then let (v, s) := s.takeFree 1; (r, v, s) else (r, snan, s)

/-- vcvt.if. -/
def fpOfInt (a : Nat) : Nat × Nat :=
  let v := sext 32 a
  let p := b32.round v 0 false
  (p, b32.roundFlags v 0 p)

/-- A finite value rounded to an integer, ties to even. -/
def fpToInt (m e : Int) : Int := if 0 ≤ e then m * 2 ^ e.toNat else rhe m (-e).toNat

/-- vcvt.fi: saturating, NaN to 0. Inexact, and the saturation bit of a clamp, are not stated. -/
def fpFix (a : Nat) (s : State) : Nat × Nat × State :=
  match b32.read a with
  | .nan => (0, ffInvalid, s)
  | .inf neg => let (v, s) := s.takeFree 1; (if neg then 0x80000000 else 0x7FFFFFFF, ffInvalid + v * ffSaturation, s)
  | .fin neg m e =>
    let n := fpToInt (signed neg m) e
    let c := clampBits 32 n
    if c != n then let (v, s) := s.takeFree 1; (wrapBits 32 c, ffInvalid + v * ffSaturation, s)
    else if (addExact (signed neg m) e (-n) 0).1 != 0 then let (v, s) := s.takeFree 1; (wrapBits 32 n, v * ffInexact, s)
    else (wrapBits 32 n, 0, s)

/-- vcvt.hf: exact; a NaN becomes the one of R258. -/
def fpOfHalf (h : Nat) : Nat × Nat :=
  match b16.read h with
  | .nan => (nan32, flagBit (b16.isSnan h) 0)
  | .inf neg => (b32.signPat neg + b32.infPat, 0)
  | .fin neg m e => (b32.round (signed neg m) e neg, 0)

/-- |m × 2^e| > 65,504. -/
def beyondHalf (m e : Int) : Bool := (addExact m.natAbs e (-65504) 0).1 > 0

/-- vcvt.fh: a magnitude above 65,504 is clamped and sets FF[3]. The pattern of a NaN, and overflow and inexact of a clamp, are
not stated. -/
def fpToHalf (a : Nat) (s : State) : Nat × Nat × State :=
  match b32.read a with
  | .nan =>
    let (v, s) := s.takeFree 11
    (b16.signPat (bit v 10) + b16.infPat + max 1 (v % 1024), flagBit (b32.isSnan a) 0, s)
  | .inf neg => let (v, s) := s.takeFree 2; (b16.signPat neg + 0x7BFF, ffSaturation + 2 * v, s)
  | .fin neg m e =>
    if beyondHalf m e then let (v, s) := s.takeFree 2; (b16.signPat neg + 0x7BFF, ffSaturation + 2 * v, s)
    else
      let p := b16.round (signed neg m) e neg
      (p, b16.roundFlags (signed neg m) e p, s)

/-- vfabs: 0 abs, 1 negate; a NaN result is the one of R258. -/
def fpAbs (negate : Bool) (a : Nat) : Nat := if b32.isNan a then nan32 else if negate then b32.neg a else a % 2 ^ 31

/-! ### Integers -/

/-- vmulh. -/
def mulHigh (a b : Nat) : Nat := wrapBits 32 (sext 32 a * sext 32 b / 2 ^ 32)

/-- vsh by a count below 32: 0 shl, 1 shr, 2 sra. -/
def shift32 (kind n a : Nat) : Nat :=
  match kind with
  | 0 => a * 2 ^ n % 2 ^ 32
  | 1 => a / 2 ^ n
  | _ => wrapBits 32 (sext 32 a / 2 ^ n)

/-- vcmp: 0 eq, 1 lt, 2 le, 3 unsigned lt. -/
def intCmp (cond a b : Nat) : Bool :=
  match cond with
  | 0 => a == b
  | 1 => sext 32 a < sext 32 b
  | 2 => sext 32 a ≤ sext 32 b
  | _ => a < b

/-! ### Long accumulators (R263–R266): a lane as an integer in units of 2^-149 -/

/-- A lane's value wrapped into 320 bits, and whether it left the range (R264). -/
def accWrap (v : Int) : Int × Bool :=
  let w := sext 320 (wrapBits 320 v)
  (w, w != v)

/-- A finite binary32 value in units of bit 0: every place is at or above 2^-149. -/
def accOf (a : Nat) : Int := let x := b32.exact a; x.1 * 2 ^ (x.2 + 149).toNat

/-- xrnd of a lane without flags (R266). Beyond the range mode 2 takes the higher of infinity and the largest finite value when the bits
are below d; what d is with an infinite hi is not stated (notes/assumptions/143.md). -/
def accRound (mode : Nat) (v : Int) (random : Nat) : Nat × Nat :=
  let top : Int := accOf maxFinite32
  let sign := b32.signPat (v < 0)
  let flags (p : Nat) : Nat := b32.roundFlags v (-149) p
  if mode = 0 then let p := b32.round v (-149) false; (p, flags p)
  else if v.natAbs ≤ top.natAbs then
    let p := if mode = 1 then b32.chopped v (-149) false else b32.stoch v (-149) false random
    (p, flags p)
  else if mode = 1 then (sign + maxFinite32, ffOverflow + ffInexact)
  else
    let higher := random < (Config.beyondGap v).toNat
    (sign + (if higher == decide (0 < v) then b32.infPat else maxFinite32), ffOverflow + ffInexact)

/-- xrndl: the value rounded to int64, saturating (R257). -/
def accInt (v : Int) : Int × Bool :=
  let n := rhe v 149
  (clampBits 64 n, clampBits 64 n != n)

end Sys2Proof.Machine
end

