-- ==== Sys2Proof/Machine/Vx.lean ====
section
/-! DEFINITION. The vector engine's contexts (R252–R262): bundles and their words, register names and writes, the control
registers, and data memory. What each instruction computes stands in VxOps.lean. A word runs as one command; the words of a
bundle read the registers as of its issue. -/
namespace Sys2Proof.Machine

/-! ### Lanes -/

/-- The 64 lanes of a vector register, lane 0 at bits 31:0. -/
def vlanes (v : BitVec 2048) : List Nat := (List.range 64).map fun i => v.toNat / 2 ^ (32 * i) % 2 ^ 32
def ofLanes (l : List Nat) : BitVec 2048 := BitVec.ofNat 2048 (l.foldr (fun x n => x + 2 ^ 32 * n) 0)

/-- The 64 lanes of a long accumulator, as integers (R263). -/
def xlanes (x : BitVec 20480) : List Int := (List.range 64).map fun i => sext 320 (x.toNat / 2 ^ (320 * i))
def ofXlanes (l : List Int) : BitVec 20480 := BitVec.ofNat 20480 (l.foldr (fun x n => wrapBits 320 x + 2 ^ 320 * n) 0)

/-- A predicate of 64 bits from one Bool per lane. -/
def ofMask (l : List Bool) : Nat := l.foldr (fun b n => (if b then 1 else 0) + 2 * n) 0
def allLanes : Nat := 2 ^ 64 - 1

/-! ### Register names (R254, R259) -/

/-- The physical register of a name. -/
def VxRegs.phys (r : VxRegs) (n : Nat) : Nat := if n < 64 then n else 64 + (n - 64 + 64 - r.rot.toNat) % 64

def VxRegs.vec (r : VxRegs) (n : BitVec 7) : List Nat := vlanes (r.v.getD (r.phys n.toNat) 0)

/-- m0 reads as all ones. -/
def VxRegs.mask (r : VxRegs) (n : Nat) : Nat := if n % 8 = 0 then allLanes else (r.m.getD (n % 8) 0).toNat

/-- Lane 0 of a static register; none where the name rotates, which is an illegal instruction. -/
def VxRegs.scalar (r : VxRegs) (n : BitVec 7) : Option Nat := if n.toNat < 64 then (r.vec n).head? else none

/-- The signed IMM14 of a word (R256). -/
def vxImm14 (w : VxWord) : Int := sext 14 (w.b.toNat * 128 + w.imm7.toNat)

/-- Physical numbers of m and x registers among the written ones. -/
def regM (k : Nat) : Nat := 128 + k
def regX (k : Nat) : Nat := 136 + k

/-! ### Writes: a lane that two words of one bundle write has no stated value -/

/-- Lanes of register r that the bundle has already written. -/
def VxCtx.writtenLanes (x : VxCtx) (r : Nat) : Nat :=
  x.wrote.foldl (fun n (e : Nat × BitVec 64) => if e.1 = r then n ||| e.2.toNat else n) 0

/-- Values with a free one in each lane of `over`. -/
def freeLanes (w ovf : Nat) : Nat → List Nat → State → List Nat × State
  | _, [], s => ([], s)
  | i, v :: t, s =>
    let (v, s) := if bit ovf i then s.takeFree w else (v, s)
    let (t, s) := freeLanes w ovf (i + 1) t s
    (v :: t, s)

def State.noteWrite (c r mask : Nat) (s : State) : State :=
  s.updCtx c fun x => { x with wrote := x.wrote ++ [(r, BitVec.ofNat 64 mask)] }

def State.updRegs (c : Nat) (f : VxRegs → VxRegs) (s : State) : State := s.updCtx c fun x => { x with regs := f x.regs }

/-- Write the enabled lanes of physical vector register r. -/
def State.writeVec (c r mask : Nat) (l : List Nat) (s : State) : State :=
  let (l, s) := freeLanes 32 ((s.ctx c).writtenLanes r &&& mask) 0 l s
  let put (old : List Nat) : List Nat :=
    (List.range 64).map fun i => if bit mask i then l.getD i 0 % 2 ^ 32 else old.getD i 0
  (s.updRegs c fun g => { g with v := g.v.modify r fun v => ofLanes (put (vlanes v)) }).noteWrite c r mask

/-- Write the enabled bits of predicate k; m0 ignores it. -/
def State.writeMask (c k mask v : Nat) (s : State) : State :=
  if k % 8 = 0 then s
  else
    let r := regM (k % 8)
    let ovf := (s.ctx c).writtenLanes r &&& mask
    let (f, s) := if ovf = 0 then (0, s) else s.takeFree 64
    let v := BitVec.ofNat 64 v &&& ~~~ BitVec.ofNat 64 ovf ||| BitVec.ofNat 64 f &&& BitVec.ofNat 64 ovf
    let m := BitVec.ofNat 64 mask
    (s.updRegs c fun g => { g with m := g.m.modify (k % 8) fun old => old &&& ~~~ m ||| v &&& m }).noteWrite c r mask

/-- One lane of a long accumulator: value, XOVF, XNAN. -/
structure AccLane where
  v : Int
  ovf : Bool := false
  nan : Bool := false
  deriving DecidableEq, Repr

/-- The lanes of accumulator k. -/
def VxRegs.acc (r : VxRegs) (k : Nat) : List AccLane :=
  let o := (r.xovf.getD k 0).toNat
  let n := (r.xnan.getD k 0).toNat
  (xlanes (r.x.getD k 0)).zipIdx.map fun (e : Int × Nat) => { v := e.1, ovf := bit o e.2, nan := bit n e.2 }

/-- Lanes with a free value and free flags where `over` has a bit. -/
def freeAcc (ovf : Nat) : Nat → List AccLane → State → List AccLane × State
  | _, [], s => ([], s)
  | i, a :: t, s =>
    let (a, s) : AccLane × State :=
      if bit ovf i then let (f, s) := s.takeFree 322; ({ v := sext 320 f, ovf := bit f 320, nan := bit f 321 }, s) else (a, s)
    let (t, s) := freeAcc ovf (i + 1) t s
    (a :: t, s)

/-- Write the enabled lanes of accumulator k with their flags. -/
def State.writeAcc (c k mask : Nat) (l : List AccLane) (s : State) : State :=
  let (l, s) := freeAcc ((s.ctx c).writtenLanes (regX k) &&& mask) 0 l s
  let old := (s.ctx c).regs.acc k
  let new := (List.range 64).map fun i => if bit mask i then l.getD i { v := 0 } else old.getD i { v := 0 }
  let s := s.updRegs c fun g => { g with
    x := g.x.set k (ofXlanes (new.map (·.v)))
    xovf := g.xovf.set k (BitVec.ofNat 64 (ofMask (new.map (·.ovf))))
    xnan := g.xnan.set k (BitVec.ofNat 64 (ofMask (new.map (·.nan)))) }
  s.noteWrite c (regX k) mask

/-- Sticky FF bits. -/
def State.raiseFf (c ff : Nat) (s : State) : State := s.updRegs c fun g => { g with ff := g.ff ||| BitVec.ofNat 4 ff }

/-! ### Control registers (R254); their numbers are the table's order (notes/assumptions/27.md) -/

/-- XF. -/
def VxRegs.xf (r : VxRegs) : Nat :=
  ((List.range 4).map fun n => flagBit (r.xovf.getD n 0 != 0) n + flagBit (r.xnan.getD n 0 != 0) (4 + n)).sum

/-- getc: the low 32 bits of a control register; none where the table has no such number. -/
def VxRegs.control (r : VxRegs) (n : Nat) : Option Nat :=
  match n with
  | 0 => some r.pln.toNat
  | 1 => some r.pls.toNat
  | 2 => some r.plp.toNat
  | 3 => some r.rot.toNat
  | 4 => some r.ff.toNat
  | 5 => some r.xf
  | 6 => some r.evt.toNat
  | 7 => some (r.cyc.toNat % 2 ^ 32)
  | _ => none

/-- setc: RW registers take the value, W1C ones lose the bits written 1, RO ones and other numbers nothing. -/
def VxRegs.setControl (r : VxRegs) (n v : Nat) : VxRegs :=
  match n with
  | 0 => { r with pln := BitVec.ofNat 32 v }
  | 1 => { r with pls := BitVec.ofNat 4 v }
  | 2 => { r with plp := BitVec.ofNat 32 v }
  | 3 => { r with rot := BitVec.ofNat 6 v }
  | 4 => { r with ff := r.ff &&& ~~~ BitVec.ofNat 4 v }
  | 6 => { r with evt := r.evt &&& ~~~ BitVec.ofNat 8 v }
  | _ => r

/-! ### Words and bundles (R256, R260, R261) -/

/-- What a word does beside its writes: nothing more, a branch by bundles, the end of its context's run with a code, or a fault. -/
inductive Issued where
  | go (s : State)
  | jump (off : Int) (s : State)
  | halt (code : Nat) (s : State)
  | stop (exit : Nat) (s : State)
  deriving DecidableEq, Repr

/-- The 40 bits of a word (R256). -/
def vxEncode (op : Nat) (w : VxWord) : Nat :=
  w.stage.toNat * 2 ^ 37 + op * 2 ^ 31 + w.pred.toNat * 2 ^ 28 + w.d.toNat * 2 ^ 21 + w.a.toNat * 2 ^ 14 + w.b.toNat * 2 ^ 7 + w.imm7.toNat

def slotNumber : Slot → Nat
  | .l => 0
  | .f => 1
  | .i => 2
  | .x => 3

/-- The word in a slot of the bundle at a context's pc. -/
def State.vxSlotWord (s : State) (slot : Nat) : Nat := (Memory.get 0 s.vx.prog (s.ctx 1).pc).toNat / 2 ^ (40 * slot) % 2 ^ 40

/-- The word is the next one of its context. The formatter's program is part of the Teller firmware (R252) and its words come with
their commands. -/
def State.vxNext (s : State) (c : Nat) (slot : Slot) (op : Nat) (w : VxWord) : Bool :=
  let x := s.ctx c
  !s.teller.safe && c < 2 && x.running && x.wait.isNone && x.slot == slotNumber slot && !s.overLimit (.vx c)
    && (c == 0 || s.vxSlotWord (slotNumber slot) == vxEncode op w)

/-- R260: the stage is live on the current pass. -/
def VxRegs.live (r : VxRegs) (stage : Nat) : Bool :=
  r.pls == 0 || (stage ≤ r.plp.toNat && r.plp.toNat - stage < r.pln.toNat)

/-- Instructions that heed STAGE: the L, F and I slots, and X opcodes 0x01–0x09. -/
def heedsStage (slot : Slot) (op : Nat) : Bool := slot != .x || (1 ≤ op && op ≤ 9)

/-- R256: the L slot's word is the bundle's first: it fixes what all four read. -/
def State.beginBundle (c : Nat) (slot : Slot) (s : State) : State :=
  if slot = .l then s.updCtx c fun x => { x with issue := some x.regs, wrote := [] } else s

/-- The word of a slot is done; after the X slot the bundle is, and the next lies `off` bundles on. -/
def State.endWord (c : Nat) (slot : Slot) (off : Int) (s : State) : State :=
  s.updCtx c fun x =>
    if slot = .x then
      { x with slot := 0, issue := none, wrote := [], pc := ((x.pc + off) % 4096).toNat, regs := { x.regs with cyc := x.regs.cyc + 1 } }
    else { x with slot := x.slot + 1 }

/-- A halt ends the run (R282, R283); context 0 stops. -/
def State.vxHalts (c code : Nat) (s : State) : State :=
  if c = 1 then
    match s.vxKernel with
    | some h => (s.updKernel h fun k => { k with exit := BitVec.ofNat 32 code }).finishRun h
    | none => s.updCtx 1 fun x => { x with running := false }
  else s.updCtx 0 fun x => { x with running := false }

/-- One instruction word (R256, R260): when it is its context's next and its stage is live, f says what it does with the registers
as of the bundle's issue. -/
def State.vxWord (c : Nat) (slot : Slot) (op : Nat) (w : VxWord) (f : VxRegs → State → Issued) (s : State) : State :=
  if !s.vxNext c slot op w then s
  else
    let (got, s) := if slot = .l then s.fetchVx c else (true, s)
    if !got then s.vxFault c exitUncorr
    else
    let s := s.beginBundle c slot
    let r := ((s.ctx c).issue).getD (s.ctx c).regs
    match (if heedsStage slot op && !r.live w.stage.toNat then .go s else f r s) with
    | .go s => s.endWord c slot 1
    | .jump off s => s.endWord c slot off
    | .halt code s => (s.endWord c slot 1).vxHalts c code
    | .stop exit s => s.vxFault c exit

/-! ### Data memory (R255, R479) -/

/-- Where a lane's access goes: a word of data memory, or a doorbell word by byte offset. -/
inductive VxPlace where
  | word (n : Nat)
  | bell (off : Nat)
  deriving DecidableEq, Repr

/-- The map of a context; vld and vst of context 1 reach the doorbells of its channels. -/
def State.vxPlace (s : State) (c : Nat) (bells : Bool) (a : Nat) : Option VxPlace :=
  if a % 4 != 0 then none
  else if a < 0x200000 && (c = 0 || 0x180000 ≤ a) then some (.word (a / 4))
  else if bells && c = 1 && 0x200000 ≤ a && a < 0x200040
      && ((s.vxKernel.bind fun h => s.doorbellOf h (a - 0x200000)).isSome) then some (.bell (a - 0x200000))
  else none

/-- One word read: its value and whether it is uncorrectable. -/
def State.vxRead (p : VxPlace) (s : State) : Nat × Bool × State :=
  match p with
  | .word n => s.readVxWord n
  | .bell o => match s.vxKernel.bind fun h => s.doorbellOf h o with
    | some (ch, k) => (leNat 4 ((s.dmaCh ch).doorbellBytes.drop k), false, s)
    | none => (0, false, s)

/-- One word written. -/
def State.vxStore (p : VxPlace) (v : Nat) (s : State) : State :=
  match p with
  | .word n => s.writeVxWord n v
  | .bell o => match s.vxKernel.bind fun h => s.doorbellOf h o with
    | some (ch, k) => s.doorbellWrite ch k (le 4 v)
    | none => s

/-- Read a list of words in turn. An uncorrectable word has no stated value for the formatter, which goes on (R268, R305). -/
def State.vxReadAll : List VxPlace → State → List Nat × Bool × State
  | [], s => ([], false, s)
  | p :: t, s =>
    let (v, b, s) := s.vxRead p
    let (v, s) := if b then s.takeFree 32 else (v, s)
    let (l, b', s) := State.vxReadAll t s
    (v :: l, b || b', s)

/-- Addresses of the enabled lanes, in lane order: the lane and its address. -/
def enabled (mask : Nat) (addr : Nat → Int) : List (Nat × Nat) :=
  ((List.range 64).filter (bit mask ·)).map fun i => (i, (addr i % 2 ^ 32).toNat)

/-- The places of a list of addresses; none where one lies outside the map, an access fault (R283). -/
def State.vxPlaces (s : State) (c : Nat) (bells : Bool) (l : List (Nat × Nat)) : Option (List (Nat × VxPlace)) :=
  l.mapM fun e => (s.vxPlace c bells e.2).map fun p => (e.1, p)

/-- A load of enabled lanes into D. -/
def State.vxLoad (c : Nat) (bells : Bool) (d mask : Nat) (addr : Nat → Int) (s : State) : Issued :=
  match s.vxPlaces c bells (enabled mask addr) with
  | none => .stop exitAccess s
  | some l =>
    let (vals, bad, s) := s.vxReadAll (l.map Prod.snd)
    if bad && c == 1 then .stop exitUncorr s
    else
      let got := (l.map Prod.fst).zip vals
      .go (s.writeVec c d mask ((List.range 64).map fun i => ((got.find? fun (e : Nat × Nat) => e.1 == i).map Prod.snd).getD 0))

/-- A store of the enabled lanes of a vector, in lane order. -/
def State.vxStores (c : Nat) (bells : Bool) (mask : Nat) (addr : Nat → Int) (vals : List Nat) (s : State) : Issued :=
  match s.vxPlaces c bells (enabled mask addr) with
  | none => .stop exitAccess s
  | some l => .go (l.foldl (fun (s : State) e => s.vxStore e.2 (vals.getD e.1 0)) s)

/-- After an access that did not fault. -/
def Issued.andThen (r : Issued) (f : State → State) : Issued :=
  match r with
  | .go s => .go (f s)
  | r => r

end Sys2Proof.Machine
end

