-- ==== Sys2Proof/Machine/VxOps.lean ====
section
/-! DEFINITION. The vector instructions (R257): one meaning per row, each one word run by `State.vxWord`. An option or operand
value for which the table gives no result leaves free what the instruction would write (notes/assumptions/28.md). -/
namespace Sys2Proof.Machine

/-- The result of a lane operation: value, FF bits. -/
abbrev LaneOut := Nat × Nat × State

/-- A lane operation that leaves nothing open. -/
def pureLane (r : Nat × Nat) (s : State) : LaneOut := (r.1, r.2, s)
def plainLane (v : Nat) (s : State) : LaneOut := (v, 0, s)
def freeLane (s : State) : LaneOut := let (v, s) := s.takeFree 32; (v, 0, s)

/-- Run a lane operation over the enabled lanes in order: the 64 values, and the FF bits raised. -/
def runLanes (mask : Nat) (f : Nat → State → LaneOut) : List Nat → State → List Nat × Nat × State
  | [], s => ([], 0, s)
  | i :: t, s =>
    let (v, ff, s) := if bit mask i then f i s else (0, 0, s)
    let (l, g, s) := runLanes mask f t s
    (v :: l, ff ||| g, s)

/-- D[i] ← f i in the enabled lanes, with the FF bits. -/
def State.mapLanes (c : Nat) (r : VxRegs) (w : VxWord) (mask : Nat) (f : Nat → State → LaneOut) (s : State) : Issued :=
  let (l, ff, s) := runLanes mask f (List.range 64) s
  .go ((s.writeVec c (r.phys w.d.toNat) mask l).raiseFf c ff)

/-- The two source vectors, the destination's old lanes and the predicate of a word. -/
structure VxArgs where
  a : List Nat
  b : List Nat
  d : List Nat
  mask : Nat
  deriving DecidableEq, Repr

def VxRegs.args (r : VxRegs) (w : VxWord) : VxArgs := { a := r.vec w.a, b := r.vec w.b, d := r.vec w.d, mask := r.mask w.pred.toNat }

/-- D ← f A B lane by lane. -/
def vxMap2 (c : Nat) (w : VxWord) (f : Nat → Nat → State → LaneOut) (r : VxRegs) (s : State) : Issued :=
  let x := r.args w
  s.mapLanes c r w x.mask (fun i s => f (x.a.getD i 0) (x.b.getD i 0) s)

/-- m(D) ← f A B lane by lane. -/
def vxCompare (c : Nat) (w : VxWord) (f : Nat → Nat → State → LaneOut) (r : VxRegs) (s : State) : Issued :=
  let x := r.args w
  let (l, ff, s) := runLanes x.mask (fun i s => f (x.a.getD i 0) (x.b.getD i 0) s) (List.range 64) s
  .go ((s.writeMask c (w.d.toNat % 8) x.mask (ofMask (l.map (· % 2 == 1)))).raiseFf c ff)

/-- One command of the vector engine. -/
def vxRun (c : Nat) (slot : Slot) (op : Nat) (w : VxWord) (f : VxRegs → State → Issued) (s : State) :
    Host.Outcome State Fault Refusal := settleFlags s (s.vxWord c slot op w f)

/-- opcode 0x00: an empty slot. -/
def execVxNop (ctx : Nat) (slot : Slot) (w : VxWord) (s : State) : Host.Outcome State Fault Refusal :=
  vxRun ctx slot 0 w (fun _ s => .go s) s

/-! ### L slot -/

/-- lane0(A) + IMM14 × 256; a rotating A is an illegal instruction. -/
def withBase (w : VxWord) (r : VxRegs) (s : State) (f : Int → Issued) : Issued :=
  match r.scalar w.a with
  | some a => f (a + vxImm14 w * 256)
  | none => .stop exitIllegal s

/-- lane0(A) += IMM14 × 256, after the access: where D is A, what is added to is the word loaded (notes/assumptions/144.md). -/
def postIncrement (c : Nat) (w : VxWord) (s : State) : State :=
  let step (v : BitVec 2048) : BitVec 2048 :=
    match vlanes v with
    | [] => v
    | x :: t => ofLanes (((x + vxImm14 w * 256) % 2 ^ 32).toNat :: t)
  (s.updRegs c fun g => { g with v := g.v.modify w.a.toNat step }).noteWrite c w.a.toNat 1

def vxLoadWords (c : Nat) (w : VxWord) (bells : Bool) (r : VxRegs) (s : State) : Issued :=
  withBase w r s fun base => s.vxLoad c bells (r.phys w.d.toNat) (r.mask w.pred.toNat) (fun i => base + 4 * i)

def vxStoreWords (c : Nat) (w : VxWord) (bells : Bool) (r : VxRegs) (s : State) : Issued :=
  withBase w r s fun base => s.vxStores c bells (r.mask w.pred.toNat) (fun i => base + 4 * i) (r.vec w.d)

def execVld (ctx : Nat) (w : VxWord) (s : State) : Host.Outcome State Fault Refusal :=
  vxRun ctx .l 0x01 w (vxLoadWords ctx w true) s

def execVldp (ctx : Nat) (w : VxWord) (s : State) : Host.Outcome State Fault Refusal :=
  vxRun ctx .l 0x02 w (fun r s => (vxLoadWords ctx w false r s).andThen (postIncrement ctx w)) s

def execVst (ctx : Nat) (w : VxWord) (s : State) : Host.Outcome State Fault Refusal :=
  vxRun ctx .l 0x03 w (vxStoreWords ctx w true) s

def execVstp (ctx : Nat) (w : VxWord) (s : State) : Host.Outcome State Fault Refusal :=
  vxRun ctx .l 0x04 w (fun r s => (vxStoreWords ctx w false r s).andThen (postIncrement ctx w)) s

/-- Word at lane0(A) + i × lane0(B). -/
def vxStrided (c : Nat) (w : VxWord) (r : VxRegs) (s : State) : Issued :=
  match r.scalar w.a, r.scalar w.b with
  | some a, some b => s.vxLoad c false (r.phys w.d.toNat) (r.mask w.pred.toNat) (fun i => (a : Int) + i * b)
  | _, _ => .stop exitIllegal s

def execVlds (ctx : Nat) (w : VxWord) (s : State) : Host.Outcome State Fault Refusal :=
  vxRun ctx .l 0x05 w (vxStrided ctx w) s

/-- Word at lane0(A) + B[i]. -/
def vxIndexed (w : VxWord) (r : VxRegs) (s : State) (f : (Nat → Int) → Issued) : Issued :=
  match r.scalar w.a with
  | some a => f fun i => (a : Int) + ((r.vec w.b).getD i 0 : Nat)
  | none => .stop exitIllegal s

def execVgath (ctx : Nat) (w : VxWord) (s : State) : Host.Outcome State Fault Refusal :=
  vxRun ctx .l 0x06 w (fun r s => vxIndexed w r s fun f => s.vxLoad ctx false (r.phys w.d.toNat) (r.mask w.pred.toNat) f) s

def execVscat (ctx : Nat) (w : VxWord) (s : State) : Host.Outcome State Fault Refusal :=
  vxRun ctx .l 0x07 w (fun r s => vxIndexed w r s fun f => s.vxStores ctx false (r.mask w.pred.toNat) f (r.vec w.d)) s

/-- The ten words of each enabled lane of an image (R265). -/
def imageWords (mask : Nat) (base : Int) : List (Nat × Nat) :=
  ((List.range 64).filter (bit mask ·)).flatMap fun i =>
    (List.range 10).map fun k => (i, ((base + 40 * i + 4 * k) % 2 ^ 32).toNat)

/-- x(D) ← image; XOVF and XNAN clear. -/
def vxLoadAcc (c : Nat) (w : VxWord) (r : VxRegs) (s : State) : Issued :=
  let mask := r.mask w.pred.toNat
  withBase w r s fun base =>
    match s.vxPlaces c false (imageWords mask base) with
    | none => .stop exitAccess s
    | some l =>
      let (vals, bad, s) := s.vxReadAll (l.map Prod.snd)
      if bad && c == 1 then .stop exitUncorr s
      else
        let got := (l.map Prod.fst).zip vals
        let lane (i : Nat) : AccLane :=
          { v := sext 320 ((got.filter fun (e : Nat × Nat) => e.1 == i).foldr (fun (e : Nat × Nat) n => e.2 + 2 ^ 32 * n) 0) }
        .go (s.writeAcc c (w.d.toNat % 4) mask ((List.range 64).map lane))

def execXld (ctx : Nat) (w : VxWord) (s : State) : Host.Outcome State Fault Refusal := vxRun ctx .l 0x08 w (vxLoadAcc ctx w) s

/-- image ← x(D). -/
def vxStoreAcc (c : Nat) (w : VxWord) (r : VxRegs) (s : State) : Issued :=
  let mask := r.mask w.pred.toNat
  let acc := r.acc (w.d.toNat % 4)
  withBase w r s fun base =>
    match s.vxPlaces c false (imageWords mask base) with
    | none => .stop exitAccess s
    | some l =>
      .go ((l.zipIdx).foldl (fun (s : State) e =>
        let v := wrapBits 320 ((acc.getD e.1.1 { v := 0 }).v)
        s.vxStore e.1.2 (v / 2 ^ (32 * (e.2 % 10)) % 2 ^ 32)) s)

def execXst (ctx : Nat) (w : VxWord) (s : State) : Host.Outcome State Fault Refusal := vxRun ctx .l 0x09 w (vxStoreAcc ctx w) s

/-! ### F slot -/

def execVfadd (ctx : Nat) (w : VxWord) (s : State) : Host.Outcome State Fault Refusal :=
  vxRun ctx .f 0x01 w (vxMap2 ctx w fun a b s => pureLane (fpAdd a b) s) s

def execVfsub (ctx : Nat) (w : VxWord) (s : State) : Host.Outcome State Fault Refusal :=
  vxRun ctx .f 0x02 w (vxMap2 ctx w fun a b s => pureLane (fpSub a b) s) s

def execVfmul (ctx : Nat) (w : VxWord) (s : State) : Host.Outcome State Fault Refusal :=
  vxRun ctx .f 0x03 w (vxMap2 ctx w fun a b s => pureLane (fpMul a b) s) s

def vxFma (c : Nat) (w : VxWord) (r : VxRegs) (s : State) : Issued :=
  let x := r.args w
  s.mapLanes c r w x.mask (fun i s => fpFma (x.a.getD i 0) (x.b.getD i 0) (x.d.getD i 0) s)

def execVfma (ctx : Nat) (w : VxWord) (s : State) : Host.Outcome State Fault Refusal := vxRun ctx .f 0x04 w (vxFma ctx w) s

def execVfmin (ctx : Nat) (w : VxWord) (s : State) : Host.Outcome State Fault Refusal :=
  vxRun ctx .f 0x05 w (vxMap2 ctx w fun a b s => pureLane (fpMin a b) s) s

def execVfmax (ctx : Nat) (w : VxWord) (s : State) : Host.Outcome State Fault Refusal :=
  vxRun ctx .f 0x06 w (vxMap2 ctx w fun a b s => pureLane (fpMax a b) s) s

/-- A truth value as a lane result. -/
def boolLane (b : Bool) (ff : Nat) (s : State) : LaneOut := (if b then 1 else 0, ff, s)

def cmpLane (cond a b : Nat) (s : State) : LaneOut :=
  if 3 < cond then freeLane s
  else
    let (v, ff, s) := fpCmp cond a b s
    boolLane v ff s

def execVfcmp (ctx : Nat) (w : VxWord) (s : State) : Host.Outcome State Fault Refusal :=
  vxRun ctx .f 0x07 w (vxCompare ctx w fun a b s => cmpLane w.imm7.toNat a b s) s

def execVcvtIf (ctx : Nat) (w : VxWord) (s : State) : Host.Outcome State Fault Refusal :=
  vxRun ctx .f 0x08 w (vxMap2 ctx w fun a _ s => pureLane (fpOfInt a) s) s

def execVcvtFi (ctx : Nat) (w : VxWord) (s : State) : Host.Outcome State Fault Refusal :=
  vxRun ctx .f 0x09 w (vxMap2 ctx w fun a _ s => fpFix a s) s

def execVcvtHf (ctx : Nat) (w : VxWord) (s : State) : Host.Outcome State Fault Refusal :=
  vxRun ctx .f 0x0A w (vxMap2 ctx w fun a _ s => pureLane (fpOfHalf (a / 2 ^ (16 * (w.imm7.toNat % 2)) % 65536)) s) s

/-- binary16 enters one half of D; the other half stays. -/
def vxToHalf (c : Nat) (w : VxWord) (r : VxRegs) (s : State) : Issued :=
  let x := r.args w
  let half (i : Nat) (s : State) : LaneOut :=
    let (v, ff, s) := fpToHalf (x.a.getD i 0) s
    let d := x.d.getD i 0
    (if w.imm7.toNat % 2 = 1 then v * 65536 + d % 65536 else d / 65536 * 65536 + v, ff, s)
  s.mapLanes c r w x.mask half

def execVcvtFh (ctx : Nat) (w : VxWord) (s : State) : Host.Outcome State Fault Refusal := vxRun ctx .f 0x0B w (vxToHalf ctx w) s

def execVfabs (ctx : Nat) (w : VxWord) (s : State) : Host.Outcome State Fault Refusal :=
  vxRun ctx .f 0x0C w (vxMap2 ctx w fun a _ s =>
    if 1 < w.imm7.toNat then freeLane s else plainLane (fpAbs (w.imm7 == 1) a) s) s

/-! ### I slot -/

def execVadd (ctx : Nat) (w : VxWord) (s : State) : Host.Outcome State Fault Refusal :=
  vxRun ctx .i 0x01 w (vxMap2 ctx w fun a b s => plainLane ((a + b) % 2 ^ 32) s) s

def execVsub (ctx : Nat) (w : VxWord) (s : State) : Host.Outcome State Fault Refusal :=
  vxRun ctx .i 0x02 w (vxMap2 ctx w fun a b s => plainLane ((a + 2 ^ 32 - b) % 2 ^ 32) s) s

def execVmul (ctx : Nat) (w : VxWord) (s : State) : Host.Outcome State Fault Refusal :=
  vxRun ctx .i 0x03 w (vxMap2 ctx w fun a b s => plainLane (a * b % 2 ^ 32) s) s

def execVmulh (ctx : Nat) (w : VxWord) (s : State) : Host.Outcome State Fault Refusal :=
  vxRun ctx .i 0x04 w (vxMap2 ctx w fun a b s => plainLane (mulHigh a b) s) s

/-- Lanes 2k and 2k + 1 as one 64-bit integer. -/
def pair64 (l : List Nat) (k : Nat) : Nat := l.getD (2 * k) 0 + 2 ^ 32 * l.getD (2 * k + 1) 0

def vxPairs (c : Nat) (w : VxWord) (f : Nat → Nat → Nat) (r : VxRegs) (s : State) : Issued :=
  let x := r.args w
  s.mapLanes c r w x.mask (fun i s =>
    plainLane (f (pair64 x.a (i / 2)) (pair64 x.b (i / 2)) % 2 ^ 64 / 2 ^ (32 * (i % 2)) % 2 ^ 32) s)

def execVadd64 (ctx : Nat) (w : VxWord) (s : State) : Host.Outcome State Fault Refusal :=
  vxRun ctx .i 0x05 w (vxPairs ctx w fun a b => a + b) s

def execVsub64 (ctx : Nat) (w : VxWord) (s : State) : Host.Outcome State Fault Refusal :=
  vxRun ctx .i 0x06 w (vxPairs ctx w fun a b => a + 2 ^ 64 - b) s

def execVand (ctx : Nat) (w : VxWord) (s : State) : Host.Outcome State Fault Refusal :=
  vxRun ctx .i 0x07 w (vxMap2 ctx w fun a b s => plainLane (a &&& b) s) s

def execVor (ctx : Nat) (w : VxWord) (s : State) : Host.Outcome State Fault Refusal :=
  vxRun ctx .i 0x08 w (vxMap2 ctx w fun a b s => plainLane (a ||| b) s) s

def execVxor (ctx : Nat) (w : VxWord) (s : State) : Host.Outcome State Fault Refusal :=
  vxRun ctx .i 0x09 w (vxMap2 ctx w fun a b s => plainLane (a ^^^ b) s) s

/-- vsh: the count from IMM7[4:0], or from B where that is 0; a count of 32 or more has no stated result. -/
def shiftLane (imm a b : Nat) (s : State) : LaneOut :=
  let n := if imm % 32 = 0 then b else imm % 32
  if 31 < n || imm / 32 = 3 then freeLane s else plainLane (shift32 (imm / 32) n a) s

def execVsh (ctx : Nat) (w : VxWord) (s : State) : Host.Outcome State Fault Refusal :=
  vxRun ctx .i 0x0A w (vxMap2 ctx w fun a b s => shiftLane w.imm7.toNat a b s) s

/-- vsel writes every lane. -/
def vxSelect (c : Nat) (w : VxWord) (r : VxRegs) (s : State) : Issued :=
  let x := r.args w
  s.mapLanes c r w allLanes (fun i s => plainLane (if bit x.mask i then x.a.getD i 0 else x.b.getD i 0) s)

def execVsel (ctx : Nat) (w : VxWord) (s : State) : Host.Outcome State Fault Refusal := vxRun ctx .i 0x0B w (vxSelect ctx w) s

def vxPermute (c : Nat) (w : VxWord) (r : VxRegs) (s : State) : Issued :=
  let x := r.args w
  s.mapLanes c r w x.mask (fun i s => plainLane (x.a.getD (x.b.getD i 0 % 64) 0) s)

def execVperm (ctx : Nat) (w : VxWord) (s : State) : Host.Outcome State Fault Refusal := vxRun ctx .i 0x0C w (vxPermute ctx w) s

def vxBroadcast (c : Nat) (w : VxWord) (r : VxRegs) (s : State) : Issued :=
  let x := r.args w
  s.mapLanes c r w x.mask (fun _ s => plainLane (x.a.getD (w.imm7.toNat % 64) 0) s)

def execVbcast (ctx : Nat) (w : VxWord) (s : State) : Host.Outcome State Fault Refusal := vxRun ctx .i 0x0D w (vxBroadcast ctx w) s

def execVmovi (ctx : Nat) (w : VxWord) (s : State) : Host.Outcome State Fault Refusal :=
  vxRun ctx .i 0x0E w (vxMap2 ctx w fun _ _ s => plainLane (wrapBits 32 (vxImm14 w)) s) s

def execVcmp (ctx : Nat) (w : VxWord) (s : State) : Host.Outcome State Fault Refusal :=
  vxRun ctx .i 0x0F w (vxCompare ctx w fun a b s =>
    if 3 < w.imm7.toNat then freeLane s else boolLane (intCmp w.imm7.toNat a b) 0 s) s

/-- One packed lane: n values of `bits` bits, clamped symmetrically. -/
def packLane (width n : Nat) (a : List Nat) (i : Nat) : Nat × Nat :=
  let src := (List.range n).map fun k => sext 32 (a.getD (n * i + k) 0)
  let m : Int := 2 ^ (width - 1) - 1
  ((src.map (clampSym m)).foldr (fun v acc => wrapBits width v + 2 ^ width * acc) 0,
   if src.any fun v => clampSym m v != v then ffSaturation else 0)

/-- vpack: the lanes beyond the packed ones have no stated value. -/
def vxPack (c : Nat) (w : VxWord) (r : VxRegs) (s : State) : Issued :=
  let x := r.args w
  let width := w.imm7.toNat
  let n := 32 / max width 1
  let lane (i : Nat) (s : State) : LaneOut :=
    if (width = 8 ∨ width = 16) ∧ i < 64 / n then pureLane (packLane width n x.a i) s else freeLane s
  s.mapLanes c r w x.mask lane

def execVpack (ctx : Nat) (w : VxWord) (s : State) : Host.Outcome State Fault Refusal := vxRun ctx .i 0x10 w (vxPack ctx w) s

/-- vcrc: lane 0 of D is the CRC-32C register. -/
def vxCrc (c : Nat) (w : VxWord) (r : VxRegs) (s : State) : Issued :=
  match r.scalar w.d with
  | none => .stop exitIllegal s
  | some d => .go (s.writeVec c w.d.toNat (r.mask w.pred.toNat &&& 1) [crcRun polyC d ((r.vec w.a).flatMap (le 4))])

def execVcrc (ctx : Nat) (w : VxWord) (s : State) : Host.Outcome State Fault Refusal := vxRun ctx .i 0x11 w (vxCrc ctx w) s

/-- mop: 0 and, 1 or, 2 xor, 3 and-not. -/
def vxMop (c : Nat) (w : VxWord) (r : VxRegs) (s : State) : Issued :=
  let a := r.mask w.a.toNat
  let b := r.mask w.b.toNat
  let (v, s) : Nat × State :=
    match w.imm7.toNat with
    | 0 => (a &&& b, s)
    | 1 => (a ||| b, s)
    | 2 => (a ^^^ b, s)
    | 3 => (a &&& (allLanes - b), s)
    | _ => s.takeFree 64
  .go (s.writeMask c (w.d.toNat % 8) (r.mask w.pred.toNat) v)

def execMop (ctx : Nat) (w : VxWord) (s : State) : Host.Outcome State Fault Refusal := vxRun ctx .i 0x12 w (vxMop ctx w) s

/-! ### X slot: long accumulators -/

/-- x(D) ← f lane by lane. -/
def vxAcc (c : Nat) (w : VxWord) (f : Nat → AccLane → AccLane) (r : VxRegs) (s : State) : Issued :=
  let k := w.d.toNat % 4
  .go (s.writeAcc c k (r.mask w.pred.toNat) ((r.acc k).zipIdx.map fun (e : AccLane × Nat) => f e.2 e.1))

def execXclr (ctx : Nat) (w : VxWord) (s : State) : Host.Outcome State Fault Refusal :=
  vxRun ctx .x 0x01 w (vxAcc ctx w fun _ _ => { v := 0 }) s

/-- An exact addition: a sum outside the range wraps and sets XOVF (R264). -/
def AccLane.add (a : AccLane) (v : Int) : AccLane :=
  let (x, o) := accWrap (a.v + v)
  { a with v := x, ovf := a.ovf || o }

/-- Addition of a binary32 value; a NaN or infinity sets XNAN. -/
def AccLane.addFloat (a : AccLane) (sign : Int) (p : Nat) : AccLane :=
  if b32.isFinite p then a.add (sign * accOf p) else { a with nan := true }

def execXaddf (ctx : Nat) (w : VxWord) (s : State) : Host.Outcome State Fault Refusal :=
  vxRun ctx .x 0x02 w (fun r => vxAcc ctx w (fun i a => a.addFloat 1 ((r.vec w.a).getD i 0)) r) s

def execXsubf (ctx : Nat) (w : VxWord) (s : State) : Host.Outcome State Fault Refusal :=
  vxRun ctx .x 0x03 w (fun r => vxAcc ctx w (fun i a => a.addFloat (-1) ((r.vec w.a).getD i 0)) r) s

/-- xaddi and xaddu: the integer 1 sits at bit 149; a scale above 63 has no stated result. -/
def vxAddInt (c : Nat) (w : VxWord) (value : Nat → Int) (r : VxRegs) (s : State) : Issued :=
  let k := w.d.toNat % 4
  let mask := r.mask w.pred.toNat
  if 63 < w.imm7.toNat then
    let (l, s) := freeAcc mask 0 (r.acc k) s
    .go (s.writeAcc c k mask l)
  else vxAcc c w (fun i a => a.add (value ((r.vec w.a).getD i 0) * 2 ^ (149 + w.imm7.toNat))) r s

def execXaddi (ctx : Nat) (w : VxWord) (s : State) : Host.Outcome State Fault Refusal :=
  vxRun ctx .x 0x04 w (vxAddInt ctx w (sext 32)) s

def execXaddu (ctx : Nat) (w : VxWord) (s : State) : Host.Outcome State Fault Refusal :=
  vxRun ctx .x 0x05 w (vxAddInt ctx w fun v => (v : Int)) s

def execXaddx (ctx : Nat) (w : VxWord) (s : State) : Host.Outcome State Fault Refusal :=
  vxRun ctx .x 0x06 w (fun r => vxAcc ctx w (fun i a => a.add (((r.acc (w.a.toNat % 4)).getD i { v := 0 }).v)) r) s

/-- xrnd (R266). -/
def vxRound (c : Nat) (w : VxWord) (r : VxRegs) (s : State) : Issued :=
  let acc := r.acc (w.a.toNat % 4)
  let b := r.vec w.b
  let mode := w.imm7.toNat % 4
  let lane (i : Nat) (s : State) : LaneOut :=
    let a := acc.getD i { v := 0 }
    if a.ovf || a.nan then pureLane (nan32, ffInvalid) s
    else if mode = 3 then freeLane s
    else pureLane (accRound mode a.v (b.getD i 0 % 2 ^ 24)) s
  s.mapLanes c r w (r.mask w.pred.toNat) lane

def execXrnd (ctx : Nat) (w : VxWord) (s : State) : Host.Outcome State Fault Refusal := vxRun ctx .x 0x07 w (vxRound ctx w) s

/-- xrndl: a half of the int64; a lane with XOVF or XNAN, and the FF bits, have no stated value. -/
def vxRoundLong (c : Nat) (w : VxWord) (r : VxRegs) (s : State) : Issued :=
  let acc := r.acc (w.a.toNat % 4)
  let lane (i : Nat) (s : State) : LaneOut :=
    let a := acc.getD i { v := 0 }
    if a.ovf || a.nan || 1 < w.imm7.toNat then freeLane s
    else
      let (n, sat) := accInt a.v
      let v := wrapBits 64 n / 2 ^ (32 * w.imm7.toNat) % 2 ^ 32
      if sat then let (f, s) := s.takeFree 1; (v, f * ffSaturation, s) else (v, 0, s)
  s.mapLanes c r w (r.mask w.pred.toNat) lane

def execXrndl (ctx : Nat) (w : VxWord) (s : State) : Host.Outcome State Fault Refusal := vxRun ctx .x 0x08 w (vxRoundLong ctx w) s

/-- xflag: m(D) ← XOVF or XNAN of x(A). -/
def vxFlag (c : Nat) (w : VxWord) (r : VxRegs) (s : State) : Issued :=
  let k := w.a.toNat % 4
  let (v, s) : Nat × State :=
    match w.imm7.toNat with
    | 0 => ((r.xovf.getD k 0).toNat, s)
    | 1 => ((r.xnan.getD k 0).toNat, s)
    | _ => s.takeFree 64
  .go (s.writeMask c (w.d.toNat % 8) (r.mask w.pred.toNat) v)

def execXflag (ctx : Nat) (w : VxWord) (s : State) : Host.Outcome State Fault Refusal := vxRun ctx .x 0x09 w (vxFlag ctx w) s

/-! ### X slot: control -/

/-- A branch by IMM14 bundles when `taken`. -/
def vxBranch (w : VxWord) (taken : Bool) (s : State) : Issued := if taken then .jump (vxImm14 w) s else .go s

def execVxBr (ctx : Nat) (w : VxWord) (s : State) : Host.Outcome State Fault Refusal :=
  vxRun ctx .x 0x20 w (fun _ s => vxBranch w true s) s

def execBrany (ctx : Nat) (w : VxWord) (s : State) : Host.Outcome State Fault Refusal :=
  vxRun ctx .x 0x21 w (fun r s => vxBranch w (r.mask w.pred.toNat != 0) s) s

def execBrall (ctx : Nat) (w : VxWord) (s : State) : Host.Outcome State Fault Refusal :=
  vxRun ctx .x 0x22 w (fun r s => vxBranch w (r.mask w.pred.toNat == allLanes) s) s

/-- R261. -/
def vxPcyc (c : Nat) (w : VxWord) (r : VxRegs) (s : State) : Issued :=
  if r.pls = 0 then .go s
  else
    let plp := r.plp + 1
    let more := plp.toNat < r.pln.toNat + r.pls.toNat - 1
    let s := s.updRegs c fun g => { g with
      rot := g.rot + 1, plp := if more then plp else 0, pls := if more then g.pls else 0 }
    vxBranch w more s

def execPcyc (ctx : Nat) (w : VxWord) (s : State) : Host.Outcome State Fault Refusal := vxRun ctx .x 0x23 w (vxPcyc ctx w) s

def vxSetc (c : Nat) (w : VxWord) (r : VxRegs) (s : State) : Issued :=
  match r.scalar w.a with
  | none => .stop exitIllegal s
  | some v => .go (s.updRegs c fun g => g.setControl w.imm7.toNat v)

def execSetc (ctx : Nat) (w : VxWord) (s : State) : Host.Outcome State Fault Refusal := vxRun ctx .x 0x24 w (vxSetc ctx w) s

def vxGetc (c : Nat) (w : VxWord) (r : VxRegs) (s : State) : Issued :=
  if 64 ≤ w.d.toNat then .stop exitIllegal s
  else
    let (v, s) : Nat × State := match r.control w.imm7.toNat with | some v => (v, s) | none => s.takeFree 32
    .go (s.writeVec c w.d.toNat (r.mask w.pred.toNat &&& 1) [v])

def execGetc (ctx : Nat) (w : VxWord) (s : State) : Host.Outcome State Fault Refusal := vxRun ctx .x 0x25 w (vxGetc ctx w) s

/-- R279: a mask of 0 is an illegal instruction. -/
def vxWaits (c : Nat) (w : VxWord) (r : VxRegs) (s : State) : Issued :=
  match r.scalar w.a with
  | none => .stop exitIllegal s
  | some m => if m = 0 then .stop exitIllegal s else .go (s.updCtx c fun x => { x with wait := some (BitVec.ofNat 8 m) })

def execVxWait (ctx : Nat) (w : VxWord) (s : State) : Host.Outcome State Fault Refusal := vxRun ctx .x 0x26 w (vxWaits ctx w) s

/-- R283: a code above 0x7FFF_FFFF is an illegal instruction. -/
def vxHaltWord (w : VxWord) (r : VxRegs) (s : State) : Issued :=
  match r.scalar w.a with
  | none => .stop exitIllegal s
  | some v => if 0x7FFFFFFF < v then .stop exitIllegal s else .halt v s

def execVxHalt (ctx : Nat) (w : VxWord) (s : State) : Host.Outcome State Fault Refusal := vxRun ctx .x 0x27 w (vxHaltWord w) s

/-- The opcodes of each slot (R257). -/
def vxListed (slot : Nat) (op : Nat) : Bool :=
  op == 0 || match slot with
    | 0 => op ≤ 9
    | 1 => op ≤ 0x0C
    | 2 => op ≤ 0x12
    | _ => op ≤ 9 || (0x20 ≤ op && op ≤ 0x27)

end Sys2Proof.Machine
end

