-- ==== Sys2Proof/Machine/Clerks.lean ====
section
/-! DEFINITION. The clerks (R269–R277): registers and accumulators, moves and their addresses, block repeats, and the one word that
an instruction is. What each instruction computes stands in ClerkOps.lean. All operands are read, and pointers and stored
registers taken, before the instruction writes anything. -/
namespace Sys2Proof.Machine

/-! ### Registers and accumulators (R269–R271) -/

def Clerk.dn (c : Clerk) (i : Nat) : Nat := (c.d.getD i 0).toNat
/-- A data register as a signed integer. -/
def Clerk.di (c : Clerk) (i : Nat) : Int := (c.d.getD i 0).toInt
/-- An accumulator as a signed integer; the name is its low 2 bits. -/
def Clerk.ai (c : Clerk) (i : Nat) : Int := (c.a.getD (i % 4) 0).toInt
def Clerk.pn (c : Clerk) (i : Nat) : Nat := (c.p.getD i 0).toNat
def Clerk.truncates (c : Clerk) : Bool := c.mode.toNat % 2 == 1
def Clerk.saturates (c : Clerk) : Bool := bit c.mode.toNat 1

/-- R271: an accumulator result: wrapped or clamped outside 56 bits, with AOV. -/
def Clerk.setAcc (c : Clerk) (i : Nat) (v : Int) : Clerk :=
  let k := i % 4
  let ovf := clampBits 56 v != v
  { c with
    a := c.a.set k (BitVec.ofInt 56 (if c.saturates then clampBits 56 v else v))
    st := if ovf then c.st ||| BitVec.ofNat 16 (2 ^ (1 + k)) else c.st }

/-- What the compute part of an instruction writes: data registers, accumulators with their exact results, pointer registers
(0 p, 1 b, 2 l), SAT, and the flags zero, negative and carry. -/
structure ClerkOut where
  d : List (Nat × Nat) := []
  a : List (Nat × Int) := []
  ptr : List (Nat × Nat × Nat) := []
  sat : Bool := false
  flags : Option Nat := none
  deriving DecidableEq, Repr

/-- Where the clerk goes next. -/
inductive ClerkCtl where
  | next
  | branch (off : Int)
  | repeat_ (count last : Nat)
  | wait (mask : Nat)
  | halt
  | fault (exit : Nat)
  deriving DecidableEq, Repr

/-! ### Moves (R272–R275) -/

structure Move where
  store : Bool
  /-- bytes -/
  size : Nat
  reg : Nat
  ptr : Nat
  mode : Nat
  deriving DecidableEq, Repr

/-- A move slot: `none` where EN is 0. -/
def moveOf (m : BitVec 16) : Option Move :=
  let v := m.toNat
  if bit v 15 then
    some { store := bit v 14, size := [4, 2, 1, 0].getD (bits v 13 12) 0, reg := bits v 11 8, ptr := bits v 7 5, mode := bits v 4 2 }
  else none

/-- R276: a set reserved bit, or the reserved size. -/
def moveIllegal (m : BitVec 16) : Bool := bits m.toNat 1 0 != 0 || (bit m.toNat 15 && bits m.toNat 13 12 == 3)

/-- Where an access lies (Table — Clerk address map). -/
inductive ClerkPlace where
  | mem
  | bell (off : Nat)
  | signal (off : Nat)
  | window
  deriving DecidableEq, Repr

/-- The place of an access of n bytes at a; none outside the map, or at a misaligned address: an access fault. The channels of
system kernels are not the model's (notes/assumptions/30.md). -/
def State.clerkPlace (s : State) (n a size : Nat) : Option ClerkPlace :=
  let c := s.clerk n
  if a % size != 0 then none
  else if a < 0x40000 then some .mem
  else if 0xF00000 ≤ a && a < 0xF00040 && (c.system || (c.owner.bind fun h => s.doorbellOf h (a - 0xF00000)).isSome) then some (.bell (a - 0xF00000))
  else if 0xF00100 ≤ a && a < 0xF00104 then some (.signal (a - 0xF00100))
  else if c.system && 0xF00200 ≤ a && a < 0xF00300 then some .window
  else none

/-- log2 of a power of two; none for other numbers. -/
def exactLog2 (n : Nat) : Option Nat := if n = 2 ^ n.log2 && 0 < n then some n.log2 else none

/-- rev over k bits. -/
def revBits (k v : Nat) : Nat := ((List.range k).map fun i => if bit v i then 2 ^ (k - 1 - i) else 0).sum

/-- b + ((v − b) mod l). -/
def ringWrap (b l : Nat) (v : Int) : Int := b + (v - b) % (l : Int)

/-- Mode 5: the next address in bit-reversed order; none where the ring does not allow it. -/
def bitReversed (b l size p : Nat) : Option Int :=
  if l < 2 * size then none
  else (exactLog2 l).map fun k =>
    let w := k - size.log2
    let i := (((p : Int) - b) % 2 ^ 24).toNat / size
    (b : Int) + size * revBits w ((revBits w i + 1) % 2 ^ w)

/-- R274: the pointer after the move; none is an access fault. -/
def Clerk.modified (c : Clerk) (m : Move) : Option (BitVec 24) :=
  let p : Int := c.pn m.ptr
  let b := (c.b.getD m.ptr 0).toNat
  let l := (c.l.getD m.ptr 0).toNat
  let step := c.di (8 + m.ptr)
  let r : Option Int :=
    match m.mode with
    | 0 => some p
    | 1 => some (p + m.size)
    | 2 => some (p - m.size)
    | 3 => some (if l = 0 then p + m.size else ringWrap b l (p + m.size))
    | 4 => some (if l = 0 then p - m.size else ringWrap b l (p - m.size))
    | 5 => bitReversed b l m.size (c.pn m.ptr)
    | 6 => some (p + step)
    | _ => some (if l = 0 then p + step else ringWrap b l (p + step))
  r.map (BitVec.ofInt 24)

/-- R273: the bytes that a store of register value v writes. -/
def moveBytes (size v : Nat) : List Byte :=
  match size with
  | 4 => le 3 v ++ [if bit v 23 then 0xFF else 0]
  | 2 => le 2 (v / 2 ^ 8)
  | _ => le 1 (v / 2 ^ 16)

/-- R273: the register value that loaded bytes give. -/
def moveValue (size : Nat) (b : List Byte) : Nat :=
  match size with
  | 4 => leNat 3 b
  | 2 => leNat 2 b * 2 ^ 8
  | _ => leNat 1 b * 2 ^ 16

/-- A load: the value, and whether a byte is uncorrectable. What SIGNAL, a system window or a system kernel's doorbell reads
as is not stated. -/
def State.clerkLoad (n : Nat) (m : Move) (s : State) : Nat × Bool × State :=
  let a := (s.clerk n).pn m.ptr
  match s.clerkPlace n a m.size with
  | some .mem =>
    let (b, bad, s) := s.readClerk n a m.size
    (moveValue m.size b, bad, s)
  | some (.bell o) =>
    match (s.clerk n).owner.bind fun h => s.doorbellOf h o with
    | some (ch, k) => (moveValue m.size ((s.dmaCh ch).doorbellBytes.drop k), false, s)
    | none => let (v, s) := s.takeFree 24; (v, false, s)
  | _ => let (v, s) := s.takeFree 24; (v, false, s)

/-- SIGNAL (R272): bit i of the bytes written, at their place, raises event 16 + i on clerk i of the kernel. -/
def State.signal (n o : Nat) (b : List Byte) (s : State) : State :=
  let v := leNat 4 b * 2 ^ (8 * o)
  ((s.kernelClerks n).zipIdx).foldl (fun (s : State) (e : Nat × Nat) =>
    if bit v e.2 then s.updClerk e.1 fun c => { c with evt := c.evt ||| BitVec.ofNat 32 (2 ^ (16 + e.2)) } else s) s

/-- A store of register value v at address a. -/
def State.clerkStore (n a size v : Nat) (s : State) : State :=
  let b := moveBytes size v
  match s.clerkPlace n a size with
  | some .mem => (b.zipIdx).foldl (fun (s : State) (e : Byte × Nat) => s.writeClerkByte n (a + e.2) e.1.toNat) s
  | some (.bell o) =>
    match (s.clerk n).owner.bind fun h => s.doorbellOf h o with
    | some (ch, k) => s.doorbellWrite ch k b
    | none => s
  | some (.signal o) => s.signal n o b
  | _ => s

/-! ### Both moves of an instruction -/

/-- Why a move cannot be made. -/
def State.moveFault (s : State) (n : Nat) (m : Option Move) : Bool :=
  match m with
  | none => false
  | some m => (s.clerkPlace n ((s.clerk n).pn m.ptr) m.size).isNone || ((s.clerk n).modified m).isNone

/-- Byte ranges of two moves share a byte. -/
def Clerk.movesMeet (c : Clerk) (x y : Move) : Bool :=
  c.pn x.ptr < c.pn y.ptr + y.size && c.pn y.ptr < c.pn x.ptr + x.size

/-- R275: the two moves address the two banks, or stall one cycle. -/
def Clerk.bankStall (c : Clerk) (x y : Option Move) : Bool :=
  match x, y with
  | some x, some y =>
    let a := c.pn x.ptr
    let b := c.pn y.ptr
    !((a < 0x20000 && 0x20000 ≤ b && b < 0x40000) || (b < 0x20000 && 0x20000 ≤ a && a < 0x40000))
  | _, _ => false

/-- The loads of an instruction: register and value. A load that meets the other slot's store has no stated value. -/
def State.clerkLoads (n : Nat) (x y : Option Move) (s : State) : List (Nat × Nat) × Bool × State :=
  let one (m other : Option Move) (s : State) : List (Nat × Nat) × Bool × State :=
    match m with
    | some m =>
      if m.store then ([], false, s)
      else
        let (v, bad, s) := s.clerkLoad n m
        let meets := match other with | some o => o.store && (s.clerk n).movesMeet m o | none => false
        let (v, s) := if meets then s.takeFree 24 else (v, s)
        ([(m.reg, v)], bad, s)
    | none => ([], false, s)
  let (a, p, s) := one x y s
  let (b, q, s) := one y x s
  (a ++ b, p || q, s)

/-- Registers written more than once by an instruction take no stated value. -/
def settleWrites (w : Nat) : List (Nat × Nat) → State → List (Nat × Nat) × State
  | [], s => ([], s)
  | (r, v) :: t, s =>
    let (l, s) := settleWrites w t s
    if l.any fun (e : Nat × Nat) => e.1 == r then
      let (f, s) := s.takeFree w
      (l.map fun (e : Nat × Nat) => if e.1 == r then (r, f) else e, s)
    else ((r, v) :: l, s)

/-- The stores of an instruction: addresses, sizes and register values as they were before it. -/
def Clerk.stores (c : Clerk) (x y : Option Move) : List (Nat × Nat × Nat) :=
  [x, y].filterMap fun m => m.bind fun m => if m.store then some (c.pn m.ptr, m.size, c.dn m.reg) else none

/-- Both stores; a byte of data memory that both write has no stated value. -/
def State.clerkStores (n : Nat) (l : List (Nat × Nat × Nat)) (s : State) : State :=
  let s := l.foldl (fun (s : State) (e : Nat × Nat × Nat) => s.clerkStore n e.1 e.2.1 e.2.2) s
  match l with
  | [x, y] =>
    ((List.range x.2.1).map (x.1 + ·)).foldl (fun (s : State) a =>
      if y.1 ≤ a && a < y.1 + y.2.1 && a < 0x40000 then
        let (v, s) := s.takeFree 8
        s.writeClerkByte n a v
      else s) s
  | _ => s

/-- Pointer writes: those of the instruction, then of the moves (mode 0 leaves the pointer alone). -/
def Clerk.ptrWrites (c : Clerk) (x y : Option Move) : List (Nat × Nat) :=
  [x, y].filterMap fun m => m.bind fun m => if m.mode = 0 then none else (c.modified m).map fun v => (m.ptr, v.toNat)

/-! ### Block repeats (R277) -/

/-- The instruction at `last` has run: the innermost block that ends there loops, or passes to the next outer one. Blocks innermost
first. -/
def repStep (pc : Nat) : List RepBlock → Nat × List RepBlock
  | [] => (pc + 1, [])
  | b :: t =>
    if b.last = pc then (if 1 < b.left then (b.first, { b with left := b.left - 1 } :: t) else repStep pc t)
    else (pc + 1, b :: t)

/-- A branch from `pc` to `t` enters a block of the program from outside it. -/
def entersBlock (prog : Mem (BitVec 64)) (pc t : Nat) : Bool :=
  prog.any fun (e : Nat × BitVec 64) =>
    let n := e.2.toNat
    let inside (i : Nat) : Bool := e.1 < i && i ≤ e.1 + n / 2 ^ 32 % 4096
    n / 2 ^ 56 == 0x20 && inside t && !inside pc

/-- The clerk moves on: none is a nest fault. -/
def Clerk.advance (c : Clerk) (ctl : ClerkCtl) : Option Clerk :=
  let go (e : Nat × List RepBlock) : Clerk :=
    let reps := e.2.reverse
    { c with
      pc := e.1 % 16384, reps := reps
      lc := (List.range 4).map fun k => BitVec.ofNat 17 ((reps[k]?.map RepBlock.left).getD 0) }
  match ctl with
  | .branch off =>
    let t := ((c.pc + off) % 16384).toNat
    if entersBlock c.prog c.pc t then none
    else some (go (t, (c.reps.takeWhile fun b => b.first ≤ t && t ≤ b.last).reverse))
  | .repeat_ count last =>
    let tooFar := match c.reps.getLast? with | some b => b.last < last | none => false
    if 4 ≤ c.reps.length || tooFar then none
    else if count = 0 || last ≤ c.pc then some (go (repStep (max last c.pc) c.reps.reverse))
    else some (go (c.pc + 1, { first := c.pc + 1, last := last, left := count } :: c.reps.reverse))
  | _ => some (go (repStep c.pc c.reps.reverse))

/-! ### One word -/

/-- The 64 bits of a word (R275). -/
def clerkEncode (op : Nat) (w : ClerkWord) : Nat :=
  op * 2 ^ 56 + w.dst.toNat * 2 ^ 52 + w.s1.toNat * 2 ^ 48 + w.s2.toNat * 2 ^ 44 + w.imm.toNat * 2 ^ 32 + w.mx.toNat * 2 ^ 16 + w.my.toNat

/-- The word is its clerk's next. The programs of system kernels are the Teller's, and their words come with their commands. -/
def State.clerkNext (s : State) (n op : Nat) (w : ClerkWord) : Bool :=
  let c := s.clerk n
  !s.teller.safe && n < 16 && c.running && !c.waiting && !s.overLimit (.clerk n)
    && (c.system || (Memory.get 0 c.prog c.pc).toNat == clerkEncode op w)

/-- The registers an instruction writes. -/
def Clerk.apply (c : Clerk) (o : ClerkOut) (d p : List (Nat × Nat)) : Clerk :=
  let c := o.a.foldl (fun (c : Clerk) (e : Nat × Int) => c.setAcc e.1 e.2) c
  let bl (kind : Nat) (l : List (BitVec 24)) : List (BitVec 24) :=
    o.ptr.foldl (fun (l : List (BitVec 24)) (e : Nat × Nat × Nat) => if e.1 = kind then l.set e.2.1 (BitVec.ofNat 24 e.2.2) else l) l
  let put (l : List (BitVec 24)) (ws : List (Nat × Nat)) : List (BitVec 24) :=
    ws.foldl (fun (l : List (BitVec 24)) (e : Nat × Nat) => l.set e.1 (BitVec.ofNat 24 e.2)) l
  let st := if o.sat then c.st ||| 1 else c.st
  { c with
    d := put c.d d, p := put c.p p, b := bl 1 c.b, l := bl 2 c.l
    st := match o.flags with | some f => st &&& 0xF8FF ||| BitVec.ofNat 16 (f * 256) | none => st }

/-- A clerk halts; the last of its kernel ends the run (R282). -/
def State.clerkHalts (n : Nat) (s : State) : State :=
  let s := s.updClerk n fun c => { c with running := false, halted := true }
  match (s.clerk n).owner with
  | none => s
  | some h =>
    match s.kernel? h with
    | none => s
    | some k =>
      let s := if k.clerks.head? = some n then s.updKernel h fun k => { k with exit := BitVec.ofNat 32 ((s.clerk n).dn 0) } else s
      if k.clerks.all fun m => (s.clerk m).halted then s.finishRun h else s

/-- How long an instruction takes beside one cycle, and the accumulators it leaves in flight (R275, R276). -/
structure ClerkTiming where
  extra : Nat := 0
  uses : List Nat := []
  hot : List Nat := []
  deriving DecidableEq, Repr

/-- One instruction word: `f` gives what it computes and where the clerk goes, from the clerk as it was. -/
def State.clerkWord (n op : Nat) (w : ClerkWord) (t : ClerkTiming) (f : Clerk → State → ClerkOut × ClerkCtl × State) (s : State) : State :=
  if !s.clerkNext n op w then s
  else
  let (got, s) := s.fetchClerk n
  if !got then s.clerkFault n exitUncorr
  else if moveIllegal w.mx || moveIllegal w.my then s.clerkFault n exitIllegal
  else
    let c := s.clerk n
    let x := moveOf w.mx
    let y := moveOf w.my
    let (o, ctl, s) := f c s
    match ctl with
    | .fault e => s.clerkFault n e
    | _ =>
      if s.moveFault n x || s.moveFault n y then s.clerkFault n exitAccess
      else
        let (loads, bad, s) := s.clerkLoads n x y
        if bad then s.clerkFault n exitUncorr
        else
          let (d, s) := settleWrites 24 (o.d ++ loads) s
          let pw := (o.ptr.filterMap fun (e : Nat × Nat × Nat) => if e.1 = 0 then some e.2 else none) ++ c.ptrWrites x y
          let (p, s) := settleWrites 24 pw s
          match (c.apply o d p).advance ctl with
          | none => s.clerkFault n exitNest
          | some c' =>
            let stall := flagBit (t.uses.any c.hot.contains) 0 + flagBit (c.bankStall x y) 0
            let taken := match ctl with | .branch _ => 2 | _ => 0
            let s := s.updClerk n fun old => { c' with
              mem := old.mem, evt := old.evt, hot := t.hot, cyc := c.cyc + BitVec.ofNat 48 (1 + t.extra + stall + taken) }
            let s := s.clerkStores n (c.stores x y)
            match ctl with
            | .wait m => s.updClerk n fun c => { c with waiting := true, evm := BitVec.ofNat 32 m }
            | .halt => s.clerkHalts n
            | _ => s

end Sys2Proof.Machine
end

