-- ==== Sys2Proof/Machine/ClerkOps.lean ====
section
/-! DEFINITION. The clerk instructions (R276): one meaning per row, each one word run by `State.clerkWord`, and the words that no
row lists. -/
namespace Sys2Proof.Machine

/-- One command of a clerk. -/
def clerkRun (n op : Nat) (w : ClerkWord) (t : ClerkTiming) (f : Clerk → State → ClerkOut × ClerkCtl × State) (s : State) :
    Host.Outcome State Fault Refusal := settleFlags s (s.clerkWord n op w t f)

/-- A computation that leaves nothing open and goes on. -/
def compute (f : Clerk → ClerkOut) (c : Clerk) (s : State) : ClerkOut × ClerkCtl × State := (f c, .next, s)

/-- d(r) takes no stated value. -/
def freeData (r : Nat) (s : State) : ClerkOut × ClerkCtl × State :=
  let (v, s) := s.takeFree 24
  ({ d := [(r, v)] }, .next, s)

/-- A signed result in d(r), wrapped, or saturated with SAT. -/
def dataOut (r : Nat) (saturate : Bool) (v : Int) : ClerkOut :=
  if saturate then { d := [(r, wrapBits 24 (clampBits 24 v))], sat := clampBits 24 v != v } else { d := [(r, wrapBits 24 v)] }

def optFlag (w : ClerkWord) : Bool := bit w.imm.toNat 0
def accD (w : ClerkWord) : Nat := w.dst.toNat % 4
def accS (w : ClerkWord) : Nat := w.s1.toNat % 4

/-- The exact product of two Q1.23 values in accumulator units (R270). -/
def product (a b : Int) : Int := a * b * 4

def execClerkNop (n : Nat) (w : ClerkWord) (s : State) : Host.Outcome State Fault Refusal :=
  clerkRun n 0x00 w {} (compute fun _ => {}) s

def macOut (w : ClerkWord) (c : Clerk) : ClerkOut :=
  let p := product (c.di w.s1.toNat) (c.di w.s2.toNat)
  { a := [(accD w, if optFlag w then c.ai (accD w) - p else c.ai (accD w) + p)] }

def execMac (n : Nat) (w : ClerkWord) (s : State) : Host.Outcome State Fault Refusal :=
  clerkRun n 0x01 w { hot := [accD w] } (compute (macOut w)) s

def execMpy (n : Nat) (w : ClerkWord) (s : State) : Host.Outcome State Fault Refusal :=
  clerkRun n 0x02 w { hot := [accD w] } (compute fun c => { a := [(accD w, product (c.di w.s1.toNat) (c.di w.s2.toNat))] }) s

/-- cmac: odd registers have no stated result. -/
def cmacOut (w : ClerkWord) (c : Clerk) (s : State) : ClerkOut × ClerkCtl × State :=
  let k := accD w
  let l := (k + 1) % 4
  if w.dst.toNat % 2 = 1 || w.s1.toNat % 2 = 1 || w.s2.toNat % 2 = 1 then
    let (u, s) := s.takeFree 56
    let (v, s) := s.takeFree 56
    ({ a := [(k, sext 56 u), (l, sext 56 v)] }, .next, s)
  else
    let r1 := c.di w.s1.toNat
    let i1 := c.di (w.s1.toNat + 1)
    let r2 := c.di w.s2.toNat
    let i2 := if optFlag w then -c.di (w.s2.toNat + 1) else c.di (w.s2.toNat + 1)
    ({ a := [(k, c.ai k + product r1 r2 - product i1 i2), (l, c.ai l + product r1 i2 + product i1 r2)] }, .next, s)

def execCmac (n : Nat) (w : ClerkWord) (s : State) : Host.Outcome State Fault Refusal :=
  clerkRun n 0x03 w { extra := 1, uses := [accD w, (accD w + 1) % 4] } (cmacOut w) s

/-- R271. -/
def rndOut (w : ClerkWord) (c : Clerk) : ClerkOut :=
  let a := c.ai (accS w)
  dataOut w.dst.toNat true (if c.truncates then a / 2 ^ 25 else rhe a 25)

def execRnd (n : Nat) (w : ClerkWord) (s : State) : Host.Outcome State Fault Refusal :=
  clerkRun n 0x04 w { uses := [accS w] } (compute (rndOut w)) s

/-- mva: 0 l, 1 h, 2 g sign-extended. -/
def mvaOut (w : ClerkWord) (c : Clerk) (s : State) : ClerkOut × ClerkCtl × State :=
  let a := (c.a.getD (accS w) 0).toNat
  let r := w.dst.toNat
  match w.imm.toNat % 4 with
  | 0 => ({ d := [(r, a % 2 ^ 24)] }, .next, s)
  | 1 => ({ d := [(r, a / 2 ^ 24 % 2 ^ 24)] }, .next, s)
  | 2 => ({ d := [(r, wrapBits 24 (sext 8 (a / 2 ^ 48)))] }, .next, s)
  | _ => freeData r s

def execMva (n : Nat) (w : ClerkWord) (s : State) : Host.Outcome State Fault Refusal :=
  clerkRun n 0x05 w { uses := [accS w] } (mvaOut w) s

def execAdda (n : Nat) (w : ClerkWord) (s : State) : Host.Outcome State Fault Refusal :=
  clerkRun n 0x06 w { uses := [accD w, accS w] } (compute fun c => { a := [(accD w, c.ai (accD w) + c.ai (accS w))] }) s

def execSuba (n : Nat) (w : ClerkWord) (s : State) : Host.Outcome State Fault Refusal :=
  clerkRun n 0x07 w { uses := [accD w, accS w] } (compute fun c => { a := [(accD w, c.ai (accD w) - c.ai (accS w))] }) s

/-- asha: counts beyond 56 have no stated result. -/
def ashaOut (w : ClerkWord) (c : Clerk) (s : State) : ClerkOut × ClerkCtl × State :=
  let k := w.imm.toInt
  let a := c.ai (accS w)
  if 56 < k.natAbs then
    let (v, s) := s.takeFree 56
    ({ a := [(accD w, sext 56 v)] }, .next, s)
  else
    let left := if Config.ashaLeft then 0 ≤ k else k < 0
    ({ a := [(accD w, if left then a * 2 ^ k.natAbs else a / 2 ^ k.natAbs)] }, .next, s)

def execAsha (n : Nat) (w : ClerkWord) (s : State) : Host.Outcome State Fault Refusal :=
  clerkRun n 0x08 w { uses := [accS w] } (ashaOut w) s

def execClr (n : Nat) (w : ClerkWord) (s : State) : Host.Outcome State Fault Refusal :=
  clerkRun n 0x09 w {} (compute fun _ => { a := [(accD w, 0)] }) s

def execClerkAdd (n : Nat) (w : ClerkWord) (s : State) : Host.Outcome State Fault Refusal :=
  clerkRun n 0x0A w {} (compute fun c => dataOut w.dst.toNat (optFlag w) (c.di w.s1.toNat + c.di w.s2.toNat)) s

def execClerkSub (n : Nat) (w : ClerkWord) (s : State) : Host.Outcome State Fault Refusal :=
  clerkRun n 0x0B w {} (compute fun c => dataOut w.dst.toNat (optFlag w) (c.di w.s1.toNat - c.di w.s2.toNat)) s

/-- logic: 0 and, 1 or, 2 xor, 3 not d(S1). -/
def logicOut (w : ClerkWord) (c : Clerk) : ClerkOut :=
  let a := c.d.getD w.s1.toNat 0
  let b := c.d.getD w.s2.toNat 0
  let v := match w.imm.toNat % 4 with
    | 0 => a &&& b
    | 1 => a ||| b
    | 2 => a ^^^ b
    | _ => ~~~ a
  { d := [(w.dst.toNat, v.toNat)] }

def execLogic (n : Nat) (w : ClerkWord) (s : State) : Host.Outcome State Fault Refusal := clerkRun n 0x0C w {} (compute (logicOut w)) s

/-- sh: 0 shl, 1 shr, 2 sra; counts beyond 23 have no stated result. -/
def shOut (w : ClerkWord) (c : Clerk) (s : State) : ClerkOut × ClerkCtl × State :=
  let k := w.imm.toNat % 32
  let kind := w.imm.toNat / 32 % 4
  let v := c.dn w.s1.toNat
  let r := w.dst.toNat
  if 23 < k || kind = 3 then freeData r s
  else
    let x := match kind with
      | 0 => v * 2 ^ k % 2 ^ 24
      | 1 => v / 2 ^ k
      | _ => wrapBits 24 (c.di w.s1.toNat / 2 ^ k)
    ({ d := [(r, x)] }, .next, s)

def execSh (n : Nat) (w : ClerkWord) (s : State) : Host.Outcome State Fault Refusal := clerkRun n 0x0D w {} (shOut w) s

def execLdi (n : Nat) (w : ClerkWord) (s : State) : Host.Outcome State Fault Refusal :=
  clerkRun n 0x0E w {} (compute fun _ => { d := [(w.dst.toNat, wrapBits 24 w.imm.toInt)] }) s

def execLdh (n : Nat) (w : ClerkWord) (s : State) : Host.Outcome State Fault Refusal :=
  clerkRun n 0x0F w {} (compute fun c => { d := [(w.dst.toNat, w.imm.toNat * 4096 + c.dn w.dst.toNat % 4096)] }) s

/-- mvp: p, b or l, either way; for the fourth selector the register is not stated. -/
def mvpOut (w : ClerkWord) (c : Clerk) (s : State) : ClerkOut × ClerkCtl × State :=
  let v := w.imm.toNat
  let kind := bits v 5 4
  let i := v % 8
  let back := bit v 3
  if kind = 3 then
    if back then freeData w.s1.toNat s
    else
      let (k, s) := s.takeFree 2
      ({ ptr := if k = 3 then [] else [(k, i, c.dn w.s1.toNat)] }, .next, s)
  else if back then
    let l := match kind with | 0 => c.p | 1 => c.b | _ => c.l
    ({ d := [(w.s1.toNat, (l.getD i 0).toNat)] }, .next, s)
  else ({ ptr := [(kind, i, c.dn w.s1.toNat)] }, .next, s)

def execMvp (n : Nat) (w : ClerkWord) (s : State) : Host.Outcome State Fault Refusal := clerkRun n 0x10 w {} (mvpOut w) s

/-- cmp: zero and negative of the difference. The carry's sense is not stated, nor whether negative is the exact difference's or the
wrapped one's. -/
def cmpOut (w : ClerkWord) (c : Clerk) (s : State) : ClerkOut × ClerkCtl × State :=
  let v := c.di w.s1.toNat - c.di w.s2.toNat
  let (f, s) := s.takeFree 2
  let wrapped := bit (wrapBits 24 v) 23
  let neg := if wrapped == decide (v < 0) then wrapped else bit f 0
  ({ flags := some (flagBit (v == 0) 0 + flagBit neg 1 + flagBit (bit f 1) 2) }, .next, s)

def execCmp (n : Nat) (w : ClerkWord) (s : State) : Host.Outcome State Fault Refusal := clerkRun n 0x11 w {} (cmpOut w) s

/-- Redundant sign bits of a 56-bit value. -/
def redundantSigns (a : Int) : Nat := 55 - (let m := (if a < 0 then -a - 1 else a).toNat; if m = 0 then 0 else m.log2 + 1)

def execNorm (n : Nat) (w : ClerkWord) (s : State) : Host.Outcome State Fault Refusal :=
  clerkRun n 0x12 w { uses := [accS w] } (compute fun c => { d := [(w.dst.toNat, redundantSigns (c.ai (accS w)))] }) s

/-- neg: saturating; IMM[0] gives the absolute value. -/
def negOut (w : ClerkWord) (c : Clerk) : ClerkOut :=
  let v := c.di w.s1.toNat
  dataOut w.dst.toNat true (if optFlag w && 0 ≤ v then v else -v)

def execNeg (n : Nat) (w : ClerkWord) (s : State) : Host.Outcome State Fault Refusal := clerkRun n 0x13 w {} (compute (negOut w)) s

/-- rep: a count above 65,535 has no stated number of passes. -/
def repOut (w : ClerkWord) (c : Clerk) (s : State) : ClerkOut × ClerkCtl × State :=
  let v := c.dn w.s1.toNat
  let (k, s) := if 65535 < v then s.takeFree 16 else (v, s)
  ({}, .repeat_ k (c.pc + w.imm.toNat), s)

def execRep (n : Nat) (w : ClerkWord) (s : State) : Host.Outcome State Fault Refusal := clerkRun n 0x20 w {} (repOut w) s

/-- br: 0 always, 1 zero, 2 not zero, 3 negative, 4 not negative; other conditions are not stated. -/
def brOut (w : ClerkWord) (c : Clerk) (s : State) : ClerkOut × ClerkCtl × State :=
  let z := bit c.st.toNat 8
  let m := bit c.st.toNat 9
  let (taken, s) : Bool × State :=
    match w.dst.toNat with
    | 0 => (true, s)
    | 1 => (z, s)
    | 2 => (!z, s)
    | 3 => (m, s)
    | 4 => (!m, s)
    | _ => let (v, s) := s.takeFree 1; (v == 1, s)
  ({}, if taken then .branch w.imm.toInt else .next, s)

def execClerkBr (n : Nat) (w : ClerkWord) (s : State) : Host.Outcome State Fault Refusal := clerkRun n 0x21 w {} (brOut w) s

/-- R279: a mask of 0 is an illegal instruction. -/
def waitOut (w : ClerkWord) (c : Clerk) (s : State) : ClerkOut × ClerkCtl × State :=
  let m := c.dn w.s1.toNat
  ({}, if m = 0 then .fault exitIllegal else .wait m, s)

def execClerkWait (n : Nat) (w : ClerkWord) (s : State) : Host.Outcome State Fault Refusal := clerkRun n 0x22 w {} (waitOut w) s

def execClerkHalt (n : Nat) (w : ClerkWord) (s : State) : Host.Outcome State Fault Refusal :=
  clerkRun n 0x23 w {} (fun _ s => ({}, .halt, s)) s

/-! ### Words that no row lists (R257, R276) -/

/-- The opcodes of Table — Clerk instructions. -/
def clerkListed (op : Nat) : Bool := op ≤ 0x13 || (0x20 ≤ op && op ≤ 0x23)

/-- The next word of an engine is illegal. The words of the formatter and of system kernels are not the model's. -/
def State.nextIllegal (s : State) : Engine → Bool
  | .vx c =>
    let x := s.ctx c
    c = 0 || (x.wait.isNone && !vxListed x.slot (s.vxSlotWord x.slot / 2 ^ 31 % 64))
  | .clerk n =>
    let c := s.clerk n
    let v := (Memory.get 0 c.prog c.pc).toNat
    c.system || (!c.waiting && (!clerkListed (v / 2 ^ 56) || moveIllegal (BitVec.ofNat 16 (v / 2 ^ 16)) || moveIllegal (BitVec.ofNat 16 v)))

def execIllegalInstruction (e : Engine) (s : State) : Host.Outcome State Fault Refusal :=
  settleFlags s (
    if !s.teller.safe && s.engineRuns e && !s.overLimit e && s.nextIllegal e then s.engineFault e exitIllegal else s)

end Sys2Proof.Machine
end

