-- ==== Sys2Proof/Machine/CmdTime.lean ====
section
/-! DEFINITION. TIME_SET, TIME_ADJUST and TIME_STATUS (R399–R401, R422). -/
namespace Sys2Proof.Machine

/-- R399, R422: the voted time becomes t at commit; PPS_OFFSET and SLEW_LEFT clear; LOCKED becomes ACQUIRE. -/
def Tk.setAtCommit (k : Tk) (t : Nat) : Tk :=
  let k' := { (k.move ((t : Int) - (k.now : Int))).setCnt (t * 2 ^ 48) with ppsOffset := 0, slewLeft := 0 }
  if k'.state == .locked then k'.toAcquire else k'

def timeSetBody (p : Pkt) (s : State) : Body :=
  let mode := u8 p.b 16
  let t? := fullOf p.b 24
  { words := 10, deferred := true
    checks := [
      p.noTarget, p.reserved [(17, 7)], failIf (mode > 1 || t?.isNone) stParam,
      failIf (s.timeBusy || s.tk.setWait.isSome) stState]
    effect := fun u =>
      if mode = 1 then (u.stepTk fun k => k.setAtCommit (t?.getD 0), {}, .final {})
      else (u.updTk fun k => { k with setWait := t? }, {}, .wait .timeSet) }

def execTimeSet (src : Source) (s : State) : Host.Outcome State Fault Refusal :=
  settleFlags s (runOp 0x50 timeSetBody src true .failed s)

/-- R400, R414, R422. -/
def timeAdjustBody (p : Pkt) (s : State) : Body :=
  let kind := u8 p.b 16
  let v := sext 64 (u64 p.b 24)
  { words := 8
    checks := [
      p.noTarget, p.reserved [(17, 7)],
      failIf (kind > 2) stParam,
      failIf (kind == 0 && (s.tk.slewLeft + v * 1000000).natAbs > tickMs * 1000000) stParam,
      failIf (kind == 2 && v.natAbs > 10000000000000) stParam,
      failIf (kind == 1 && s.timeBusy) stState]
    effect := okWith fun u => u.stepTk fun k =>
      match kind with
      | 0 => { k with slewLeft := k.slewLeft + v * 1000000 }
      | 1 => { k.move v with ppsOffset := k.ppsOffset + v * 1000000 }
      | _ => { k with yHost := v } }

def execTimeAdjust (src : Source) (s : State) : Host.Outcome State Fault Refusal :=
  settleFlags s (runOp 0x51 timeAdjustBody src true .failed s)

/-- R401: the record goes out from the ring with both DEST fields set, and always from SPI; the reply words stand in
every case. -/
def timeStatusBody (p : Pkt) (s : State) : Body :=
  let a := u64 p.b 16
  let n := u32 p.b 24
  let words (omitted : Bool) : Res :=
    if omitted then { status := stFault, r0 := 3 }
    else { r0 := s.tk.state.code, r1 := s.uTotal, r2 := s.tk.lastPps.toNat % 2 ^ 32 }
  { words := 8
    checks := [
      p.noTarget, p.reserved [(28, 4)],
      match p.src with
      | .ring => if a = 0 && n = 0 then none else failIf (a == 0 || n == 0 || a % 64 != 0 || n % 4 != 0) stParam
      | _ => failIf (a != 0 || n != 0) stParam]
    effect := fun u =>
      if p.src == .spi || a ≠ 0 then
        let (u', _, _, failed) := p.deliver 16 24 s.timeRecord u
        (u', words failed, .done)
      else (u, words false, .done) }

def execTimeStatus (src : Source) (wr : Bool) (s : State) : Host.Outcome State Fault Refusal :=
  settleFlags s (runOp 0x52 timeStatusBody src wr .failed s)

end Sys2Proof.Machine
end

