-- ==== Sys2Proof/Machine/Lifecycle.lean ====
section
/-! DEFINITION. The commands that rebind, free, retire and reset what products stand on: EGRESS_SET (R87, R88, R372), DESTROY (R342,
R345, R388), RETIRE (R302, R303, R406) and RESET_UNIT (R366, R477). -/
namespace Sys2Proof.Machine

/-! ### EGRESS_SET -/

/-- Bytes of the largest record of a handle, and the lane it is bound to. -/
def Obj.bound : Obj → Option (Nat × Nat)
  | .xprod x => some (x.egress, x.recBytes)
  | .beam b => some (b.egress, b.recBytes)
  | .capture c => c.reading.bind fun r => if bit r.flags.toNat 0 then some (r.port, 8256) else none
  | _ => none

/-- Live handles whose records go out on a lane. -/
def State.boundHandles (s : State) (lane : Nat) : List Entry :=
  s.handles.live.filter fun e => match e.obj.bound with | some b => b.1 == lane | none => false

/-- Wire load of a lane (R88). -/
def State.wireOf (s : State) (lane : Nat) : Frac :=
  let t := s.totals s.sizing 0 s.poolSizes.1 s.poolSizes.2
  match t.wire.find? fun (e : Nat × Frac) => e.1 == lane with
  | some e => e.2
  | none => s.captureWire lane

/-- The port's parameters from the packet. -/
def egressParams (b : List Byte) (e : Egress) : Egress :=
  { e with
    tagged := bit (u8 b 18) 0, checksum := bit (u8 b 18) 1, dscp := BitVec.ofNat 6 (u8 b 19), ttl := u8 b 20
    tci := BitVec.ofNat 16 (u16 b 22), dstMac := slice b 24 6, srcMac := slice b 30 6, srcIp := slice b 36 4, dstIp := slice b 40 4
    srcPort := BitVec.ofNat 16 (u16 b 44), dstPort := BitVec.ofNat 16 (u16 b 46), mtu := u16 b 48 }

def egressPortBody (p : Pkt) (s : State) : Body :=
  let lane := u16 p.b 16
  let e := egressParams p.b (s.egressOf lane)
  let t := s.updEgress lane fun _ => e
  let l := s.boundHandles lane
  let need := t.wireOf lane
  { words := 13
    checks := [
      p.reserved [(21, 1), (50, 2)],
      failIf (512 ≤ lane || !(s.octet (lane / 8)).isEgress || 3 < u8 p.b 18 || 63 < u8 p.b 19 || u8 p.b 20 == 0
        || e.mtu < 1500 || 9000 < e.mtu) stParam,
      failIf (l.any fun x => match x.obj.bound with | some b => e.mtu - 28 < b.2 | none => false) stParam,
      unitAbsent s 7 (lane / 8), unitFault s 7 (lane / 8),
      failIf (l.any fun x => x.st == .running || x.st == .stopping) stState,
      if (s.wireOf lane).mega < need.mega then shortOf stResource 8 need.mega (s.egressLimit lane) else none]
    effect := fun u =>
      ((u.closeDatagrams lane).updEgress lane fun e => egressParams p.b e, { r0 := need.mega % 2 ^ 32 }, .done) }

/-- A handle's records go to a lane. -/
def State.rebind (h : Handle) (lane : Nat) (s : State) : State :=
  let s := (s.updXprod h fun x => { x with egress := lane }).updBeam h fun b => { b with egress := lane }
  s.updCapture h fun c => { c with reading := c.reading.map fun (r : CapRead) => { r with port := lane } }

def egressBindBody (p : Pkt) (s : State) : Body :=
  let h := p.target
  let lane := u16 p.b 16
  let size := (((s.find h).map Entry.obj).bind Obj.bound).map Prod.snd
  let t := s.rebind h lane
  { words := 13
    checks := [
      p.reserved [(21, 1), (50, 2)], failIf (3 < u8 p.b 18 || 63 < u8 p.b 19) stParam,
      badKind s h [1, 2, 4], failIf (s.portBad lane (size.getD 0)) stParam, unitAbsent s 7 (lane / 8), unitFault s 7 (lane / 8),
      stale s h, failIf (s.hstate h == .faulted) stState, shortOf stResource 8 (t.wireOf lane).mega (s.egressLimit lane)]
    effect := fun u => (u.rebind h lane, { handle := h, r0 := (t.wireOf lane).mega % 2 ^ 32 }, .done) }

def egressSetBody (p : Pkt) (s : State) : Body := if p.target = 0 then egressPortBody p s else egressBindBody p s

def execEgressSet (src : Source) (s : State) : Host.Outcome State Fault Refusal :=
  settleFlags s (runOp 0x14 egressSetBody src true .failed s)

/-! ### DESTROY -/

/-- Nothing of a product is left on its way. -/
def State.purge (h : Handle) (s : State) : State :=
  s.updXa fun x => { x with
    ready := x.ready.filter fun e => e.1 != h
    ended := x.ended.filter fun e => e.handle != h
    drains := x.drains.filter fun d => d.handle != h
    closeQ := x.closeQ.filter fun c => c.handle != h }

/-- Pages are freed, and no kernel reaches them any more (R280). -/
def State.freePages (l : List Nat) (s : State) : State :=
  let cut (k : Kernel) : Kernel := { k with regions := k.regions.map fun r => (r.1.filter fun p => !l.contains p, r.2) }
  let s := s.releasePages l
  { s with handles := { s.handles with live := s.handles.live.map fun (e : Entry) =>
      match e.obj with | .kernel k => { e with obj := .kernel (cut k) } | _ => e } }

/-- The engines and channels of a kernel are free; data memories keep their contents. -/
def State.freeKernel (h : Handle) (k : Kernel) (s : State) : State :=
  let s := s.freePages (s.pagesOf h)
  let s := s.dropClerks k.clerks
  let s := k.channels.foldl (fun (s : State) ch => s.updDma ch fun _ => {}) s
  if k.vx then s.updCtx 1 fun _ => {} else s

/-- What an object holds is free. -/
def State.freeObj (h : Handle) (o : Obj) (s : State) : State :=
  match o with
  | .xprod x =>
    let s := (((s.purge h).dropClerks (s.servants h)).freePages x.statePages).leaveRing x.ringId h
    if x.shared then s.updXprod x.owner fun o => { o with coOwners := o.coOwners.filter fun c => c != h } else s
  | .beam b => (((s.purge h).dropClerks (s.servants h)).freePages (b.weightPages ++ b.statePages)).leaveRing b.ringId h
  | .trigRule _ => { s with coarse := s.coarse.map fun (c : Coarse) => if c.owner == h then {} else c }
  | .capture c =>
    s.updRes fun r => { r with
      used := r.used.filter fun u => !c.stripes.contains u
      ch := r.ch.map fun (x : ResCh) => { x with till := x.till.filter fun t => t.handle != h } }
  | .kernel k => s.freeKernel h k
  | .schedule _ _ => s
  | .keySlot n => ({ s with ledger := { s.ledger with keys := s.ledger.keys.set n {} } } : State).ledgerChange

/-- R342, R388: the handle is freed with everything it holds. -/
def State.destroyHandle (h : Handle) (s : State) : State :=
  match s.find h with
  | none => s
  | some e =>
    let s := s.freeObj h e.obj
    let s := { s with handles := s.handles.free h }
    match e.obj with
    | .xprod _ => s.trimAll.settlePools
    | .beam _ => s.trimAll.settlePools
    | _ => s

/-- WRONG_STATE beside the state itself (R208, R345, R365, R388). -/
def State.destroyHeld (s : State) (o : Obj) : Bool :=
  match o with
  | .xprod x => !x.coOwners.isEmpty
  | .capture c => c.reading.isSome
  | .keySlot n => (s.keySlot n).state == 2 || s.slotBound n
  | _ => false

def destroyBody (p : Pkt) (s : State) : Body :=
  let h := p.target
  let e := s.find h
  let stopping := match e with | some e => e.obj.kind == 5 && e.st == .running | none => false
  { words := 4
    checks := [
      stale s h,
      failIf (match e with | some e => !stopping && (e.st.active || s.destroyHeld e.obj) | none => false) stState]
    effect := fun t =>
      if stopping then (t.requestStop h, { status := stState }, .done)
      else (t.destroyHandle h, { handle := h }, .done) }

/-- R284, R388: a RUNNING kernel answers WRONG_STATE and its stop proceeds. -/
def execDestroy (src : Source) (s : State) : Host.Outcome State Fault Refusal :=
  settleFlags s (runOp 0x3F destroyBody src true .failed s)

/-! ### RETIRE -/

/-- A page or bank of a die. -/
structure Region where
  die : Nat
  bank : Bool
  n : Nat
  deriving DecidableEq, Repr

def Region.holds (r : Region) (page : Nat) : Bool :=
  pageDie page == r.die && (if r.bank then pageBank page == r.n else page % 32768 == r.n)

def Region.addr (r : Region) : Nat := r.die * 2 ^ 31 + if r.bank then r.n * 2 ^ 25 else r.n * 65536

/-- Already retired: the bank, or the page or its bank. -/
def State.retired (s : State) (r : Region) : Bool :=
  let m := s.die r.die
  if r.bank then m.banks.contains r.n else m.pages.contains r.n || m.banks.contains (r.n / 512)

/-- The die's map with the region; a bank's pages leave the page list (R45). -/
def DieMap.retire (m : DieMap) (r : Region) : DieMap :=
  if r.bank then { banks := m.banks ++ [r.n], pages := m.pages.filter fun p => p / 512 != r.n }
  else { m with pages := m.pages ++ [r.n] }

/-- R303: out of allocation and capacity; the pages in use wait for their replacements. -/
def State.retireRegion (r : Region) (s : State) : State :=
  let s := { s with ledger := { s.ledger with dies := s.ledger.dies.modify r.die fun m => m.retire r } }
  let inUse := (s.vault.pages.map Prod.fst).filter fun p => r.holds p && !s.vault.relocate.any fun e => e.page == p
  s.updVault fun v => { v with relocate := v.relocate ++ inUse.map fun p => { page := p, bank := r.bank } }

/-- The live products that R302 may move to FAULTED, most recently created first. -/
def State.retireVictims (s : State) : List Handle :=
  (s.handlesOf fun e => (e.obj.kind == 1 || e.obj.kind == 2) && e.st != .faulted).reverse

/-- The state as admission sees it without some products and without those already FAULTED. -/
def State.without (s : State) (l : List Handle) : State :=
  let gone (e : Entry) : Bool := (e.obj.kind == 1 || e.obj.kind == 2) && (e.st == .faulted || l.contains e.h)
  let hs := (s.handles.live.filter gone).map Entry.h
  let pages := s.vault.pages.filter fun e => !(hs.contains e.2.owner && e.2.kind != useKernel)
  let rings := s.xa.rings.filter fun r => !r.users.all hs.contains
  let dead := (s.xa.rings.filter fun r => r.users.all hs.contains).flatMap CtRing.pages
  { s with
    handles := { s.handles with live := s.handles.live.filter fun e => !gone e }
    vault := { s.vault with pages := pages.filter fun e => !dead.contains e.1 }
    xa := { s.xa with rings := rings } }

/-- R27: the Vault checks alone. -/
def State.vaultShort (s : State) : Option Res :=
  let t := s.totals s.sizing 0 s.poolSizes.1 s.poolSizes.2
  firstFailure [shortOf stFit 1 s.pagesAfter s.pageCapacity, shortOf stFit 2 t.read.mega s.portLimit, shortOf stFit 3 t.write.mega s.portLimit]

/-- R302: the shortest run of victims after which the rest pass; none when even all of them do not help. -/
def State.forceList (s : State) : List Handle → List Handle → Option (List Handle)
  | done, [] => if (s.without done).vaultShort.isNone then some done else none
  | done, h :: t => if (s.without done).vaultShort.isNone then some done else State.forceList s (done ++ [h]) t

def retireBody (p : Pkt) (s : State) : Body :=
  let flags := u8 p.b 17
  let r : Region := { die := u8 p.b 16, bank := bit flags 0, n := u16 p.b 18 }
  let force := bit flags 1
  let old := s.retired r
  let t := s.retireRegion r
  let victims := if force then t.forceList [] t.retireVictims else if ((t.without []).vaultShort).isNone then some [] else none
  { words := 5
    checks := [
      p.noTarget, failIf (3 < flags || 1 < r.die || !s.usable 5 r.die || (if r.bank then 63 < r.n else 32767 < r.n)) stParam,
      failIf (!old && !r.bank && 256 ≤ (s.die r.die).pages.length) stResource,
      if old || victims.isSome then none else (t.without (if force then t.retireVictims else [])).vaultShort]
    effect := fun u =>
      if old then (u, {}, .done)
      else
        let l := victims.getD []
        let detail (h : Handle) : List Byte :=
          le 4 r.addr ++ [0, 0, 0] ++ le 1 (flagBit r.bank 0 + flagBit force 1) ++ [0, 0, 0, 0] ++ le 4 h.toNat
        let owner := if r.bank then 0 else u.pageOwner (r.die * 32768 + r.n)
        let u := l.foldl (fun (u : State) h => (u.faultHandle h).logAdd 0x0106 5 r.die (detail h)) u
        let u := (u.retireRegion r).logAdd 0x0104 5 r.die (detail owner)
        let u := u.updService fun v => { v with dies := v.dies.modify r.die fun m => m.retire r }
        (u.passEnds.ledgerChange, { r0 := l.length }, .done) }

def execRetire (src : Source) (s : State) : Host.Outcome State Fault Refusal :=
  settleFlags s (runOp 0x62 retireBody src true .failed s)

/-! ### RESET_UNIT -/

/-- The units a selector names (R343); 0xFFFF stands for every unit present. -/
def State.selected (s : State) (t : Nat) : List Nat :=
  let cls := bits t 23 16
  let n := bits t 15 0
  if n = 0xFFFF then (List.range (unitCount cls)).filter fun i => s.present cls i else if s.present cls n then [n] else []

/-- R366, R477: a unit is held. -/
def State.unitHeld (s : State) (cls n : Nat) : Bool :=
  match cls with
  | 2 => (s.clerk n).owner.isSome || (s.clerk n).system
  | 3 => (List.range 16).any fun c =>
      let ch := n * 16 + c
      (s.dmaCh ch).owner.isSome
        || ((hostChannel ch).isSome && !((s.dmaCh ch).st == .idle || (s.dmaCh ch).st == .halted))
  | 6 => s.captures.any fun (e : Handle × Capture) => e.2.chans.contains n
  | _ => (s.octet n).role != 0

/-- A unit at its reset values, out of use until its BIST has passed. -/
def State.resetUnitNow (cls n : Nat) (s : State) : State :=
  let s := s.setUsable cls n false
  match cls with
  | 2 => s.updClerk n fun _ => {}
  | 3 => (List.range 16).foldl (fun (s : State) c => s.updDma (n * 16 + c) fun _ => {}) (s.dropRequests (.dma n))
  | 6 => (s.updCh n fun _ => {}).ledgerChange
  | _ => (List.range 8).foldl (fun (s : State) i => s.updLane (8 * n + i) fun _ => {}) (s.updOctet n fun _ => {})

def resetUnitBody (p : Pkt) (s : State) : Body :=
  let t := p.target.toNat
  let cls := bits t 23 16
  let units := s.selected t
  { words := 4
    deferred := true
    checks := [
      failIf (bits t 31 24 != 0 || !([2, 3, 6, 7] : List Nat).contains cls) stParam, failIf units.isEmpty stAbsent,
      failIf (units.any fun n => s.unitHeld cls n) stState]
    effect := fun u =>
      (units.foldl (fun (u : State) n => u.resetUnitNow cls n) u, {}, .wait (.resetUnit (units.map fun n => { cls := cls, num := n }))) }

def execResetUnit (src : Source) (s : State) : Host.Outcome State Fault Refusal :=
  settleFlags s (runOp 0x08 resetUnitBody src true .failed s)

/-- A unit's BIST has ended; a Reserve channel serves again once it has trained. -/
def State.unitBist (failed : List Nat) (training : List (Nat × Training)) (u : UnitRef) (s : State) : State :=
  let s := if u.cls = 6 then
      (s.updCh u.num fun c =>
        c.trained (((training.find? fun (e : Nat × Training) => e.1 == u.num).map Prod.snd).getD .empty)).ledgerChange
    else s
  s.setUsable u.cls u.num (s.present u.cls u.num && !failed.contains u.num && (u.cls != 6 || (s.ch u.num).state == 1))

/-- R366: the last BIST of the oldest RESET_UNIT ends. -/
def execResetUnitComplete (failed : List Nat) (training : List (Nat × Training)) (s : State) : Host.Outcome State Fault Refusal :=
  settleFlags s (
    if s.teller.safe then s
    else match s.teller.deferred.findSome? fun (d : Deferred) => match d.wait with | .resetUnit l => some (d.seq, l) | _ => none with
    | none => s
    | some (seq, units) =>
      let s := units.foldl (fun (s : State) u => s.unitBist failed training u) s
      let bad := (units.map UnitRef.num).filter failed.contains
      let map := ((bad.filter fun n => n < 32).map fun n => 2 ^ n).sum
      s.finish (fun d => d.seq == seq) { status := if bad.isEmpty then stOk else stFault, r0 := units.length, r1 := map })

end Sys2Proof.Machine
end

