-- ==== Sys2Proof/Machine/Schedule.lean ====
section
/-! DEFINITION. Scheduled events (R402, R431–R437): SCHEDULE, its firings, the turn of a carried command, the SYNC_OUT pulses,
and one TK cycle of an idle block. -/
namespace Sys2Proof.Machine

/-! ### The carried command -/

/-- What a carried opcode does (R402); the other opcodes are refused before. -/
def carriedBody (p : Pkt) (s : State) : Body :=
  match p.op with
  | 0x10 => laneSetBody p s
  | 0x20 => inputMapBody p s
  | 0x21 => feSetBody p s
  | 0x23 => delaySetBody p s
  | 0x24 => gainSetBody p s
  | 0x3B => captureFreezeBody p s
  | 0x41 => kernelRunBody p s
  | _ => timeAdjustBody p s

/-- The opcodes and forms SCHEDULE carries (R402). -/
def carriedForm (b : List Byte) : Bool :=
  match u8 b 0 with
  | 0x10 | 0x20 | 0x21 | 0x23 | 0x24 | 0x3B => true
  | 0x41 => bit (u8 b 16) 0
  | 0x51 => u8 b 16 != 1
  | _ => false

/-- The carried command as a packet of its source, with max(T, C) as its commit time (R434). -/
def carriedPkt (src : Source) (b : List Byte) (t : Nat) (s : State) : Pkt :=
  { src := src, b := b, commitAt := max t s.now, scheduled := true, late := t < s.now }

/-- R402: any check of the carried command, AUTH and INDIRECT in its header. -/
def carriedBad (src : Source) (b : List Byte) (t : Nat) (s : State) : Bool :=
  let p := carriedPkt src b t s
  !carriedForm b || p.auth || p.indirect || (p.refusal (carriedBody p s) s).isSome

/-! ### SCHEDULE -/

/-- The slots in use; a slot stays with its handle until DESTROY (R345). -/
def State.slotsUsed (s : State) : List Nat :=
  s.handles.live.filterMap fun (e : Entry) => match e.obj with | .schedule n _ => some n | _ => none

def State.freeSlot (s : State) : Option Nat := (List.range 64).find? fun n => !s.slotsUsed.contains n

/-- The slot of a packet; T is resolved to full time (R433). -/
def slotOfPkt (p : Pkt) (s : State) : SchedSlot :=
  let b := p.b
  let action := u8 b 36
  { t := s.full (BitVec.ofNat 64 (u64 b 16)), period := u64 b 24, count := u32 b 32, endless := u64 b 24 != 0 && u32 b 32 == 0
    action := action, syncMask := BitVec.ofNat 8 (u8 b 37), kernel := BitVec.ofNat 32 (u32 b 40)
    carried := if action = 1 then b.drop 48 else [], src := p.src }

def scheduleBody (p : Pkt) (s : State) : Body :=
  let b := p.b
  let x := slotOfPkt p s
  { words := 12 + if x.action = 1 then u16 b 50 else 0
    checks := [
      p.noTarget, p.reserved [(38, 2), (44, 4)],
      failIf (!shortOk (BitVec.ofNat 64 (u64 b 16)) || x.action == 0 || 3 < x.action) stParam,
      failIf (if x.period = 0 then 1 < x.count else x.period < 1000) stParam,
      failIf (x.action == 1 && x.period != 0) stParam,
      failIf (x.action == 2 && x.syncMask == 0) stParam,
      failIf (x.action == 1 && carriedBad p.src x.carried x.t s) stParam,
      if x.action = 3 then badKind s x.kernel [5] else none,
      if x.action = 3 then stale s x.kernel else none,
      failIf (x.t < p.commitAt + 100 * tickUs) stPast,
      failIf s.freeSlot.isNone stResource, noIndex s]
    effect := fun u =>
      match u.freeSlot with
      | none => (u, { status := stResource }, .done)
      | some n =>
        match u.handles.alloc (.schedule n x) with
        | none => (u, { status := stResource }, .done)
        | some (h, hs) => ({ u with handles := hs }, { handle := h, r0 := n }, .done) }

def execSchedule (src : Source) (s : State) : Host.Outcome State Fault Refusal :=
  settleFlags s (runOp 0x53 scheduleBody src true .failed s)

/-! ### Firings -/

/-- The live schedule of a slot. -/
def State.schedOf (s : State) (slot : Nat) : Option (Entry × SchedSlot) :=
  s.handles.live.findSome? fun (e : Entry) => match e.obj with | .schedule n x => if n = slot then some (e, x) else none | _ => none

/-- Due time of the next firing, from T and never from the previous one (R433). -/
def SchedSlot.due (x : SchedSlot) : Nat := x.t + x.fired * x.period * tickNs

/-- The next firing is the last. -/
def SchedSlot.ends (x : SchedSlot) : Bool := !x.endless && max x.count 1 ≤ x.fired + 1

/-- R431: the pins of a mask are high for 128 ns from now. -/
def State.pulsePins (mask : BitVec 8) (s : State) : State :=
  let ends := (List.range 8).map fun i => if mask.getLsbD i then some (s.now + 128 * tickNs) else s.pins.syncOut.getD i none
  { s with pins := { s.pins with syncOut := ends } }

/-- R436, R437: a late or skipped firing is counted. -/
def State.countLate (s : State) : State := (s.updTk fun k => { k with schedLate := satAdd 16 k.schedLate 1 }).raise evSchedLate

/-- One firing is over; after the last the slot is STOPPED (R437). -/
def State.fired (h : Handle) (x : SchedSlot) (s : State) : State :=
  let s := s.updSched h fun x => { x with fired := x.fired + 1 }
  if x.ends then s.setState h .stopped else s

/-- R433: a slot whose due time has come fires; SAFE_STATE skips ACTION 1 and 3 (R437). A carried command has its turn
instead (`execScheduledCommand`). -/
def execScheduleFire (slot : Nat) (s : State) : Host.Outcome State Fault Refusal :=
  settleFlags s (
    match s.schedOf slot with
    | none => s
    | some (e, x) =>
      if e.st != .created || s.now < x.due then s
      else if x.action = 2 then (s.pulsePins x.syncMask).fired e.h x
      else if s.teller.safe then s.countLate.fired e.h x
      else if x.action = 3 then (s.kernelEvent x.kernel 7).fired e.h x
      else s)

/-- ACTION 1 turns whose time has come, with their T and slot (R434). -/
def State.readyTurns (s : State) : List (Nat × Nat) :=
  s.handles.live.filterMap fun (e : Entry) =>
    match e.obj with
    | .schedule n x => if x.action = 1 && e.st == .created && x.t ≤ s.now + 1000000 * tickNs then some (x.t, n) else none
    | _ => none

/-- R435: the order of turns that are ready together. -/
def turnBefore (a b : Nat × Nat) : Bool := a.1 < b.1 || (a.1 == b.1 && a.2 < b.2)

/-- R436: the firing is late by no more than the gap of a takeover since the turn began. -/
def State.gapMadeLate (s : State) (t : Nat) : Bool :=
  let gap := s.health.lastGap * 2 * tickNs
  let at0 := s.full s.health.lastTakeover
  s.health.takeovers != 0 && s.now ≤ t + gap && t ≤ at0 + 1000000 * tickNs && at0 ≤ s.now

/-- R434–R436: the turn of a carried command, from T − 1 ms on. -/
def execScheduledCommand (slot : Nat) (s : State) : Host.Outcome State Fault Refusal :=
  settleFlags s (
    match s.schedOf slot with
    | none => s
    | some (e, x) =>
      let ready := s.readyTurns
      let p := carriedPkt x.src x.carried x.t s
      if s.teller.safe || !ready.contains (x.t, slot) || ready.any (fun r => turnBefore r (x.t, slot)) || !s.canTake x.src p then s
      else
        let u := p.run (carriedBody p s) s
        let u := if p.late then u.countLate else u
        let u := if p.late && s.gapMadeLate x.t then u.updHealth fun h => { h with schedLateGap := satAdd 16 h.schedLateGap 1 } else u
        u.fired e.h x)

/-- R431: a pulse ends after 64 TK cycles. -/
def execSyncOutPulseEnd (pin : Nat) (s : State) : Host.Outcome State Fault Refusal :=
  settleFlags s (
    match s.pins.syncOut.getD pin none with
    | some t => if t ≤ s.now then { s with pins := { s.pins with syncOut := s.pins.syncOut.set pin none } } else s
    | none => s)

/-! ### An empty queue -/

/-- One TK cycle while no command waits: the time advances, lane settings that were held for it take effect, and the lanes send
the blocks whose time it is. -/
def tick (s : State) : State := noticeFlags s (idle s).heldSettings.lineTick.poolTick.matrixTick

end Sys2Proof.Machine
end

