-- ==== Sys2Proof/Machine/Board.lean ====
section
/-! DEFINITION. HEALTH records (R451), islands that stall (R495, R304) and the test port (R510). -/
namespace Sys2Proof.Machine

/-! ### HEALTH records -/

/-- R451: the header over the Statement. -/
def healthHead (lane peer : Nat) (last : BitVec 64) (seq : Nat) (statement : List Byte) : RecordHead :=
  { rtype := 4, flags := 0, chan := lane, handle := 0, pair := peer % 32, slots := 0, start := 0, t0 := last
    t1 := BitVec.ofNat 64 (u64 statement 16), tally := u32 statement 8, seq := seq, digest := 0 }

/-- A bound handle of the lane is RUNNING. -/
def State.laneRuns (s : State) (lane : Nat) : Bool := (s.boundHandles lane).any fun (e : Entry) => e.st == .running

/-- A second of voted time has begun since the port's last HEALTH record. -/
def State.healthDue (s : State) (lane : Nat) : Bool :=
  let e := s.egressOf lane
  e.healthSeq == 0 || ticksSec s.now % 2 ^ 32 != e.healthLast.toNat % 2 ^ 32

/-- R451: the record of one port for this second, sent or dropped. -/
def execHealthRecordPost (lane : Nat) (s : State) : Host.Outcome State Fault Refusal :=
  settleFlags s (
    if s.teller.safe || s.stalled 12 || !(s.octet (lane / 8)).isEgress || !s.laneRuns lane || !s.healthDue lane then s
    else
      let st := s.health.statement
      let e := s.egressOf lane
      let s := s.postBytes lane 0 ((healthHead lane s.plane.peerId e.healthLast e.healthSeq st).record st)
      s.updEgress lane fun e => { e with healthSeq := e.healthSeq + 1, healthLast := BitVec.ofNat 64 (u64 st 16) })

/-! ### Stalled islands -/

/-- Every handle for which p holds moves to FAULTED (R345). -/
def State.faultAll (p : Entry → Bool) (s : State) : State := (s.handlesOf p).foldl (fun (s : State) h => s.faultHandle h) s

def Entry.isProduct (e : Entry) : Bool := e.obj.kind == 1 || e.obj.kind == 2
def Entry.isCapture (e : Entry) : Bool := e.obj.kind == 4
def Entry.isVx (e : Entry) : Bool := match e.obj with | .kernel k => k.vx | _ => false
def Entry.isClerk (e : Entry) : Bool := match e.obj with | .kernel k => !k.vx | _ => false

/-- A group of the product's range comes from this package (R132). -/
def State.feedsLocally (s : State) (e : Entry) : Bool :=
  let has (st first n : Nat) : Bool :=
    match s.desc st with
    | some d => (List.range n).any fun i => d.sourceOf (first + i) == s.plane.peerId
    | none => true
  match e.obj with
  | .xprod x => has x.stream x.firstGroup x.ngroups
  | .beam b => has b.stream b.firstGroup b.ngroups
  | _ => false

/-- Units of a class leave service (R42). -/
def State.unitsOut (cls : Nat) (l : List Nat) (s : State) : State := l.foldl (fun (s : State) n => s.setUsable cls n false) s

/-- R304: a die leaves service: what stands on it goes FAULTED, and the system reserve is made up on the other die. -/
def State.dieOut (d : Nat) (s : State) : State :=
  let s := s.setUsable 5 d false
  let hit := s.usersOf fun p => pageDie p == d
  let s := hit.foldl (fun (s : State) h => s.faultHandle h) s
  let sys := s.systemPages.filter fun p => pageDie p == d
  let s := s.releasePages sys
  (s.takePages { owner := 0, kind := useSystem } sys.length).2.passEnds

/-- R495: the octets of a lane complex leave service. -/
def State.complexOut (first : Nat) (s : State) : State :=
  let octets := (List.range 32).map fun i => first + i
  let s := s.unitsOut 7 octets
  let s := octets.foldl (fun (s : State) p => if (s.port p).entry.bound then s.portTo p .down false else s) s
  let links := (s.links.map Link.first).filter fun l => octets.contains (l / 8)
  links.foldl (fun (s : State) l => s.linkLost l) s

/-- Table — Stalled islands (R495). -/
def State.islandOut (i : Nat) (s : State) : State :=
  match i with
  | 0 => ((s.unitsOut 1 (List.range 132)).setUsable 8 0 false).faultAll Entry.isProduct
  | 1 => (s.setUsable 9 0 false).faultAll fun e => s.feedsLocally e || e.isCapture
  | 2 =>
    let s := s.faultAll fun e => e.isProduct || e.isVx
    s.updCtx 0 fun c => { c with running := false }
  | 3 =>
    let s := (s.unitsOut 2 (List.range 16)).faultAll Entry.isClerk
    { s with clerks := s.clerks.map fun (c : Clerk) => { c with running := false, waiting := false } }
  | 4 =>
    let s := (List.range 3).foldl (fun (s : State) c => s.updChannel c fun x => { x with st := .failed, transfer := false }) s
    (s.unitsOut 4 (List.range 3)).enterSafe 1
  | 5 => ((s.updTk fun k => { k with timeFault := true }).raise evTimeFault).faultAll fun e => e.isProduct || e.isCapture
  | 6 => s.dieOut 0
  | 7 => s.dieOut 1
  | 8 => (List.range 8).foldl (fun (s : State) c => s.channelFault c) s
  | 9 =>
    let s := s.ringLost
    { s with host := { s.host with linkUp := false, linkWidth := 0, linkSpeed := 0, half := none } }
  | 10 => s.complexOut 0
  | 11 => s.complexOut 32
  | 12 => s.faultAll Entry.isProduct
  | 14 => s.enterSafe 4
  | _ => s

/-- R495: a watch bit, or a crossing's acknowledge, is 10 µs late: once for an island until the next reset, never for
the test port, and not at all once AO itself has stalled. -/
def execCdcStall (island : Nat) (other : Option Nat) (s : State) : Host.Outcome State Fault Refusal :=
  settleFlags s (
    if !s.powered || 18 ≤ island || island == 15 || s.stalled island || s.stalled 17 || !islandPresent s.fuse.variant island then s
    else
      let s := s.logAdd 0x0401 0 0xFF (le 1 island ++ le 1 (other.getD 0xFF))
      let s := s.updHealth fun h => { h with cdcIsland := island, stalled := h.stalled ++ [island] }
      (s.raise evCdcStall).islandOut island)

/-! ### The test port (R510) -/

/-- The TAP controller of IEEE 1149.1 (PRESUMED, notes/assumptions/5.md). -/
def Tap.next : Tap → Bool → Tap
  | .reset, tms => if tms then .reset else .idle
  | .idle, tms => if tms then .selDr else .idle
  | .selDr, tms => if tms then .selIr else .capDr
  | .capDr, tms => if tms then .ex1Dr else .shDr
  | .shDr, tms => if tms then .ex1Dr else .shDr
  | .ex1Dr, tms => if tms then .updDr else .pauDr
  | .pauDr, tms => if tms then .ex2Dr else .pauDr
  | .ex2Dr, tms => if tms then .updDr else .shDr
  | .updDr, tms => if tms then .selDr else .idle
  | .selIr, tms => if tms then .reset else .capIr
  | .capIr, tms => if tms then .ex1Ir else .shIr
  | .shIr, tms => if tms then .ex1Ir else .shIr
  | .ex1Ir, tms => if tms then .updIr else .pauIr
  | .pauIr, tms => if tms then .ex2Ir else .pauIr
  | .ex2Ir, tms => if tms then .updIr else .shIr
  | .updIr, tms => if tms then .selDr else .idle

/-- Data registers. -/
inductive DataReg where
  | idcode | bypass | boundary
  deriving DecidableEq, Repr

/-- The data register an instruction selects: the instructions that take the pins give way to BYPASS while RESET_N is
high, and every code without a name is BYPASS (R510). -/
def dataReg (ir : BitVec 8) (resetN : Bool) : DataReg :=
  match ir.toNat with
  | 0x01 => .idcode
  | 0x02 => .boundary
  | 0x00 | 0x03 | 0x04 => if resetN then .bypass else .boundary
  | _ => .bypass

/-- R510. -/
def idcode : BitVec 32 := 0x1C4046BD#32

/-- What a register holds after Capture-DR; boundary cells are the pins', of which the model holds none. -/
def DataReg.capture : DataReg → BitVec 32
  | .idcode => Sys2Proof.Machine.idcode
  | _ => 0#32

/-- One shift of the selected data register towards TDO. -/
def DataReg.shift (r : DataReg) (d : BitVec 32) (tdi : Bool) : BitVec 32 :=
  let inBit (n : Nat) : BitVec 32 := if tdi then BitVec.ofNat 32 (2 ^ n) else 0#32
  match r with
  | .idcode => (d >>> 1) ||| inBit 31
  | _ => inBit 0

/-- What the state before a rising edge of TCK does at it; TDO carries the bit that leaves a register. -/
def State.tapAct (tdi : Bool) (s : State) : State :=
  let j := s.jtag
  let r := dataReg j.ir s.pins.resetN
  match j.tap with
  | .reset => { s with jtag := { j with ir := 0x01 } }
  | .capDr => { s with jtag := { j with dr := r.capture } }
  | .shDr =>
    let (b, s) := if r = .boundary then (let (v, s) := s.takeFree 1; (v == 1, s)) else (j.dr.getLsbD 0, s)
    { s with jtag := { j with dr := r.shift j.dr tdi, tdo := b } }.emit (.tdo b)
  | .capIr => let (v, s) := s.takeFree 6; { s with jtag := { j with irShift := BitVec.ofNat 8 (4 * v + 1) } }
  | .shIr =>
    let b := j.irShift.getLsbD 0
    { s with jtag := { j with irShift := (j.irShift >>> 1) ||| (if tdi then 0x80 else 0), tdo := b } }.emit (.tdo b)
  | .updIr => { s with jtag := { j with ir := j.irShift } }
  | _ => s

/-- R510: TRST_N low puts the TAP into Test-Logic-Reset; otherwise one rising edge of TCK. -/
def execTapClock (trst tms tdi : Bool) (s : State) : Host.Outcome State Fault Refusal :=
  settle s (
    if s.boot.phase == .off then s
    else if trst then { s with jtag := { s.jtag with tap := .reset, ir := 0x01 } }
    else
      let s := s.tapAct tdi
      let t := s.jtag.tap.next tms
      { s with jtag := { s.jtag with tap := t, ir := if t = .reset then 0x01 else s.jtag.ir } })

end Sys2Proof.Machine
end

