-- ==== Sys2Proof/Machine/Dispatch.lean ====
section
/-! DEFINITION. One arm per command: one direct call of its meaning. -/
namespace Sys2Proof.Machine

def exec (i : Instr) (s : State) : Host.Outcome State Fault Refusal :=
  match i with
  | .supplyVddAoUp => Sys2Proof.Machine.execSupplyVddAoUp s
  | .resetNRelease bootMode hpDisable testMode => Sys2Proof.Machine.execResetNRelease bootMode hpDisable testMode s
  | .tkrefSelect m => Sys2Proof.Machine.execTkrefSelect m s
  | .bootImageLoad imgA imgB => Sys2Proof.Machine.execBootImageLoad imgA imgB s
  | .bootFallbackTimeout => Sys2Proof.Machine.execBootFallbackTimeout s
  | .reserveTrainingDone results => Sys2Proof.Machine.execReserveTrainingDone results s
  | .firstLedgerRewrite failed => Sys2Proof.Machine.execFirstLedgerRewrite failed s
  | .pinReset => Sys2Proof.Machine.execPinReset s
  | .tellerRestart v => Sys2Proof.Machine.execTellerRestart v s
  | .deviceReset v => Sys2Proof.Machine.execDeviceReset v s
  | .perstAssert => Sys2Proof.Machine.execPerstAssert s
  | .functionLevelReset => Sys2Proof.Machine.execFunctionLevelReset s
  | .d3hotEntry => Sys2Proof.Machine.execD3hotEntry s
  | .pcieLinkDown => Sys2Proof.Machine.execPcieLinkDown s
  | .busMasterClear => Sys2Proof.Machine.execBusMasterClear s
  | .pcieCompletion rd res => Sys2Proof.Machine.execPcieCompletion rd res s
  | .baseWrite w => Sys2Proof.Machine.execBaseWrite w s
  | .ringEnable v => Sys2Proof.Machine.execRingEnable v s
  | .ringDisable v => Sys2Proof.Machine.execRingDisable v s
  | .ringHold v => Sys2Proof.Machine.execRingHold v s
  | .cmdDoorbell v => Sys2Proof.Machine.execCmdDoorbell v s
  | .rplDoorbell v => Sys2Proof.Machine.execRplDoorbell v s
  | .commandFetch entry params => Sys2Proof.Machine.execCommandFetch entry params s
  | .registerWrite w => Sys2Proof.Machine.execRegisterWrite w s
  | .bar2Read off len => Sys2Proof.Machine.execBar2Read off len s
  | .bar2Write off data => Sys2Proof.Machine.execBar2Write off data s
  | .spiWrite frame => Sys2Proof.Machine.execSpiWrite frame s
  | .spiReadReply clocked => Sys2Proof.Machine.execSpiReadReply clocked s
  | .spiReadStatus => Sys2Proof.Machine.execSpiReadStatus s
  | .spiReadData offset count => Sys2Proof.Machine.execSpiReadData offset count s
  | .spiUnknownFrame first => Sys2Proof.Machine.execSpiUnknownFrame first s
  | .forward src => Sys2Proof.Machine.execForward src s
  | .forwardTimeout n => Sys2Proof.Machine.execForwardTimeout n s
  | .badOpcode src => Sys2Proof.Machine.execBadOpcode src s
  | .nop src => Sys2Proof.Machine.execNop src s
  | .identify src => Sys2Proof.Machine.execIdentify src s
  | .ledgerRead src wr => Sys2Proof.Machine.execLedgerRead src wr s
  | .keyLoad src => Sys2Proof.Machine.execKeyLoad src s
  | .lock src => Sys2Proof.Machine.execLock src s
  | .resetUnit src => Sys2Proof.Machine.execResetUnit src s
  | .resetUnitComplete failed training => Sys2Proof.Machine.execResetUnitComplete failed training s
  | .laneSet src => Sys2Proof.Machine.execLaneSet src s
  | .laneStatus src wr => Sys2Proof.Machine.execLaneStatus src wr s
  | .laneTest src => Sys2Proof.Machine.execLaneTest src s
  | .eyeScanComplete lane left right up down => Sys2Proof.Machine.execEyeScanComplete lane left right up down s
  | .portBind src => Sys2Proof.Machine.execPortBind src s
  | .egressSet src => Sys2Proof.Machine.execEgressSet src s
  | .planeJoin src => Sys2Proof.Machine.execPlaneJoin src s
  | .planeLeave src => Sys2Proof.Machine.execPlaneLeave src s
  | .planeMap src => Sys2Proof.Machine.execPlaneMap src s
  | .inputMap src => Sys2Proof.Machine.execInputMap src s
  | .feSet src => Sys2Proof.Machine.execFeSet src s
  | .coeffLoad src wr => Sys2Proof.Machine.execCoeffLoad src wr s
  | .delaySet src => Sys2Proof.Machine.execDelaySet src s
  | .gainSet src => Sys2Proof.Machine.execGainSet src s
  | .detectRead src wr => Sys2Proof.Machine.execDetectRead src wr s
  | .xprodCreate src => Sys2Proof.Machine.execXprodCreate src s
  | .xprodStart src => Sys2Proof.Machine.execXprodStart src s
  | .xprodStop src => Sys2Proof.Machine.execXprodStop src s
  | .beamCreate src => Sys2Proof.Machine.execBeamCreate src s
  | .beamWeights src => Sys2Proof.Machine.execBeamWeights src s
  | .destroy src => Sys2Proof.Machine.execDestroy src s
  | .trigRuleCreate src => Sys2Proof.Machine.execTrigRuleCreate src s
  | .captureCreate src => Sys2Proof.Machine.execCaptureCreate src s
  | .captureArm src => Sys2Proof.Machine.execCaptureArm src s
  | .captureFreeze src => Sys2Proof.Machine.execCaptureFreeze src s
  | .captureRead src => Sys2Proof.Machine.execCaptureRead src s
  | .captureReadComplete h bad wr => Sys2Proof.Machine.execCaptureReadComplete h bad wr s
  | .kernelLoad src image => Sys2Proof.Machine.execKernelLoad src image s
  | .kernelRun src => Sys2Proof.Machine.execKernelRun src s
  | .timeSet src => Sys2Proof.Machine.execTimeSet src s
  | .timeSetTimeout => Sys2Proof.Machine.execTimeSetTimeout s
  | .timeAdjust src => Sys2Proof.Machine.execTimeAdjust src s
  | .timeStatus src wr => Sys2Proof.Machine.execTimeStatus src wr s
  | .schedule src => Sys2Proof.Machine.execSchedule src s
  | .healthRead src wr => Sys2Proof.Machine.execHealthRead src wr s
  | .logRead src wr => Sys2Proof.Machine.execLogRead src wr s
  | .retire src => Sys2Proof.Machine.execRetire src s
  | .scrubSet src => Sys2Proof.Machine.execScrubSet src s
  | .monitorSet src => Sys2Proof.Machine.execMonitorSet src s
  | .abort src => Sys2Proof.Machine.execAbort src s
  | .query src wr => Sys2Proof.Machine.execQuery src wr s
  | .fence src => Sys2Proof.Machine.execFence src s
  | .ledgerRewrite => Sys2Proof.Machine.execLedgerRewrite s
  | .serviceRecordWrite ok => Sys2Proof.Machine.execServiceRecordWrite ok s
  | .dmaHead ch addr => Sys2Proof.Machine.execDmaHead ch addr s
  | .kick ch host => Sys2Proof.Machine.execKick ch host s
  | .arm ch => Sys2Proof.Machine.execArm ch s
  | .stop ch => Sys2Proof.Machine.execStop ch s
  | .descriptorStart ch host => Sys2Proof.Machine.execDescriptorStart ch host s
  | .descriptorComplete ch host doneOk => Sys2Proof.Machine.execDescriptorComplete ch host doneOk s
  | .matrixBurst b => Sys2Proof.Machine.execMatrixBurst b s
  | .matrixTimeout m ch addr write => Sys2Proof.Machine.execMatrixTimeout m ch addr write s
  | .pllGroupStart locked => Sys2Proof.Machine.execPllGroupStart locked s
  | .pllLockTimeout octet => Sys2Proof.Machine.execPllLockTimeout octet s
  | .lanePowerResume lane tx held => Sys2Proof.Machine.execLanePowerResume lane tx held s
  | .blockLock lane stream => Sys2Proof.Machine.execBlockLock lane stream s
  | .lockLoss lane invalid => Sys2Proof.Machine.execLockLoss lane invalid s
  | .elasticSlip lane again => Sys2Proof.Machine.execElasticSlip lane again s
  | .markerReceive lane payload parity skew => Sys2Proof.Machine.execMarkerReceive lane payload parity skew s
  | .markerPeriodTimeout lane => Sys2Proof.Machine.execMarkerPeriodTimeout lane s
  | .injectStrike lane => Sys2Proof.Machine.execInjectStrike lane s
  | .egressFaultReceive lane remote => Sys2Proof.Machine.execEgressFaultReceive lane remote s
  | .egressFrameReceive lane frame => Sys2Proof.Machine.execEgressFrameReceive lane frame s
  | .multiblockRelease link words crcOk whole => Sys2Proof.Machine.execMultiblockRelease link words crcOk whole s
  | .sysrefEdge => Sys2Proof.Machine.execSysrefEdge s
  | .creditBlockReceive port released compl => Sys2Proof.Machine.execCreditBlockReceive port released compl s
  | .creditSend port => Sys2Proof.Machine.execCreditSend port s
  | .dataReceive port a => Sys2Proof.Machine.execDataReceive port a s
  | .partialReceive port a => Sys2Proof.Machine.execPartialReceive port a s
  | .helloReceive port a => Sys2Proof.Machine.execHelloReceive port a s
  | .healthReceive port a => Sys2Proof.Machine.execHealthReceive port a s
  | .timeReceive port a arrival => Sys2Proof.Machine.execTimeReceive port a arrival s
  | .cmdReceive port a => Sys2Proof.Machine.execCmdReceive port a s
  | .trigReceive port a => Sys2Proof.Machine.execTrigReceive port a s
  | .helloSend port => Sys2Proof.Machine.execHelloSend port s
  | .healthSend port => Sys2Proof.Machine.execHealthSend port s
  | .timeSend port depart => Sys2Proof.Machine.execTimeSend port depart s
  | .helloTimeout port => Sys2Proof.Machine.execHelloTimeout port s
  | .creditStall port => Sys2Proof.Machine.execCreditStall port s
  | .quarantineEnd port => Sys2Proof.Machine.execQuarantineEnd port s
  | .dataTransmit port => Sys2Proof.Machine.execDataTransmit port s
  | .partialSend h => Sys2Proof.Machine.execPartialSend h s
  | .mapTakeEffect stream => Sys2Proof.Machine.execMapTakeEffect stream s
  | .frameBoundary input => Sys2Proof.Machine.execFrameBoundary input s
  | .slotPack stream slot => Sys2Proof.Machine.execSlotPack stream slot s
  | .delaySegment input values => Sys2Proof.Machine.execDelaySegment input values s
  | .detectorPublish input => Sys2Proof.Machine.execDetectorPublish input s
  | .parityError input t => Sys2Proof.Machine.execParityError input t s
  | .coeffReload t => Sys2Proof.Machine.execCoeffReload t s
  | .trigRuleFire d => Sys2Proof.Machine.execTrigRuleFire d s
  | .trigInEdge pin highNs => Sys2Proof.Machine.execTrigInEdge pin highNs s
  | .trigOutPulseEnd pin => Sys2Proof.Machine.execTrigOutPulseEnd pin s
  | .productStartBoundary h => Sys2Proof.Machine.execProductStartBoundary h s
  | .slotStart stream slot => Sys2Proof.Machine.execSlotStart stream slot s
  | .subintReady h subint piece => Sys2Proof.Machine.execSubintReady h subint piece s
  | .passEnd p residueBad => Sys2Proof.Machine.execPassEnd p residueBad s
  | .drain => Sys2Proof.Machine.execDrain s
  | .coOwnerAdd a => Sys2Proof.Machine.execCoOwnerAdd a s
  | .recordPost => Sys2Proof.Machine.execRecordPost s
  | .datagramCloseTimeout lane h => Sys2Proof.Machine.execDatagramCloseTimeout lane h s
  | .stopBoundary h => Sys2Proof.Machine.execStopBoundary h s
  | .productComplete h => Sys2Proof.Machine.execProductComplete h s
  | .spareMap tile bist => Sys2Proof.Machine.execSpareMap tile bist s
  | .sweepEnd sw => Sys2Proof.Machine.execSweepEnd sw s
  | .weightSwap h => Sys2Proof.Machine.execWeightSwap h s
  | .powerSpanAdd h => Sys2Proof.Machine.execPowerSpanAdd h s
  | .captureWriteStart h => Sys2Proof.Machine.execCaptureWriteStart h s
  | .captureBlockWrite h => Sys2Proof.Machine.execCaptureBlockWrite h s
  | .refreshDue ch rank => Sys2Proof.Machine.execRefreshDue ch rank s
  | .refreshWindowClear ch => Sys2Proof.Machine.execRefreshWindowClear ch s
  | .moduleTempRead ch temp => Sys2Proof.Machine.execModuleTempRead ch temp s
  | .reserveSensorTimeout ch => Sys2Proof.Machine.execReserveSensorTimeout ch s
  | .patrol ch block bursts => Sys2Proof.Machine.execPatrol ch block bursts s
  | .powerDownIdle ch rank => Sys2Proof.Machine.execPowerDownIdle ch rank s
  | .auditorVisit die bank => Sys2Proof.Machine.execAuditorVisit die bank s
  | .pageRelocate page => Sys2Proof.Machine.execPageRelocate page s
  | .tellerWatchdogExpiry ch => Sys2Proof.Machine.execTellerWatchdogExpiry ch s
  | .tellerChannelFail ch cause => Sys2Proof.Machine.execTellerChannelFail ch cause s
  | .rejoinBistDone ch pass => Sys2Proof.Machine.execRejoinBistDone ch pass s
  | .rejoinTransferDone ch => Sys2Proof.Machine.execRejoinTransferDone ch s
  | .failedBistRetry ch pass => Sys2Proof.Machine.execFailedBistRetry ch pass s
  | .statementRewrite => Sys2Proof.Machine.execStatementRewrite s
  | .safeCopyRefresh => Sys2Proof.Machine.execSafeCopyRefresh s
  | .healthRecordPost lane => Sys2Proof.Machine.execHealthRecordPost lane s
  | .monitorSample readings => Sys2Proof.Machine.execMonitorSample readings s
  | .throttleFall => Sys2Proof.Machine.execThrottleFall s
  | .systemKernelReload formatter served => Sys2Proof.Machine.execSystemKernelReload formatter served s
  | .kernelStopTimeout h => Sys2Proof.Machine.execKernelStopTimeout h s
  | .maxCyclesExceeded e => Sys2Proof.Machine.execMaxCyclesExceeded e s
  | .waitResume e => Sys2Proof.Machine.execWaitResume e s
  | .illegalInstruction e => Sys2Proof.Machine.execIllegalInstruction e s
  | .vxNop ctx slot w => Sys2Proof.Machine.execVxNop ctx slot w s
  | .vld ctx w => Sys2Proof.Machine.execVld ctx w s
  | .vldp ctx w => Sys2Proof.Machine.execVldp ctx w s
  | .vst ctx w => Sys2Proof.Machine.execVst ctx w s
  | .vstp ctx w => Sys2Proof.Machine.execVstp ctx w s
  | .vlds ctx w => Sys2Proof.Machine.execVlds ctx w s
  | .vgath ctx w => Sys2Proof.Machine.execVgath ctx w s
  | .vscat ctx w => Sys2Proof.Machine.execVscat ctx w s
  | .xld ctx w => Sys2Proof.Machine.execXld ctx w s
  | .xst ctx w => Sys2Proof.Machine.execXst ctx w s
  | .vfadd ctx w => Sys2Proof.Machine.execVfadd ctx w s
  | .vfsub ctx w => Sys2Proof.Machine.execVfsub ctx w s
  | .vfmul ctx w => Sys2Proof.Machine.execVfmul ctx w s
  | .vfma ctx w => Sys2Proof.Machine.execVfma ctx w s
  | .vfmin ctx w => Sys2Proof.Machine.execVfmin ctx w s
  | .vfmax ctx w => Sys2Proof.Machine.execVfmax ctx w s
  | .vfcmp ctx w => Sys2Proof.Machine.execVfcmp ctx w s
  | .vcvtIf ctx w => Sys2Proof.Machine.execVcvtIf ctx w s
  | .vcvtFi ctx w => Sys2Proof.Machine.execVcvtFi ctx w s
  | .vcvtHf ctx w => Sys2Proof.Machine.execVcvtHf ctx w s
  | .vcvtFh ctx w => Sys2Proof.Machine.execVcvtFh ctx w s
  | .vfabs ctx w => Sys2Proof.Machine.execVfabs ctx w s
  | .vadd ctx w => Sys2Proof.Machine.execVadd ctx w s
  | .vsub ctx w => Sys2Proof.Machine.execVsub ctx w s
  | .vmul ctx w => Sys2Proof.Machine.execVmul ctx w s
  | .vmulh ctx w => Sys2Proof.Machine.execVmulh ctx w s
  | .vadd64 ctx w => Sys2Proof.Machine.execVadd64 ctx w s
  | .vsub64 ctx w => Sys2Proof.Machine.execVsub64 ctx w s
  | .vand ctx w => Sys2Proof.Machine.execVand ctx w s
  | .vor ctx w => Sys2Proof.Machine.execVor ctx w s
  | .vxor ctx w => Sys2Proof.Machine.execVxor ctx w s
  | .vsh ctx w => Sys2Proof.Machine.execVsh ctx w s
  | .vsel ctx w => Sys2Proof.Machine.execVsel ctx w s
  | .vperm ctx w => Sys2Proof.Machine.execVperm ctx w s
  | .vbcast ctx w => Sys2Proof.Machine.execVbcast ctx w s
  | .vmovi ctx w => Sys2Proof.Machine.execVmovi ctx w s
  | .vcmp ctx w => Sys2Proof.Machine.execVcmp ctx w s
  | .vpack ctx w => Sys2Proof.Machine.execVpack ctx w s
  | .vcrc ctx w => Sys2Proof.Machine.execVcrc ctx w s
  | .mop ctx w => Sys2Proof.Machine.execMop ctx w s
  | .xclr ctx w => Sys2Proof.Machine.execXclr ctx w s
  | .xaddf ctx w => Sys2Proof.Machine.execXaddf ctx w s
  | .xsubf ctx w => Sys2Proof.Machine.execXsubf ctx w s
  | .xaddi ctx w => Sys2Proof.Machine.execXaddi ctx w s
  | .xaddu ctx w => Sys2Proof.Machine.execXaddu ctx w s
  | .xaddx ctx w => Sys2Proof.Machine.execXaddx ctx w s
  | .xrnd ctx w => Sys2Proof.Machine.execXrnd ctx w s
  | .xrndl ctx w => Sys2Proof.Machine.execXrndl ctx w s
  | .xflag ctx w => Sys2Proof.Machine.execXflag ctx w s
  | .vxBr ctx w => Sys2Proof.Machine.execVxBr ctx w s
  | .brany ctx w => Sys2Proof.Machine.execBrany ctx w s
  | .brall ctx w => Sys2Proof.Machine.execBrall ctx w s
  | .pcyc ctx w => Sys2Proof.Machine.execPcyc ctx w s
  | .setc ctx w => Sys2Proof.Machine.execSetc ctx w s
  | .getc ctx w => Sys2Proof.Machine.execGetc ctx w s
  | .vxWait ctx w => Sys2Proof.Machine.execVxWait ctx w s
  | .vxHalt ctx w => Sys2Proof.Machine.execVxHalt ctx w s
  | .clerkNop n w => Sys2Proof.Machine.execClerkNop n w s
  | .mac n w => Sys2Proof.Machine.execMac n w s
  | .mpy n w => Sys2Proof.Machine.execMpy n w s
  | .cmac n w => Sys2Proof.Machine.execCmac n w s
  | .rnd n w => Sys2Proof.Machine.execRnd n w s
  | .mva n w => Sys2Proof.Machine.execMva n w s
  | .adda n w => Sys2Proof.Machine.execAdda n w s
  | .suba n w => Sys2Proof.Machine.execSuba n w s
  | .asha n w => Sys2Proof.Machine.execAsha n w s
  | .clr n w => Sys2Proof.Machine.execClr n w s
  | .clerkAdd n w => Sys2Proof.Machine.execClerkAdd n w s
  | .clerkSub n w => Sys2Proof.Machine.execClerkSub n w s
  | .logic n w => Sys2Proof.Machine.execLogic n w s
  | .sh n w => Sys2Proof.Machine.execSh n w s
  | .ldi n w => Sys2Proof.Machine.execLdi n w s
  | .ldh n w => Sys2Proof.Machine.execLdh n w s
  | .mvp n w => Sys2Proof.Machine.execMvp n w s
  | .cmp n w => Sys2Proof.Machine.execCmp n w s
  | .norm n w => Sys2Proof.Machine.execNorm n w s
  | .neg n w => Sys2Proof.Machine.execNeg n w s
  | .rep n w => Sys2Proof.Machine.execRep n w s
  | .clerkBr n w => Sys2Proof.Machine.execClerkBr n w s
  | .clerkWait n w => Sys2Proof.Machine.execClerkWait n w s
  | .clerkHalt n w => Sys2Proof.Machine.execClerkHalt n w s
  | .tkResync held => Sys2Proof.Machine.execTkResync held s
  | .ppsInEdge stamp highNs => Sys2Proof.Machine.execPpsInEdge stamp highNs s
  | .ppsValidExpiry => Sys2Proof.Machine.execPpsValidExpiry s
  | .disciplineSecond => Sys2Proof.Machine.execDisciplineSecond s
  | .tkrefLoss => Sys2Proof.Machine.execTkrefLoss s
  | .ppsOutSecond => Sys2Proof.Machine.execPpsOutSecond s
  | .ppsOutEnd => Sys2Proof.Machine.execPpsOutEnd s
  | .scheduleFire slot => Sys2Proof.Machine.execScheduleFire slot s
  | .scheduledCommand slot => Sys2Proof.Machine.execScheduledCommand slot s
  | .syncOutPulseEnd pin => Sys2Proof.Machine.execSyncOutPulseEnd pin s
  | .cdcStall island other => Sys2Proof.Machine.execCdcStall island other s
  | .prbsCheckerLock lane stream => Sys2Proof.Machine.execPrbsCheckerLock lane stream s
  | .prbsCheckerLoss lane bits errors => Sys2Proof.Machine.execPrbsCheckerLoss lane bits errors s
  | .egressFaultClear lane => Sys2Proof.Machine.execEgressFaultClear lane s
  | .slewEnd => Sys2Proof.Machine.execSlewEnd s
  | .msixUnmask vector => Sys2Proof.Machine.execMsixUnmask vector s
  | .d3hotExit => Sys2Proof.Machine.execD3hotExit s
  | .perstDeassert => Sys2Proof.Machine.execPerstDeassert s
  | .pcieLinkUp width speed => Sys2Proof.Machine.execPcieLinkUp width speed s
  | .msixHoldoffEnd vector => Sys2Proof.Machine.execMsixHoldoffEnd vector s
  | .bootBistDone a b c => Sys2Proof.Machine.execBootBistDone a b c s
  | .supplyLoss => Sys2Proof.Machine.execSupplyLoss s
  | .tapClock trst tms tdi => Sys2Proof.Machine.execTapClock trst tms tdi s
  | .spanReady h span => Sys2Proof.Machine.execSpanReady h span s
  | .tillBlockWritten ch => Sys2Proof.Machine.execTillBlockWritten ch s
  | .pcieCompletionTimeout rd => Sys2Proof.Machine.execPcieCompletionTimeout rd s
  | .caParityAlert ch failedReplays => Sys2Proof.Machine.execCaParityAlert ch failedReplays s

end Sys2Proof.Machine
end

