-- ==== Sys2Proof/Machine/Step.lean ====
section
/-! DEFINITION. One step: the command at the front of the queue, or one TK cycle when none waits
(notes/assumptions/1.md). -/
namespace Sys2Proof.Machine

/-- Take the front command and run it on the state with the queue's rest; with an empty queue the Timekeeper counts
one TK cycle (R413) while the device has power. -/
def step (s : State) : Host.Outcome State Fault Refusal :=
  match s.pending with
  | [] => .next (tick s)
  | c :: t => exec c { s with pending := t }

/-- `s` with the command a table word spells in front of its queue; `s` where the word spells none. -/
def State.withFetchWord (s : State) (nbits w : Nat) : State :=
  match decodeTableWord nbits w with
  | some c => { s with pending := c :: s.pending }
  | none => s

end Sys2Proof.Machine
end

