-- ==== Sys2Proof/Safety.lean ====
section
/-! DEFINITION. The words in which statements speak of a run: a command whose turn it is and that no check refuses, what
committing it leaves behind, and which parts of the state a change may touch. -/
namespace Sys2Proof.Machine

/-- A turn of a source: its head is the packet `p`, of opcode `op`, not to be forwarded, and the Teller can take it (R324,
R331, R348). -/
def Turn (op : Nat) (src : Source) (wr : Bool) (image : ReadResult) (p : Pkt) (s : State) : Prop :=
  s.pktOf src wr image = some p ∧ p.op = op ∧ p.isForward = false ∧ s.canTake src p = true

/-- A turn whose packet passes every check of R340. -/
def Accepted (op : Nat) (body : Pkt → State → Body) (src : Source) (wr : Bool) (image : ReadResult) (p : Pkt) (s : State) :
    Prop :=
  Turn op src wr image p s ∧ p.refusal (body p (s.pop src)) (s.pop src) = none

/-- The commit record of a packet with a status (R349), and that exactly one commit took place. -/
def Committed (p : Pkt) (status : Nat) (s t : State) : Prop :=
  t.teller.commits = s.teller.commits + 1 ∧
    t.teller.lastCommit = some { src := p.src, op := p.op, tag := p.tag, status := status, applied := true, posted := true }

/-- The state `t` follows from `s` by a command whose own effect on it made `u`: the commit record, the reply paths and the
notices of events aside, `t` is `u`, with the rewrite of the Ledger that its change begins (R35) and with the fuses (R42) and the waiting
commands of `s`. -/
def RepliedOnly (s u t : State) : Prop :=
  t = { settled s u with
    teller := t.teller, ring := t.ring, spi := t.spi, host := t.host, out := t.out, ports := t.ports, health := t.health }

/-- The state in which a command that commits with the result `r` leaves the device, when its effect makes `u` of the state
without it: the commit record, then the final reply, then the event notices of R450. -/
def replied (s : State) (p : Pkt) (r : Res) (u : State) : State :=
  settled s (noticeFlags s (p.reply true r (u.record p r.status)))

/-- The state in which a DEFERRED command leaves the device that waits for `w`: the commit record, a first reply of status
QUEUED, then the fences that stand first in the order of commits (R346, R348). -/
def queued (s : State) (p : Pkt) (r : Res) (w : Wait) (u : State) : State :=
  let v := p.reply false { r with status := stQueued } (u.record p stQueued)
  let d : Deferred := { src := p.src, op := p.op, tag := p.tag, notify := p.notify, handle := r.handle, seq := v.teller.commits,
                        wait := w, lost := p.lost }
  let v := v.updTeller fun t => { t with deferred := t.deferred ++ [d] }
  settled s (noticeFlags s (flushFences v.teller.deferred.length v))

/-- The state in which a DEFERRED command leaves the device that completes at once: two replies in order (R346). -/
def repliedTwice (s : State) (p : Pkt) (r f : Res) (u : State) : State :=
  settled s (noticeFlags s (p.reply true f (p.reply false { r with status := stQueued } (u.record p stQueued))))

/-- The state after an effect that can move EVENT_FLAGS. -/
def noticed (s u : State) : State := settled s (noticeFlags s u)

/-! ### Words of the vector engine -/

/-- The registers that the words of a bundle read: those as of its issue, which the L slot's word fixes. -/
def State.vxReads (s : State) (c : Nat) (slot : Slot) : VxRegs :=
  if slot = .l then (s.ctx c).regs else ((s.ctx c).issue).getD (s.ctx c).regs

/-- The word of opcode `op` is the next of its context, its stage is live (R256, R260), and no bit of its bundle is inverted where the
bundle is fetched (R305); `r` is what it reads. -/
def VxLive (c : Nat) (slot : Slot) (op : Nat) (w : VxWord) (s : State) (r : VxRegs) : Prop :=
  s.vxNext c slot op w = true ∧ r = s.vxReads c slot ∧ (heedsStage slot op = true → r.live w.stage.toNat = true) ∧
    (slot = .l → Memory.get [] (s.vx.progFlips.getD c []) (s.ctx c).pc = [])

/-- No earlier word of the bundle wrote vector register or predicate or accumulator `k` (numbers of `regM` and `regX`). -/
def State.unwritten (s : State) (c : Nat) (slot : Slot) (k : Nat) : Prop := slot = .l ∨ (s.ctx c).writtenLanes k = 0

/-- The context is one word on with these registers; after the X slot it is `off` bundles on and has counted the bundle. Nothing
outside the vector engine and the model's counter of free values has changed, and nothing in data memory. -/
def VxMoved (c : Nat) (slot : Slot) (off : Int) (regs : VxRegs) (s t : State) : Prop :=
  t = { s with vx := t.vx, freeCtr := t.freeCtr } ∧ (∀ n, n ≠ c → t.ctx n = s.ctx n) ∧ t.vx.data = s.vx.data ∧ t.vx.prog = s.vx.prog ∧
    (t.ctx c).running = true ∧ (t.ctx c).wait = none ∧
    if slot = .x then
      (t.ctx c).regs = { regs with cyc := regs.cyc + 1 } ∧ (t.ctx c).slot = 0 ∧ (t.ctx c).pc = (((s.ctx c).pc + off) % 4096).toNat
    else (t.ctx c).regs = regs ∧ (t.ctx c).slot = (s.ctx c).slot + 1 ∧ (t.ctx c).pc = (s.ctx c).pc

/-- Registers with f in the enabled lanes of physical vector register k. -/
def VxRegs.withLanes (g : VxRegs) (k mask : Nat) (f : Nat → Nat) : VxRegs :=
  { g with v := g.v.modify k fun v => ofLanes ((List.range 64).map fun i => if bit mask i then f i % 2 ^ 32 else (vlanes v).getD i 0) }

/-- Registers with bits in the enabled places of predicate k; m0 never changes. -/
def VxRegs.withMask (g : VxRegs) (k mask v : Nat) : VxRegs :=
  if k % 8 = 0 then g
  else { g with m := g.m.modify (k % 8) fun old => old &&& ~~~ BitVec.ofNat 64 mask ||| BitVec.ofNat 64 v &&& BitVec.ofNat 64 mask }

/-- Registers with f in the enabled lanes of accumulator k. -/
def VxRegs.withAcc (g : VxRegs) (k mask : Nat) (f : Nat → AccLane) : VxRegs :=
  let new := (List.range 64).map fun i => if bit mask i then f i else (g.acc k).getD i { v := 0 }
  { g with x := g.x.set k (ofXlanes (new.map (·.v))), xovf := g.xovf.set k (BitVec.ofNat 64 (ofMask (new.map (·.ovf))))
           xnan := g.xnan.set k (BitVec.ofNat 64 (ofMask (new.map (·.nan)))) }

/-- Registers with sticky FF bits. -/
def VxRegs.withFf (g : VxRegs) (ff : Nat) : VxRegs := { g with ff := g.ff ||| BitVec.ofNat 4 ff }

/-- FF bits that the enabled lanes raise. -/
def ffOf (mask : Nat) (f : Nat → Nat) : Nat := (List.range 64).foldr (fun i n => (if bit mask i then f i else 0) ||| n) 0

/-- The word has put f into the enabled lanes of D, FF has gained the bits `ff`, and the context has gone on; nothing else changed. -/
def VxWrote (c : Nat) (slot : Slot) (w : VxWord) (r : VxRegs) (f : Nat → Nat) (ff : Nat) (s t : State) : Prop :=
  VxMoved c slot 1 (((s.ctx c).regs.withLanes (r.phys w.d.toNat) (r.mask w.pred.toNat) f).withFf ff) s t

/-- The user kernel's run has ended with a fault of its engine 0 (R282, R283). -/
def VxEnded (exit : Nat) (s t : State) : Prop :=
  (t.ctx 1).running = false ∧ ∀ h k, s.vxKernel = some h → s.kernel? h = some k → k.vx = true → s.hstate h = .running → k.faulted = 0 →
    t.hstate h = .stopped ∧ (t.kernel? h).map (fun k => (k.exit, k.faulted)) = some (BitVec.ofNat 32 exit, 1) ∧
      ∀ d ∈ t.teller.deferred, d.wait ≠ .kernelRun h

/-- Every enabled lane's word lies in the data memory that context c may reach. -/
def VxReach (c mask : Nat) (addr : Nat → Nat) : Prop :=
  ∀ i, i < 64 → bit mask i = true → addr i % 4 = 0 ∧ addr i < 0x200000 ∧ (c = 0 ∨ 0x180000 ≤ addr i)

/-! ### Words of the clerks -/

/-- The word of opcode `op` is the next of clerk n, with two empty move slots, and no bit of it is inverted (R305). -/
def ClerkTurn (n op : Nat) (w : ClerkWord) (s : State) : Prop :=
  s.clerkNext n op w = true ∧ n < s.clerks.length ∧ w.mx = 0 ∧ w.my = 0 ∧ Memory.get [] (s.clerk n).progFlips (s.clerk n).pc = []

/-- Clerk n has gone on by one word, and nothing else but the model's counter of free values has changed: its place by the rules of
block repeats, its cycles, and the registers that `f` writes. -/
def ClerkMoved (n : Nat) (s t : State) (f : Clerk → Clerk) : Prop :=
  t = { s with clerks := t.clerks, freeCtr := t.freeCtr } ∧ (∀ m, m ≠ n → t.clerk m = s.clerk m) ∧
    t.clerk n = { f (s.clerk n) with
      pc := (repStep (s.clerk n).pc (s.clerk n).reps.reverse).1 % 16384
      reps := (repStep (s.clerk n).pc (s.clerk n).reps.reverse).2.reverse
      lc := (t.clerk n).lc, cyc := (t.clerk n).cyc, hot := (t.clerk n).hot }

/-- Clerk n's fault has ended the run of its user kernel (R282, R283). -/
def ClerkEnded (n exit : Nat) (s t : State) : Prop :=
  (t.clerk n).running = false ∧ ∀ h k, (s.clerk n).system = false → (s.clerk n).owner = some h → s.kernel? h = some k →
    s.hstate h = .running → k.faulted = 0 →
    t.hstate h = .stopped ∧ (t.kernel? h).map (fun k => (k.exit, k.faulted)) =
        some (BitVec.ofNat 32 exit, BitVec.ofNat 32 (2 ^ k.indexOf n)) ∧
      ∀ d ∈ t.teller.deferred, d.wait ≠ .kernelRun h

/-- Every sparse memory of the state is in canonical form: the generations of handle numbers, the Vault's words and pages, the
Reserve's bytes and bad blocks, and the data and program memories of the engines. -/
def State.Canonical (s : State) : Prop :=
  Memory.wf 1 s.handles.gens = true ∧ Memory.wf {} s.vault.words = true ∧ Memory.wf freePage s.vault.pages = true ∧
    Memory.wf 0 s.reserve.bytes = true ∧ Memory.wf ([], false) s.reserve.bad = true ∧ Memory.wf {} s.vx.data = true ∧
    Memory.wf 0 s.vx.prog = true ∧ (∀ m ∈ s.vx.progFlips, Memory.wf [] m = true) ∧
    ∀ c ∈ s.clerks, Memory.wf {} c.mem = true ∧ Memory.wf 0 c.prog = true ∧ Memory.wf [] c.progFlips = true

/-- R342: the indexes of live handles and those freed are all different and have all been taken at some time, and there are 4,096. -/
def Handles.Fit (t : Handles) : Prop :=
  ((t.live.map fun e => handleIndex e.h) ++ t.freed).Nodup ∧
    (∀ i ∈ (t.live.map fun e => handleIndex e.h) ++ t.freed, i < t.virgin) ∧ t.virgin ≤ 4096

end Sys2Proof.Machine
end

