-- ==== Sys2Proof/Certificates/Slice0/Obligations.lean ====
section
/-! DEFINITION. What the rules of spec/ say of the block, as statements to be proved: a chapter at a time, each clause the next
state of one command or event. `Accepted`, `replied`, `queued` and the like stand in Sys2Proof/Safety.lean. -/
set_option maxRecDepth 100000
open Sys2Proof Sys2Proof.Machine

/-! ### Commands of the device and of plane membership -/

/-- R349, R331, R335, R338: what `replied` is: one commit with the record of the command and its status; outside the Teller's
record, the reply paths and the notices of events nothing that the effect did not change; on the SPI port the 32 B of the
reply at the end of its reply queue, on the ring a write at RPL_TAIL, which advances. -/
def Obligations.RepliesCommitOnce : Prop :=
  ∀ (s u : State) (p : Pkt) (r : Res),
    Committed p r.status u (replied s p r u) ∧ RepliedOnly s u (replied s p r u) ∧
    (replied s p r u).teller.deferred = u.teller.deferred ∧
    (p.src = .spi → p.lost = false → (replied s p r u).spi.replyQ =
      u.spi.replyQ ++ [replyBytes p.op false false true 0 p.tag r (r.compl.getD (p.completion u))]) ∧
    (p.src = .ring → p.lost = false → u.host.linkUp = true → (replied s p r u).ring.rplTail = u.ring.rplTail + 1 ∧
      Output.hostWrite (u.rplAddr u.ring.rplTail) (replyBytes p.op (decide (u.ring.rplTail.toNat < 4096)) false true 0 p.tag r
        (r.compl.getD (p.completion u))) ∈ (replied s p r u).out)

/-- R361, R362, R363, R48, R412, R348: NOP replies OK and does nothing else, in SAFE_STATE too; it and IDENTIFY have no
parameters; IDENTIFY replies GENERATION, FW_VERSION, and PLANE, PEER and JOINED; LEDGER_READ delivers the image from OFFSET on
with GENERATION; an opcode that is not implemented is refused with BAD_OPCODE; a FENCE with nothing before it ends at once. -/
def Obligations.DeviceCommandsReply : Prop :=
  ∀ (s : State) (src : Source) (p : Pkt),
    (Accepted 0x00 nopBody src true .failed p s → exec (.nop src) s = .next (replied s p {} (s.pop src))) ∧
    (Turn 0x00 src true .failed p s → p.sourceLengthOk = true → p.auth = false → s.health.stalled.contains 13 = false →
      (p.len = 4 → p.headerBad = false → p.target = 0 → s.ledger.firstDone = true → s.teller.safe = true →
        exec (.nop src) s = .next (replied s p {} (s.pop src))) ∧
      (p.len ≠ 4 → exec (.nop src) s = .next (replied s p { status := stLength } (s.pop src)))) ∧
    (Turn 0x01 src true .failed p s → p.sourceLengthOk = true → p.auth = false → s.health.stalled.contains 13 = false →
      p.len ≠ 4 → exec (.identify src) s = .next (replied s p { status := stLength } (s.pop src))) ∧
    (Accepted 0x01 identifyBody src true .failed p s →
      exec (.identify src) s = .next (replied s p
        { r0 := s.ledger.generation.toNat, r1 := s.ledger.fwVersion.toNat
          r2 := s.plane.ownPlane + s.plane.ownPeer * 2 ^ 16 + flagBit s.plane.joined 24 } (s.pop src))) ∧
    (∀ wr part, Accepted 0x02 ledgerReadBody src wr .failed p s → part = s.ledgerImage.drop (u32 p.b 16) →
      (p.deliver 24 32 part (s.pop src)).2.2.2 = false →
      exec (.ledgerRead src wr) s = .next (replied s p
        { r0 := s.ledger.generation.toNat, r1 := min (p.room 32) part.length, r2 := part.length - min (p.room 32) part.length }
        (p.deliver 24 32 part (s.pop src)).1)) ∧
    (s.pktOf src true .failed = some p → p.isForward = false → s.canTake src p = true → p.sourceLengthOk = true →
      s.health.stalled.contains 13 = false → opcodes.contains p.op = false →
      exec (.badOpcode src) s = .next (replied s p { status := stOpcode } (s.pop src))) ∧
    (Accepted 0x72 fenceBody src true .failed p s → s.teller.deferred = [] →
      exec (.fence src) s = .next (queued s p {} .fence (s.pop src)) ∧ (queued s p {} .fence (s.pop src)).teller.deferred = [])

/-- R364, R365, R371, R113: KEY_LOAD of a free slot stores the key in state LOADED with its usage and identifier and makes a
handle, and one of a LOADED slot replaces its key under its handle; LOCK makes the LOADED slots of its mask LOCKED and leaves the
others; PORT_BIND writes the expected-peer entry of its port, a bound one going through DOWN, and the port takes the state that
follows. -/
def Obligations.KeysAndPortsAreSet : Prop :=
  ∀ (s : State) (src : Source) (p : Pkt),
    (Accepted 0x03 keyLoadBody src true .failed p s → p.target = 0 →
      ∃ h hs, s.handles.alloc (.keySlot (u8 p.b 16)) = some (h, hs) ∧
        exec (.keyLoad src) s = .next (replied s p { handle := h, r0 := u8 p.b 16 }
          (({ s.pop src with handles := hs }.updKey (u8 p.b 16) fun _ =>
            { state := 1, usage := u8 p.b 17, keyId := BitVec.ofNat 32 (u32 p.b 20), key := slice p.b 24 16, handle := h }).ledgerChange))) ∧
    (Accepted 0x03 keyLoadBody src true .failed p s → p.target ≠ 0 →
      exec (.keyLoad src) s = .next (replied s p { handle := p.target, r0 := u8 p.b 16 }
        (((s.pop src).updKey (u8 p.b 16) fun _ =>
          { state := 1, usage := u8 p.b 17, keyId := BitVec.ofNat 32 (u32 p.b 20), key := slice p.b 24 16, handle := p.target }).ledgerChange))) ∧
    (Accepted 0x04 lockBody src true .failed p s →
      ∃ u, exec (.lock src) s = .next (replied s p {} u) ∧
        ∀ n, n < 16 → u.keySlot n = if bit (u16 p.b 16) n && (s.keySlot n).state == 1 then { s.keySlot n with state := 2 } else s.keySlot n) ∧
    (Accepted 0x13 portBindBody src true .failed p s →
      exec (.portBind src) s = .next (replied s p {}
        (((if (s.port (u8 p.b 16)).state = .unbound then s.pop src else (s.pop src).portTo (u8 p.b 16) .down false).updPort (u8 p.b 16)
          fun q => { q with entry := peerEntryOf (u64 p.b 24), heard := false }).portEval (u8 p.b 16))))

/-- R373, R114, R118, R374: PLANE_JOIN sets the plane and peer of the package; PLANE_LEAVE sends a last HELLO with LEAVING on each
UP port, returns the package to no plane and discards its map; PLANE_MAP holds a new map of that generation and those streams until
its time, and CANCEL alone withdraws the one held. -/
def Obligations.PlaneMembershipChanges : Prop :=
  ∀ (s : State) (src : Source) (p : Pkt),
    (Accepted 0x18 planeJoinBody src true .failed p s →
      exec (.planeJoin src) s = .next (replied s p {} (State.evalPorts { s.pop src with
        plane := { s.plane with joined := true, planeId := BitVec.ofNat 16 (u16 p.b 16), peerId := u8 p.b 18, dieIds := [] } }))) ∧
    (Accepted 0x1A planeLeaveBody src true .failed p s →
      ∃ u : State, exec (.planeLeave src) s = .next (replied s p {} (u.evalPorts)) ∧
        (∀ n, { u.port n with tx := {} } = { s.port n with tx := {} }) ∧ (∀ o ∈ s.out, o ∈ u.out) ∧
        (∀ n, n < 64 → (s.port n).state = .up → Output.fabric n (s.helloBytes n true) ∈ u.out) ∧
        u.plane = { s.plane with joined := false, planeId := 0, peerId := 0, map := none, switched := [], starts := [], old := [],
                                 accepted := [], partials := [] } ∧
        u.handles = s.handles ∧ u.lanes = s.lanes ∧ u.ledger = s.ledger) ∧
    (Accepted 0x19 planeMapBody src true .failed p s → bit (u8 p.b 20) 0 = true → u8 p.b 21 = 0 →
      exec (.planeMap src) s = .next (replied s p {}
        (State.trimAll { s.pop src with plane := { s.plane with pending := none, switched := [] } }))) ∧
    (Accepted 0x19 planeMapBody src true .failed p s → u8 p.b 21 ≠ 0 →
      ∃ m, m.gen = BitVec.ofNat 32 (u32 p.b 16) ∧ m.streams.length = u8 p.b 21 ∧
        exec (.planeMap src) s = .next (replied s p { r0 := m.gen.toNat }
          (((s.pop src).withPending m (BitVec.ofNat 64 (u64 p.b 24))).growAll)))

/-! ### Credits -/

/-- R105, R106, R111: an UP port owes a CREDIT block with its count of the credits released by now; a CREDIT block whose complement
matches and which leaves 0 to 32 credits outstanding is taken over and any other counts one DROP_FORM; a port of 32 outstanding
credits at which a credited packet waits counts one CREDIT_STALL, sets its flag and raises the event. -/
def Obligations.CreditsMove : Prop :=
  ∀ (s : State) (p : Nat), p < s.ports.length → (s.port p).state = .up →
    exec (.creditSend p) s = .next ((s.updPort p fun q => { q.finish s.now with tx := { q.tx with credit := true } }).emit
      (.credit p (BitVec.ofNat 16 ((s.port p).rxReleased + (s.port p).rxHeld.countP (· ≤ s.now))))) ∧
    (s.portHears p = true → ∀ released compl : BitVec 16,
      ∃ t, exec (.creditBlockReceive p released compl) s = .next t ∧ t = { s with ports := t.ports } ∧
        (∀ n, n ≠ p → t.port n = s.port n) ∧
        if compl = ~~~released ∧ ({ s.port p with txReleased := released.toNat }).outstanding ≤ 32 then
          (t.port p).txReleased = released.toNat ∧ (t.port p).cnt = (s.port p).cnt
        else (t.port p).txReleased = (s.port p).txReleased ∧ (t.port p).cnt.dropForm = satAdd 32 (s.port p).cnt.dropForm 1) ∧
    ((s.port p).outstanding = 32 → (s.port p).stalled = false → s.creditedWaits p = true →
      ∃ t, exec (.creditStall p) s = .next t ∧ t = { s with ports := t.ports, health := t.health, host := t.host, out := t.out } ∧
        t.port p = { s.port p with stalled := true
                                   cnt := { (s.port p).cnt with creditStall := satAdd 16 (s.port p).cnt.creditStall 1 } } ∧
        t.health = { s.health with events := s.health.events ||| BitVec.ofNat 32 (2 ^ 15) })

/-! ### Control packets leave -/

/-- R100, R101, R102, R109, R424: HELLO leaves a port in LINKED or UP, HEALTH and TIME one in UP: 64 B that end with the CRC-32C of
the 60 before it, of their TYPE, VERSION 1, PEER, PLANE and LENGTH, given to the port's transmitter ahead of DATA or as urgent;
HELLO has LINK_EPOCH, DIE_ID and the count of credited packets sent; the TIME packet counts TSEQ and keeps its departure, and one
that finds eight urgent packets waiting counts one CTRL_DROP instead. -/
def Obligations.ControlPacketsLeave : Prop :=
  ∀ (s : State) (p : Nat), p < s.ports.length →
    ((s.port p).state = .linked ∨ (s.port p).state = .up →
      ∃ b, b.length = 60 ∧ b.take 8 = ctrlHead 0x10 64 s.plane.ownPeer (s.port p).entry.peer s.plane.ownPlane ∧
        u32 b 12 = (s.port p).epochOwn.toNat ∧ u64 b 16 = s.fuse.dieId.toNat ∧ u32 b 40 = (s.port p).txSent % 2 ^ 32 ∧
        exec (.helloSend p) s = .next ((s.updTx p fun t => t.addBulk 0 (frameBlocks false false (withCrc b))).emit (.fabric p (withCrc b)))) ∧
    ((s.port p).state = .up →
      (∃ b, b.length = 60 ∧ b.take 8 = ctrlHead 0x11 64 s.plane.ownPeer (s.port p).entry.peer s.plane.ownPlane ∧
        exec (.healthSend p) s = .next ((s.updTx p fun t => t.addBulk 0 (frameBlocks false false (withCrc b))).emit (.fabric p (withCrc b)))) ∧
      (∀ depart, s.urgentFull p = false →
        ∃ b t, b.length = 60 ∧ b.take 8 = ctrlHead 0x20 64 s.plane.ownPeer (s.port p).entry.peer s.plane.ownPlane ∧
          u32 b 8 = (s.port p).time.tseq % 2 ^ 32 ∧
          exec (.timeSend p depart) s = .next t ∧ t = { s with ports := t.ports, out := s.out ++ [.fabric p (withCrc b)] } ∧
          (t.port p).time.tseq = ((s.port p).time.tseq + 1) % 2 ^ 32 ∧ (t.port p).time.prevDepart = depart ∧
          (t.port p).tx = (s.port p).tx.addUrgent false (frameBlocks true false (withCrc b)) ∧ (∀ n, n ≠ p → t.port n = s.port n)) ∧
      (∀ depart, s.urgentFull p = true → exec (.timeSend p depart) s =
        .next (s.countPort p fun c => { c with ctrlDrop := satAdd 32 c.ctrlDrop 1 })))

/-! ### Control packets arrive -/

/-- R93, R94, R100, R101, R107, R115, R117, R425: the blocks of a packet of whole data blocks yield the packet, an urgent one also inside a
bulk one, and with STATUS aborted a discard. A valid HELLO with JOINED set and neither LEAVING nor SAFE_STATE takes a LINKED port to
UP under its LINK_EPOCH, with the sent credits and sequences at their start, those received at the count of the HELLO, and its DIE_ID
recorded; one with LEAVING takes an UP port to LINKED; a HEALTH is kept as the latest of its peer; a TIME packet leaves its TSEQ and
its arrival. -/
def Obligations.ControlPacketsArrive : Prop :=
  (∀ (r : PortRx) (b : List Byte), r.urgent = none → b.length % 8 = 0 → b.length < 8 * 65536 →
    r.feed (frameBlocks true false b) = ({ r with stray := false }, [.packet b]) ∧
    (r.bulk = none → r.feed (frameBlocks false false b) = ({ r with stray := false }, [.packet b]) ∧
      r.feed (frameBlocks false true b) = ({ r with stray := false }, [.discard (some (u8 b 0))]))) ∧
  (∀ (s v : State) (p : Nat) (a : Arrival) (b : List Byte), p < s.ports.length → s.portHears p = true →
    (s.portTake p false a = ([.packet b], v) → v.ctrlSound p 0x10 64 [(44, 16)] b = .good → bits (u32 b 8) 31 5 = 0 →
      ((v.port p).state = .linked → v.dieIdOf (v.port p).entry.peer = none → bit (u32 b 8) 0 = true → bit (u32 b 8) 1 = false →
        bit (u32 b 8) 3 = false →
        ∃ t, exec (.helloReceive p a) s = .next t ∧ (t.port p).state = .up ∧ (t.port p).epochAtUp = BitVec.ofNat 32 (u32 b 12) ∧
          (t.port p).epochOwn = (v.port p).epochOwn + 1 ∧ t.dieIdOf (v.port p).entry.peer = some (BitVec.ofNat 64 (u64 b 16)) ∧
          (t.port p).txSent = 0 ∧ (t.port p).txReleased = 0 ∧ (t.port p).seqTx = 0 ∧
          (t.port p).rxCount = (if u32 b 40 < 2 ^ 31 then u32 b 40 else 0) ∧ (t.port p).rxReleased = (t.port p).rxCount) ∧
      ((v.port p).state = .up → bit (u32 b 8) 1 = true →
        ∃ t, exec (.helloReceive p a) s = .next t ∧ (t.port p).state = .linked ∧ (t.port p).txData = [] ∧ (t.port p).rxHeld = [] ∧
          (t.port p).cnt.txDrop = satAdd 32 (v.port p).cnt.txDrop (v.port p).txData.length)) ∧
    (s.portTake p false a = ([.packet b], v) → v.ctrlSound p 0x11 64 [(10, 2), (26, 2), (48, 12)] b = .good →
      (v.port p).state = .linked ∨ (v.port p).state = .up →
      exec (.healthReceive p a) s = .next { v with plane := { v.plane with
        health := (v.plane.health.filter fun e => e.1 != u8 b 2) ++ [(u8 b 2, b)] } }) ∧
    (s.portTake p true a = ([.packet b], v) → v.ctrlSound p 0x20 64 [(28, 4), (41, 19)] b = .good → bit (u8 b 40) 3 = false →
      (v.port p).state = .up → ∀ arrival,
      ∃ t, exec (.timeReceive p a arrival) s = .next t ∧ t = { v with ports := t.ports } ∧
        (t.port p).time.rxTseq = u32 b 8 ∧ (t.port p).time.rxArrival = arrival ∧ (t.port p).time.peerTk = BitVec.ofNat 8 (u8 b 40) ∧
        (∀ n, n ≠ p → t.port n = v.port n)))

/-- R115, R128: an UP port whose last good HELLO is 3.5 ms old falls to LINKED, drops its queued DATA and counts each; at the
end of the hold-off a quarantined port takes the state that alignment and markers give. -/
def Obligations.PortsFallBack : Prop :=
  ∀ (s : State) (p : Nat), p < s.ports.length →
    (∀ t0, (s.port p).state = .up → (s.port p).helloAt = some t0 → t0 + 3500 * tickUs ≤ s.now →
      ∃ t, exec (.helloTimeout p) s = .next t ∧ (t.port p).state = .linked ∧ (t.port p).txData = [] ∧
        (t.port p).cnt = { (s.port p).cnt with txDrop := satAdd 32 (s.port p).cnt.txDrop (s.port p).txData.length } ∧
        (t.port p).lastChange = s.stamp ∧ t.health.events.getLsbD 15 = true ∧ t.plane = s.plane ∧ t.handles = s.handles) ∧
    ((s.port p).state = .quarantined → (s.port p).quarantineUntil ≤ s.now →
      ∃ t, exec (.quarantineEnd p) s = .next t ∧ (t.port p).state = s.portSettled p ∧ t.plane = s.plane ∧ t.handles = s.handles)

/-- R124, R125, R126, R127, R129, R244: a CMD packet of sound form on an UP port, within its rate, under the bound slot, with
a good tag and a sequence above the highest accepted goes to the Teller and becomes the highest; a TRIG packet of the same
merits becomes the highest too; one that repeats a sequence counts one REPLAY. -/
def Obligations.AuthenticatedPacketsAct : Prop :=
  ∀ (s v : State) (p : Nat) (a : Arrival) (b : List Byte), p < s.ports.length → s.portHears p = true → (v.port p).state = .up →
    crcLastOk b = true → v.addressed p (u8 b 2) (u8 b 3) (u16 b 4) = true →
    (∀ slot k, s.portTake p false a = ([.packet b], v) → slot = (v.port p).entry.cmdSlot → k = v.keySlot slot → slot < v.ledger.keys.length →
      cmdFormOk b = true → u8 b 8 = slot →
      k.state ≠ 0 → u8 b 9 = 0 → (rateStep v.now (v.port p).entry.cmdRate (v.port p).cmdThisSecond).2 = true →
      v.teller.fabQ.countP (fun e => e.1 == p) < 8 →
      cmdTag k.key b ((cmdBody b).take ((cmdBody b).length - 8)) = (cmdBody b).drop ((cmdBody b).length - 8) →
      k.highOf (v.port p).entry.peer < u32 (cmdBody b) 12 →
      ∃ t, exec (.cmdReceive p a) s = .next t ∧
        t.teller.fabQ = v.teller.fabQ ++ [(p, { src := .fabric p, bytes := cmdBody b })] ∧
        (t.keySlot slot).highOf (v.port p).entry.peer = u32 (cmdBody b) 12) ∧
    (∀ slot k, s.portTake p true a = ([.packet b], v) → slot = (v.port p).entry.trigSlot → k = v.keySlot slot → slot < v.ledger.keys.length →
      trigFormOk b = true → u8 b 8 = slot →
      k.state ≠ 0 → (rateStep v.now (v.port p).entry.trigRate (v.port p).trigThisSecond).2 = true →
      tagOf k.key (b.take 48) = slice b 48 8 →
      (k.highOf (v.port p).entry.peer < u32 b 12 → v.handles.live = [] ∨ v.teller.safe = true →
        ∃ t, exec (.trigReceive p a) s = .next t ∧ (t.keySlot slot).highOf (v.port p).entry.peer = u32 b 12 ∧
          (t.port p).cnt = (v.port p).cnt) ∧
      (u32 b 12 ≤ k.highOf (v.port p).entry.peer → (v.port p).authTimes = [] →
        ∃ t, exec (.trigReceive p a) s = .next t ∧ t.ledger = s.ledger ∧
          (t.port p).cnt = { (v.port p).cnt with replay := satAdd 16 (v.port p).cnt.replay 1 }))

/-! ### DATA and PARTIAL -/

/-- R105, R120, R121, R122, R136: a sound DATA packet of an UP port takes a credit; in the order of R120 one of another source or
block counts DROP_NOT_OWNER, one before its slot DROP_EARLY, one past its deadline DROP_LATE and a repeated one DROP_DUP, and gives
the credit back; any other counts one RX_DATA, is known as accepted, and gives its credit back within 2 µs. A PARTIAL that no product
takes counts one DROP_FORM and gives its credit back. -/
def Obligations.CreditedPacketsArrive : Prop :=
  ∀ (s v : State) (p : Nat) (a : Arrival) (b : List Byte) (q : Port), p < s.ports.length → s.portHears p = true →
    s.portTake p false a = ([.packet b], v) → (v.port p).state = .up → v.addressed p (u8 b 2) (u8 b 3) (u16 b 4) = true →
    q = (v.port p).finish v.now → q.rxHeld.length < 32 →
    (∀ d key, b.length = 8224 → bulkCrcOk 32 b = true → v.dataFormOk b = true → v.descFor (u8 b 6) (u48 b 12) = some d →
      key = (u8 b 6, u16 b 8, u16 b 10, d.slotStart (u48 b 12)) →
      ∃ t, exec (.dataReceive p a) s = .next t ∧ (t.port p).rxCount = q.rxCount + 1 ∧
        if d.sourceOf (u16 b 8) ≠ u8 b 2 ∨ (d.blockOwners (u16 b 10)).contains v.plane.peerId = false then
          (t.port p).rxReleased = q.rxReleased + 1 ∧ (t.port p).cnt.dropNotOwner = satAdd 32 q.cnt.dropNotOwner 1
        else if v.now < d.slotStart (u48 b 12) then
          (t.port p).rxReleased = q.rxReleased + 1 ∧ (t.port p).cnt.dropEarly = satAdd 32 q.cnt.dropEarly 1
        else if d.deadline (u48 b 12) < v.now then
          (t.port p).rxReleased = q.rxReleased + 1 ∧ (t.port p).cnt.dropLate = satAdd 32 q.cnt.dropLate 1
        else if key ∈ v.plane.accepted then
          (t.port p).rxReleased = q.rxReleased + 1 ∧ (t.port p).cnt.dropDup = satAdd 32 q.cnt.dropDup 1
        else
          (t.port p).cnt.rxData = satAdd 32 q.cnt.rxData 1 ∧ key ∈ t.plane.accepted ∧ (t.port p).rxReleased = q.rxReleased ∧
            ∃ e, (t.port p).rxHeld = q.rxHeld ++ [e] ∧ v.now ≤ e ∧ e ≤ v.now + 2000 * tickNs) ∧
    (b.length = 8256 → bulkCrcOk 64 b = true → partialFormOk b = true → v.teller.safe = false → v.handles.live = [] →
      ∃ t, exec (.partialReceive p a) s = .next t ∧ (t.port p).cnt.dropForm = satAdd 32 (v.port p).cnt.dropForm 1 ∧
        (t.port p).rxReleased = q.rxReleased + 1 ∧ t.handles = s.handles)

/-- R108, R110, R119, R121: the waiting DATA packet of earliest deadline is given to the transmitter of an UP port that has a credit,
behind CMD, HELLO and HEALTH and ahead of PARTIAL, with the next SEQ and its CRC, and counts one TX_DATA; past its deadline it is
dropped and counts one TX_DROP. -/
def Obligations.DataLeavesByDeadline : Prop :=
  ∀ (s : State) (p : Nat) (d : TxData), p < s.ports.length → (s.port p).state = .up → s.teller.safe = false →
    earliest (s.port p).txData = some d →
    (∀ e ∈ (s.port p).txData, d.deadline ≤ e.deadline) ∧
    (d.deadline < s.now → exec (.dataTransmit p) s = .next (s.updPort p fun q => { q with
      txData := q.txData.erase d, cnt := { q.cnt with txDrop := satAdd 32 q.cnt.txDrop 1 } })) ∧
    (s.now ≤ d.deadline → (s.port p).outstanding < 32 → exec (.dataTransmit p) s = .next ((s.updPort p fun q => { q with
      txData := q.txData.erase d, seqTx := (q.seqTx + 1) % 65536, txSent := q.txSent + 1
      cnt := { q.cnt with txData := satAdd 32 q.cnt.txData 1 }
      tx := q.tx.addBulk 1 (frameBlocks false false (finishData q.seqTx d.bytes)) }).emit (.fabric p (finishData (s.port p).seqTx d.bytes))))

/-- R136, R135: a PARTIAL of one half that fits a product whose record has not been drained seeds the record with the window
start, the cut and the tally of the half; a record that ships leaves as PARTIAL on its new owner's port, uses a credit and a sequence
number, and is the product's no more. -/
def Obligations.PartialsMove : Prop :=
  (∀ (s v : State) (p : Nat) (a : Arrival) (b : List Byte) (e : Entry) (x : Xprod), p < s.ports.length → s.portHears p = true →
    s.portTake p false a = ([.packet b], v) → (v.port p).state = .up → ((v.port p).finish v.now).rxHeld.length < 32 →
    v.addressed p (u8 b 2) (u8 b 3) (u16 b 4) = true → b.length = 8256 → bulkCrcOk 64 b = true → partialFormOk b = true →
    v.teller.safe = false → v.handles.live = [e] → e.obj = .xprod x → v.partialFits e b = true → u16 b 18 = 0xFFFF → v.plane.partials = [] →
    x.recs = [] → x.aligned = false →
    ∃ t x' r, exec (.partialReceive p a) s = .next t ∧ t.xprod? e.h = some x' ∧ r ∈ x'.recs ∧ r.chan = u16 b 16 ∧ r.seeded = true ∧
      r.merged = true ∧ r.start = u48 b 24 ∧ r.stop = u48 b 32 ∧ r.tally = u64 b 40) ∧
  (∀ (s : State) (h : Handle) (x : Xprod) (a : Shipment) (p : Nat), s.teller.safe = false → s.xprod? h = some x →
    x.nextShip s.shipReady = some (a, none) → s.peerUp a.peer = some a.since → s.portOfPeer a.peer = some p → p < s.ports.length →
    (s.port p).txData = [] → (s.port p).outstanding < 32 → ((s.vectorRec x a.record).1.any (·.2)) = false →
    (s.vectorRec x a.record).2 = s → a.record.tallyFlips = [] → a.record.tallyLost = false →
    ∃ t x', exec (.partialSend h) s = .next t ∧ t.xprod? h = some x' ∧ x'.shipping = x.shipping.filter (· != a) ∧
      (t.port p).seqTx = ((s.port p).seqTx + 1) % 65536 ∧ (t.port p).txSent = (s.port p).txSent + 1 ∧
      .fabric p ((s.updPort p fun q => { q with seqTx := (q.seqTx + 1) % 65536, txSent := q.txSent + 1 }).partialBytes x a none
        (s.port p).seqTx (s.vectorRec x a.record).1 []) ∈ t.out)

/-- R133: at the first slot boundary at or after T the pending map's descriptor of a stream comes into force with that slot,
counted on the new grid where that differs, and the former one stays known for the slots before it; with the last stream of both maps
the new MAP_GEN is in force. -/
def Obligations.MapTakesEffect : Prop :=
  ∀ (s : State) (st : Nat) (m : PlaneMap) (tm : BitVec 64) (d n : StreamDesc) (k : Nat), s.teller.safe = false →
    s.plane.pending = some (m, tm) → s.plane.switched.contains st = false → s.desc st = some d → s.pendingDesc st = some n →
    k = d.unitFrom d.l (s.full tm) → d.slotStart k ≤ s.now →
    ∃ t, exec (.mapTakeEffect st) s = .next t ∧ t.desc st = some n ∧
      t.firstSlot st = (if d.gridKey = n.gridKey then k else n.unitFrom n.l (d.slotStart k)) ∧
      { desc := d, first := s.firstSlot st, stop := k } ∈ t.plane.old ∧
      ((s.plane.streams ++ m.streams).all (fun e => (s.plane.switched ++ [st]).contains e.id) = true →
        t.plane.pending = none ∧ (t.plane.map.map (·.gen)) = some m.gen)

/-- R104, R125, R336, R337: a command with AUTH that fails a check of R336 is answered with its status; one that passes them leaves as a CMD packet
on the port of its DEST, its trailer replaced by the tag of the port's key slot, takes the slot's next send sequence and waits; one
that has no first reply after 100 ms ends with UNIT_FAULT on the path of its source. -/
def Obligations.CommandsAreForwarded : Prop :=
  (∀ (s : State) (src : Source) (p : Pkt), s.pktOf src true .failed = some p → p.isForward = true → s.canTake src p = true →
    (∀ r, p.forwardRefusal (s.pop src) = some r → exec (.forward src) s = .next (replied s p r (s.pop src))) ∧
    (∀ n k head body, p.forwardRefusal (s.pop src) = none → s.portOfPeer (u8 p.b (4 * p.len - 8)) = some n →
      (s.port n).entry.cmdSlot < s.ledger.keys.length → k = s.keySlot (s.port n).entry.cmdSlot →
      head = ctrlHead 0x30 (cmdLength (4 * p.len)) s.plane.ownPeer (s.port n).entry.peer s.plane.ownPlane →
      body = patch (slice p.b 0 (4 * p.len - 8)) 12 (le 4 k.cmdSend) →
      ∃ t, exec (.forward src) s = .next t ∧ t.teller.commits = s.teller.commits + 1 ∧
        t.teller.forwards = s.teller.forwards ++ [{ src := p.src, peer := (s.port n).entry.peer, op := p.op, tag := p.tag, notify := p.notify
                                                    sent := s.now, ctr := p.ctr, lost := p.lost }] ∧
        t.keySlot (s.port n).entry.cmdSlot = { k with cmdSend := k.cmdSend + 1 } ∧
        .fabric n (cmdPacket head (s.port n).entry.cmdSlot 0 (body ++ cmdTag k.key head body)) ∈ t.out)) ∧
  (∀ (s : State) (i : Nat) (f : Forward), s.teller.forwards[i]? = some f → f.replied = false → f.sent + 100 * tickMs ≤ s.now →
    exec (.forwardTimeout i) s = .next (noticed s ((s.updTeller fun t => { t with forwards := t.forwards.erase f }).post f.src f.notify f.lost
      fun ph => replyBytes f.op ph false true 0 f.tag { status := stFault, r0 := 1 } s.stamp)) ∧
    (f.src = .spi → f.lost = false →
      ∃ t, exec (.forwardTimeout i) s = .next t ∧ t.teller.forwards = s.teller.forwards.erase f ∧
        t.spi.replyQ = s.spi.replyQ ++ [replyBytes f.op false false true 0 f.tag { status := stFault, r0 := 1 } s.stamp]))

/-! ### F-engine -/

/-- R141, R146, R147, R148, R155, R157, R161, R164, R378: an INPUT_MAP entry binds an input that takes no samples yet, with the reset path
word; FE_SET writes such an input's path word; of one that takes samples both wait for a frame it has not begun. DELAY_SET gives an
input a polynomial from 50 µs after the commit; GAIN_SET gives gains that wait for a slot boundary. A piece of a set is staged; the
LAST piece of a CUSTOM set stores it mirrored, and that of a prototype as it is; the two reads deliver the values of the set they
name. -/
def Obligations.FEngineIsConfigured : Prop :=
  ∀ (s : State) (src : Source) (p : Pkt),
    (∀ e, Accepted 0x20 inputMapBody src true .failed p s → u16 p.b 16 = 1 → e = mapEntry p.b 20 → e.input < s.fe.inputs.length →
      (e.unmap = false → (s.input e.input).map = none → (s.input e.input).arrived = 0 → (s.input e.input).changes = [] →
        ∃ u, exec (.inputMap src) s = .next (replied s p
            { r0 := s.aggregate (s.nextInputs.modify e.input fun x => x.change (.mapTo e.m)) } u) ∧
          (u.input e.input).map = some e.m ∧ (u.input e.input).path = pathReset ∧ ∀ n, n ≠ e.input → u.input n = s.input n) ∧
      (e.unmap = false ∨ (s.nextInputs.getD e.input {}).map.isSome = true → (s.input e.input).arrived ≠ 0 →
        ∃ u r j, exec (.inputMap src) s = .next (replied s p r u) ∧ r.status = stOk ∧ (s.input e.input).frame.getD 0 < j ∧
          u.input e.input = { s.input e.input with changes := (s.input e.input).changes ++ [(j, if e.unmap then .unmap else .mapTo e.m)] } ∧
          ∀ n, n ≠ e.input → u.input n = s.input n)) ∧
    (∀ i, Accepted 0x21 feSetBody src true .failed p s → u16 p.b 16 = 1 → i = u16 p.b 20 → u8 p.b 22 = 1 →
      i < s.fe.inputs.length → (s.input i).map.isSome = true →
      ((s.input i).arrived = 0 → ∃ u, exec (.feSet src) s = .next (replied s p {} u) ∧ (u.input i).path = BitVec.ofNat 64 (u64 p.b 28) ∧
        (u.input i).map = (s.input i).map ∧ ∀ n, n ≠ i → u.input n = s.input n) ∧
      ((s.input i).arrived ≠ 0 → ∃ u j, exec (.feSet src) s = .next (replied s p {} u) ∧ (s.input i).frame.getD 0 < j ∧
        u.input i = { s.input i with changes := (s.input i).changes ++ [(j, .path (BitVec.ofNat 64 (u64 p.b 28)))] } ∧
        ∀ n, n ≠ i → u.input n = s.input n)) ∧
    (∀ i, Accepted 0x23 delaySetBody src true .failed p s → u16 p.b 16 = 1 → i = u16 p.b 24 → i < s.fe.inputs.length →
      ∃ u, exec (.delaySet src) s = .next (replied s p {} u) ∧
        u.input i = { s.input i with polyNext := some (p.commitAt + 50 * tickUs, delayPoly p.b 24) } ∧
        ∀ n, n ≠ i → u.input n = s.input n) ∧
    (∀ i, Accepted 0x24 gainSetBody src true .failed p s → u16 p.b 16 = 1 → i = u16 p.b 20 → i < s.fe.inputs.length →
      ∃ u, exec (.gainSet src) s = .next (replied s p {} u) ∧ u.tk = s.tk ∧
        u.input i = { s.input i with gainsNext := (s.input i).gainsNext ++ (List.range (u16 p.b 24)).map fun k =>
          (p.commitAt, u16 p.b 22 + k, BitVec.ofNat 32 (u32 p.b (28 + 4 * k))) } ∧
        ∀ n, n ≠ i → u.input n = s.input n) ∧
    (∀ wr values, Accepted 0x22 coeffLoadBody src wr .failed p s → u8 p.b 16 = 1 ∨ u8 p.b 16 = 2 → u32 p.b 28 = 0 → u32 p.b 32 ≤ 16384 →
      values = (List.range (u32 p.b 32)).map (fun i => sext 32 (u32 p.b (56 + 4 * i))) →
      (bit (u8 p.b 20) 0 = false → exec (.coeffLoad src wr) s = .next (replied s p { r0 := u32 p.b 32 } ((s.pop src).updTeller fun x =>
        { x with staging := some { pfb := u8 p.b 16 == 2, set := u8 p.b 17, taps := u16 p.b 22, log2 := u8 p.b 24, values := values } }))) ∧
      (bit (u8 p.b 20) 0 = true → ∃ u, exec (.coeffLoad src wr) s = .next (replied s p { r0 := u32 p.b 32 } u) ∧ u.teller.staging = none ∧
        (u8 p.b 16 = 1 → (u8 p.b 17, mirror (u16 p.b 22) values) ∈ u.fe.fir ∧ u.fe.pfb = s.fe.pfb) ∧
        (u8 p.b 16 = 2 → (u8 p.b 17, u16 p.b 22, u8 p.b 24, values) ∈ u.fe.pfb ∧ u.fe.fir = s.fe.fir))) ∧
    (∀ wr c data, Accepted 0x22 coeffLoadBody src wr .failed p s → u8 p.b 16 = 3 ∨ u8 p.b 16 = 4 → c = s.coeffSet p.b →
      data = c.flatMap (fun x => leInt 4 x) →
      ((p.deliver 40 48 data (s.pop src)).2.2.2 = false → exec (.coeffLoad src wr) s = .next (replied s p
        { r0 := c.length, r1 := min (p.room 48) data.length, r2 := data.length - min (p.room 48) data.length }
        (p.deliver 40 48 data (s.pop src)).1)) ∧
      ((p.deliver 40 48 data (s.pop src)).2.2.2 = true →
        exec (.coeffLoad src wr) s = .next (replied s p { status := stFault, r0 := 3 } (s.pop src))))

/-- R167, R357, R381: DETECT_READ delivers one 64 B record for each input of its range, and RESULT0 counts the whole records that
were written; with CLEAR, and all written, the counters of those inputs are cleared; a failed write gives UNIT_FAULT. -/
def Obligations.DetectorRecordsAreRead : Prop :=
  ∀ (s : State) (src : Source) (wr : Bool) (p : Pkt) (data : List Byte) (r : Res),
    Accepted 0x25 detectReadBody src wr .failed p s →
    data = ((List.range (u16 p.b 18)).map (u16 p.b 16 + ·)).flatMap s.detectRecord →
    r = { r0 := min (p.room 32) data.length / 64, r1 := min (p.room 32) data.length, r2 := data.length - min (p.room 32) data.length } →
    ((p.deliver 24 32 data (s.pop src)).2.2.2 = true →
      exec (.detectRead src wr) s = .next (replied s p { status := stFault, r0 := 3 } (s.pop src))) ∧
    ((p.deliver 24 32 data (s.pop src)).2.2.2 = false →
      (bit (u8 p.b 20) 0 = false ∨ p.room 32 < data.length →
        exec (.detectRead src wr) s = .next (replied s p r (p.deliver 24 32 data (s.pop src)).1)) ∧
      (bit (u8 p.b 20) 0 = true → data.length ≤ p.room 32 → ∃ u, exec (.detectRead src wr) s = .next (replied s p r u) ∧
        (∀ i, i < s.fe.inputs.length → u16 p.b 16 ≤ i → i < u16 p.b 16 + u16 p.b 18 →
          u.input i = { s.input i with det := (s.input i).det.clear }) ∧
        ∀ i, i < u16 p.b 16 ∨ u16 p.b 16 + u16 p.b 18 ≤ i → u.input i = s.input i))

/-- R148, R151, R156, R161, R162, R279: a frame of an input whose last sample has passed the coarse delay forms its channel sample and
the next is due; a segment takes the values the kernel supplies where they keep within the error of R161; without them it goes on with
the last slope, counts DELAY_LATE, and at the second in a row raises the input event. Each tick of a segment reaches the clerks of the
stream. -/
def Obligations.FramesAndSegmentsAdvance : Prop :=
  (∀ (s : State) (i j : Nat) (m : InMap) (x : FeInput) (e : Int), i < s.fe.inputs.length → s.teller.safe = false →
    (s.input i).map = some m → x = (s.input i).takeStep (s.fsOf m) → x.arrived ≠ 0 → s.fsOf m ≠ 0 → x.frame = some j → x.changes = [] →
    (∀ g, x.oldGrid = some g → j + 1 < g.2) → e = x.endOf (s.fsOf m) (s.inputEpoch x) j → (x.left : Int) ≤ e →
    e < (x.arrived + x.nc : Nat) →
    ∃ t, exec (.frameBoundary i) s = .next t ∧ (t.input i).frame = some (j + 1) ∧ (t.input i).lastEnd = e.toNat ∧
      (t.input i).map = some m ∧ (t.input i).path = (s.input i).path ∧ (∀ n, n ≠ i → t.input n = s.input n) ∧
      ((m.stream.bind s.desc).isSome = true →
        ∃ v, (t.input i).spec = (s.input i).spec ++ [v] ∧ v.j = j ∧ v.epoch = s.inputEpoch x ∧ v.gshift = pGshift x.path)) ∧
  (∀ (s : State) (i : Nat) (m : InMap) (q : DelayPoly), i < s.fe.inputs.length → s.teller.safe = false → (s.input i).map = some m →
    (s.input i).poly = some q → (s.input i).polyNext = none →
    (∀ d0 dr start, start = (s.input i).frame.getD 0 / (s.input i).segLen * (s.input i).segLen →
      (s.segmentFits (s.input i) q start d0 dr = true → exec (.delaySegment i (some (d0, dr))) s =
        .next (State.segmentTick i (s.updInput i fun x =>
          ({ x with d0 := d0, dr := dr, seg := start, segMissing := 0 } : FeInput).takeStep (s.fsOf m)))) ∧
      (s.segmentFits (s.input i) q start d0 dr = false → exec (.delaySegment i (some (d0, dr))) s = .next (s.segmentTick i))) ∧
    (∃ t, exec (.delaySegment i none) s = .next t ∧ (t.input i).segMissing = (s.input i).segMissing + 1 ∧ (t.input i).dr = (s.input i).dr ∧
      (t.input i).det.delayLate = satAdd 16 (s.input i).det.delayLate 1 ∧
      ((s.input i).segMissing = 1 → t.health.events.getLsbD 23 = true)) ∧
    (∀ values n c, n < s.clerks.length → (delayKey (s.input i), c) ∈ s.fe.delayClerks → s.fe.delayClerks.length = 1 → n ∈ c →
      ∃ t, exec (.delaySegment i values) s = .next t ∧ (t.clerk n).evt.getLsbD 6 = true))

/-- R165, R166, R170, R171, R293: once its slot has ended and every channel sample of it has been formed, its packets are packed, and the
slot is not packed again; the record of an input is published with its window's values; a parity error in a data word makes one sample
of the input zero and counts one PARITY, one in a coefficient copy starts a reload, and a reload that reads clean words ends it, while
one that does not raises the input event. -/
def Obligations.PackingDetectorsAndParity : Prop :=
  (∀ (s : State) (st k : Nat) (d : StreamDesc), s.teller.safe = false → s.plane.joined = true → s.packDesc st k = some d → d.id = st →
    (s.packsNext d k = true → s.slotFormed d k = true →
      ∃ t, exec (.slotPack st k) s = .next t ∧ (st, d.epoch, k + 1) ∈ t.fe.packed ∧ t.tk = s.tk ∧ t.lanes = s.lanes) ∧
    (k < s.packedNext st d.epoch → exec (.slotPack st k) s = .next s)) ∧
  (∀ (s : State) (i : Nat) (m : InMap) (d : Detector) (ended : Bool), i < s.fe.inputs.length → s.teller.safe = false →
    (s.input i).map = some m → s.fsOf m ≠ 0 →
    detectRun (pDetLog2 (s.input i).path) (fun q => planeIndex (s.input i).anchor (s.fsOf m) q)
      ((s.input i).hist.drop ((s.input i).det.next - (s.input i).first)) (s.input i).det = (d, ended, true) →
    ∃ t, exec (.detectorPublish i) s = .next t ∧ u16 (t.input i).det.record 4 = d.peak % 65536 ∧
      u64 (t.input i).det.record 8 = d.sumsq % 2 ^ 64 ∧ u32 (t.input i).det.record 16 = d.count % 2 ^ 32 ∧
      u32 (t.input i).det.record 20 = d.env % 2 ^ 32 ∧ (∀ n, n ≠ i → t.input n = s.input n)) ∧
  (∀ (s : State) (i : Nat), i < s.fe.inputs.length → s.teller.safe = false →
    ((s.input i).map.isSome = true → (s.input i).hist ≠ [] →
      ∃ t n, exec (.parityError i .data) s = .next t ∧ n < (s.input i).hist.length ∧ t.input i = (s.input i).parityHit n ∧
        (t.input i).det.parity = satAdd 16 (s.input i).det.parity 1 ∧ (t.input i).hist[n]? = (s.input i).hist[n]?.map Sample.struck ∧
        ∀ k, k ≠ i → t.input k = s.input k) ∧
    (∀ set, (s.input i).usesSet false set = true →
      ∃ t, exec (.parityError i (.fir set)) s = .next t ∧ (false, set) ∈ t.fe.reload ∧ ∃ a, ((false, set), a) ∈ (t.input i).badSets) ∧
    (∀ set, (s.input i).usesSet true set = true →
      ∃ t, exec (.parityError i (.pfb set)) s = .next t ∧ (true, set) ∈ t.fe.reload ∧ ∃ a, ((true, set), a) ∈ (t.input i).badSets)) ∧
  (∀ (s : State) (set : Nat) (pfb : Bool), s.teller.safe = false → s.fe.reload.contains (pfb, set) = true →
    ∃ t, exec (.coeffReload (if pfb then .pfb set else .fir set)) s = .next t ∧ t.fe.fir = s.fe.fir ∧ t.fe.pfb = s.fe.pfb ∧
      ((s.readTable (s.setLength pfb set)).1 = true → t.fe.reload = s.fe.reload.filter (· != (pfb, set))) ∧
      ((s.readTable (s.setLength pfb set)).1 = false → t.fe.reload = s.fe.reload ∧ t.health.events.getLsbD 23 = true))

/-! ### Correlation products -/

/-- R186, R285, R352, R384, R187, R385, R345: XPROD_CREATE that admission passes makes a product of the packet's block in CREATED under
a handle that no live object has, with its regions and its system kernels' clerks, and answers its channels, the pages taken and its load;
XPROD_START arms a product or beam at the first grid unit from TIME on, and answers that slot; XPROD_STOP ends an ARMED one at once with
two replies, and puts a RUNNING one into STOPPING up to the first slot boundary from TIME on. -/
def Obligations.ProductsAreCreatedStartedStopped : Prop :=
  ∀ (s : State) (src : Source) (p : Pkt),
    (Accepted 0x30 xprodCreateBody src true .failed p s →
      ∃ d h v c, (s.pop src).sizing (u8 p.b 16) = some d ∧ (s.pop src).withXprod d (xprodOf p d.wide) = some (h, v) ∧
        c = v.ownedMax (u8 p.b 16) (u16 p.b 24) (u16 p.b 26) ∧
        exec (.xprodCreate src) s = .next (replied s p
          { handle := h, r0 := c, r1 := v.growth, r2 := (v.xprodNeeds d v.poolSizes.1 0 c (xprodOf p d.wide)).corr.ppm }
          (v.growAll.takeServants h s.boot.kernelNeeds.1)) ∧
        (s.handles.Fit → s.find h = none ∧ v.hstate h = .created ∧ (v.xprod? h).map Xprod.block = some (slice p.b 16 48))) ∧
    (Accepted 0x31 productStart src true .failed p s →
      ∃ st origin n d, ((s.find p.target).map Entry.obj).bind Obj.grid = some (st, origin, n) ∧ s.sizing st = some d ∧
        ∀ at_ slot k, at_ = (if u64 p.b 16 = 0 then p.commitAt + 1000000 * tickNs else s.full (BitVec.ofNat 64 (u64 p.b 16))) →
          k = d.gridUnitFrom origin n at_ → slot = origin + k * n →
          exec (.xprodStart src) s = .next (replied s p { handle := p.target, r0 := slot % 2 ^ 32, r1 := slot / 2 ^ 32 }
            ((s.pop src).armProduct p.target k slot)) ∧
          ((s.pop src).armProduct p.target k slot).hstate p.target = .armed) ∧
    (Accepted 0x32 productStop src true .failed p s →
      (s.hstate p.target = .armed →
        exec (.xprodStop src) s = .next (repliedTwice s p { handle := p.target }
          { handle := p.target, r0 := s.recordsOf p.target % 2 ^ 32 } ((s.pop src).disarm p.target)) ∧
        ((s.pop src).disarm p.target).hstate p.target = .stopped) ∧
      (∀ d, s.hstate p.target = .running → s.gridOf p.target = some d →
        exec (.xprodStop src) s = .next (queued s p { handle := p.target } (.stop p.target)
          (((s.pop src).setStop p.target
            (d.unitFrom d.l (if u64 p.b 16 = 0 then p.commitAt else s.full (BitVec.ofNat 64 (u64 p.b 16))))).setState p.target .stopping))))

/-- R187, R204, R345: at its start slot an ARMED product, of correlation or beams, is RUNNING; one in STOPPING passes its stop boundary;
once nothing of it is left to come it is STOPPED and no XPROD_STOP of it waits any more, its final reply with the count of records. -/
def Obligations.ProductsMoveThroughTheirStates : Prop :=
  ∀ (s : State) (h : Handle), s.teller.safe = false →
    (∀ d k, s.gridOf h = some d → (s.xprod? h).map Xprod.startSlot = some k ∨ (s.beam? h).map Beam.startSlot = some k →
      s.hstate h = .armed → d.slotStart k ≤ s.now →
      exec (.productStartBoundary h) s = .next (s.setState h .running) ∧ (s.setState h .running).hstate h = .running) ∧
    (∀ d k, s.gridOf h = some d → (s.xprod? h).map Xprod.stopSlot = some (some k) ∨ (s.beam? h).map Beam.stopSlot = some (some k) →
      s.hstate h = .stopping → d.slotStart k ≤ s.now →
      exec (.stopBoundary h) s = .next (s.stopPassed h) ∧
        (((s.stopPassed h).xprod? h).map Xprod.reached = some true ∨ ((s.stopPassed h).beam? h).map Beam.reached = some true)) ∧
    (s.hstate h = .stopping → s.drained h = true →
      ∃ t, exec (.productComplete h) s = .next t ∧ t.hstate h = .stopped ∧ (∀ e ∈ t.teller.deferred, e.wait ≠ .stop h) ∧
        t.vault = s.vault ∧ t.plane = s.plane ∧
        (∀ x : Deferred, s.teller.deferred = [x] → x.wait = .stop h → x.src = .spi → x.lost = false →
          (s.find h).map Entry.aborting = some false →
          t.spi.replyQ = s.spi.replyQ ++ [replyBytes x.op false false true 0 x.tag { r0 := s.recordsOf h % 2 ^ 32, handle := x.handle } s.stamp]))

/-- R354, R355, R410, R411, R217: ABORT of what is ARMED ends it at once, and so that of a capture, which stops writing; of a kernel it is
QUEUED with a stop requested, and of a RUNNING or STOPPING product QUEUED while the product, cut at the next slot boundary, is STOPPING.
QUERY answers the state and the word of the kind, RECORDS for a product, and where it has a buffer or came by SPI delivers the block,
which CLEAR then clears if all of it was written; it changes nothing else. -/
def Obligations.ProductsAreAbortedAndQueried : Prop :=
  ∀ (s : State) (src : Source) (p : Pkt),
    (∀ e, Accepted 0x70 abortBody src true .failed p s → s.find p.target = some e →
      (e.st = .armed →
        exec (.abort src) s = .next (repliedTwice s p { handle := p.target } { handle := p.target } ((s.pop src).disarm p.target))) ∧
      (e.st ≠ .armed → e.obj.kind = 4 → exec (.abort src) s =
        .next (repliedTwice s p { handle := p.target } { handle := p.target } ((s.pop src).abortCapture p.target))) ∧
      (e.st ≠ .armed → e.obj.kind = 5 → exec (.abort src) s = .next (queued s p { handle := p.target } (.abort p.target)
        (((s.pop src).requestStop p.target).updEntry p.target fun e => { e with aborting := true, doneAt := (s.pop src).stamp }))) ∧
      (e.st ≠ .armed → e.obj.kind = 1 ∨ e.obj.kind = 2 →
        exec (.abort src) s = .next (queued s p { handle := p.target } (.abort p.target) ((s.pop src).abortProduct p.target)) ∧
        ((s.pop src).abortProduct p.target).hstate p.target = .stopping ∧
        (((s.pop src).abortProduct p.target).xprod? p.target).map Xprod.aborted = (s.xprod? p.target).map fun _ => true)) ∧
    (∀ wr code w u, Accepted 0x71 queryBody src wr .failed p s →
      code = (if p.target = 0 then s.handles.live.length else (s.hstate p.target).code) →
      (w, u) = (if p.target = 0 then (0, s.pop src) else (s.pop src).queryWord p.target) →
      (∀ x, p.target ≠ 0 → s.xprod? p.target = some x → w = x.cnt.records % 2 ^ 32 ∧ u = s.pop src) ∧
      (src ≠ .spi → u64 p.b 24 = 0 → exec (.query src wr) s = .next (replied s p { handle := p.target, r0 := code, r1 := w } u)) ∧
      (src = .spi ∨ u64 p.b 24 ≠ 0 → ∀ v n o f, p.deliver 24 32 (s.queryData p.target) u = (v, n, o, f) →
        (f = true → exec (.query src wr) s = .next (replied s p { status := stFault, r0 := 3 } u)) ∧
        (f = false → exec (.query src wr) s = .next (replied s p { handle := p.target, r0 := code, r1 := w, r2 := o }
          (if bit (u8 p.b 16) 0 && o = 0 then v.clearCounters p.target else v)))))

/-- R183: with no page of the Vault on the move, the start of a slot clears the position it takes in a ring of its stream, cells and
words, and nothing else of the state but the Vault and the rings changes. -/
def Obligations.SlotsClearTheirPosition : Prop :=
  ∀ (s : State) (st k : Nat) (d : StreamDesc) (r : CtRing), s.teller.safe = false → s.descFor st k = some d → d.slotStart k ≤ s.now →
    s.vault.relocate = [] → s.xa.rings = [r] → r.stream = st → (r.cells.any fun x => decide (x.slot ≥ k)) = false →
    ∃ t, exec (.slotStart st k) s = .next t ∧ t = { s with vault := t.vault, xa := t.xa } ∧
      t.xa.rings = [{ r with cells := r.cells.filter fun x => x.pos != k % max r.q 1 }] ∧
      (Memory.wf {} s.vault.words = true → ∀ col i, col < r.c → i < r.ngroups * 128 →
        t.vword (regionWord r.pages (col * r.columnWords + (k % max r.q 1) * r.ngroups * 128 + i)) = {})

/-- R192, R455, R188–R191, R201, R208, R211: the next piece of a running product whose operands are complete becomes ready, gated
where THROTTLE says so; a pass of the product whose turn it is, in the order of R191, puts drains of its own channel and pairs behind those
that wait, with nothing summed where the piece is gated or the position dead; the drain takes the oldest of them; a co-owner's add that
comes before the owner's drain waits. -/
def Obligations.PassesRunInOrder : Prop :=
  (∀ (s : State) (h : Handle) (x : Xprod) (sub piece a b : Nat), s.teller.safe = false → s.xprod? h = some x →
    s.hstate h = .running → x.next = (sub, piece) → (s.pieces x sub)[piece]? = some (a, b) → s.piecePassed x.stream b = true →
    s.mapDue x.stream b = false → s.pieceChans x a ≠ [] →
    ∃ t gate, exec (.subintReady h sub piece) s = .next t ∧ gate = s.gated x.stream (x.subStart sub) sub ∧
      t.xa.ready = s.xa.ready ++ [(h, sub, piece, gate)] ∧
      (t.xprod? h).map Xprod.next = some (if piece + 1 < (s.pieces x sub).length then (sub, piece + 1) else (sub + 1, 0)) ∧
      t.health.gatedSubints = (if gate && piece == 0 then satAdd 32 s.health.gatedSubints 1 else s.health.gatedSubints) ∧
      t.plane = s.plane ∧ t.vault = s.vault) ∧
  (∀ (s : State) (p : Pass) (bad : Bool) (x : Xprod) (a b : Nat) (gate : Bool) (ranks chans : List Nat), s.teller.safe = false →
    s.xprod? p.handle = some x → ranks = s.ranksIn .corr → chans = s.pieceChans x a →
    (s.xa.ready.find? fun e => e.1 == p.handle) = some (p.handle, p.subint, p.piece, gate) →
    (s.pieces x p.subint)[p.piece]? = some (a, b) → chans.contains p.chan = true → p.rank < ranks.length → p.col < 8 → s.passTurn p.handle = true →
    8 * p.strip < doubles x.ngroups → (s.xa.ended.filter fun q => q.handle == p.handle).contains p = false →
    passesBefore (doubles x.ngroups) ranks.length (chans.idxOf p.chan) p.strip p.brick
      ≤ (s.xa.ended.filter fun q => q.handle == p.handle).length →
    (s.xa.ended.filter fun q => q.handle == p.handle).length
      < passesBefore (doubles x.ngroups) ranks.length (chans.idxOf p.chan) p.strip p.brick
        + usefulBrick (doubles x.ngroups) ranks.length p.strip p.brick →
    ∃ t l, exec (.passEnd p bad) s = .next t ∧ t.xa.drains = s.xa.drains ++ l ∧ t.plane = s.plane ∧ t.tk = s.tk ∧ t.lanes = s.lanes ∧
      (∀ it ∈ l, it.handle = p.handle ∧ it.subint = p.subint ∧ it.chan = p.chan ∧ it.first = a ∧ it.stop = b ∧
        (gate = true → it.tally = 0 ∧ it.partials = zeroPartials) ∧
        (s.xa.pos.getD (8 * ranks.getD p.rank 0 + p.col) none = none → it.poison = true ∧ it.partials = zeroPartials)) ∧
      (l ≠ [] ↔ p.brick * ranks.length + p.rank ≤ 8 * p.strip + p.col ∧ 8 * p.strip + p.col < doubles x.ngroups)) ∧
  (∀ (s : State) (it : DrainItem) (rest : List DrainItem), s.teller.safe = false → s.xa.drains = it :: rest →
    ∃ t, exec .drain s = .next t ∧ t.xa.drains = rest ∧ t.plane = s.plane ∧ t.tk = s.tk ∧ t.lanes = s.lanes) ∧
  (∀ (s : State) (a : CoAdd) (x : Xprod), s.teller.safe = false → s.xprod? a.owner = some x → x.coOwners ≠ [] → x.compact = false →
    a.pair < x.pairs → a.values.length = 512 → s.hstate a.owner = .running →
    s.drainApplied a.owner x { subint := a.subint, pair := a.pair, chan := a.chan, values := a.values, tally := a.tally, poison := false, settled := false } = false →
    ∃ t, exec (.coOwnerAdd a) s = .next t ∧ t.vault = s.vault ∧ t.xa = s.xa ∧
      (t.xprod? a.owner).map Xprod.waiting = some (x.waiting ++
        [{ subint := a.subint, pair := a.pair, chan := a.chan, values := a.values, tally := a.tally, poison := false, settled := false }]))

/-- R196, R199, R201, R203, R204: the first drain of a window of a wide-word rolling product leaves the partials themselves in
the record's words, with the tally of the drain, and closes nothing. -/
def Obligations.FirstDrainStartsTheRecord : Prop :=
  ∀ (s : State) (x : Xprod) (it : DrainItem) (col : Nat), x.compact = false → x.aligned = false → x.aborted = false → it.flush = false →
    it.poison = false → it.partials.length = 256 → x.rec? it.pair it.chan 0 = none → x.cols.idxOf? (some it.chan) = some col →
    List.Nodup (x.recAddrs { pair := it.pair, chan := it.chan, copy := 0 }) → Memory.wf {} s.vault.words = true → s.vault.relocate = [] →
    let t := s.drainRolling it.handle x it
    t.2.xa.closeQ = s.xa.closeQ ∧
    (t.1.rec? it.pair it.chan 0).map (fun r => (r.tally, r.start, r.stop, r.drained)) = some (it.tally, it.first, it.stop, true) ∧
    ∀ i, i < 512 → t.2.vword ((x.recAddrs { pair := it.pair, chan := it.chan, copy := 0 }).getD i 0)
      = { data := BitVec.ofInt 64 ((it.partials.flatMap fun v => [v.1, v.2]).getD i 0), poison := false }

/-- R268, R216, R217, R87, R89, R210, R211: the formatter posts the oldest closed value of a product as its next record: a record
whose header it cannot read is passed over and counted POISONED, one with a lost word of payload carries POISONED, and one that fits
joins the product's open datagram. A datagram without a further record leaves as one frame where the lane transmits, and is dropped and
counted where it does not, the other products' staying open; a tile of two mismatches within a day leaves service. -/
def Obligations.RecordsLeaveAndTilesAreSpared : Prop :=
  (∀ (s u v : State) (c : Closed) (rest : List Closed) (x : Xprod) (r lead n : Nat) (lost : List Bool) (b : List Byte),
    s.teller.safe = false → (s.ctx 0).running = true → s.xa.closeQ = c :: rest → s.xprod? c.handle = some x →
    (r, u) = (s.updXa fun q => { q with closeQ := rest }).takeFree 32 → n = 16 + ceilDiv c.payload.length 4 →
    lead = (16 + if c.rtype = 2 then 4 else 0) → (lost, v) = u.badVxWords (r % (formatterWords - n)) n →
    b = c.record (digestOf x.block c.image []) x.seq →
    ∃ t, exec .recordPost s = .next t ∧ t.xa.closeQ = rest ∧
      (t.xprod? c.handle).map (fun y => (y.seq, y.cnt)) = some ((x.seq + 1) % 2 ^ 64,
        if (lost.take lead).any id then { x.cnt with poisoned := satAdd 32 x.cnt.poisoned 1 }
        else if lost.any id then x.cnt.posted (c.flags ||| 4) else x.cnt.posted c.flags) ∧
      (lost.any id = false → s.txOn x.egress = true →
        ((s.egressOf x.egress).openOf c.handle).flatten.length + b.length ≤ (s.egressOf x.egress).mtu - 28 →
        (t.egressOf x.egress).openOf c.handle = (s.egressOf x.egress).openOf c.handle ++ [b])) ∧
  (∀ (s : State) (lane : Nat) (h : Handle) (l : List (List Byte)), s.teller.safe = false → (s.octet (lane / 8)).isEgress = true →
    lane < s.lanes.length → (s.egressOf lane).openOf h = l → l ≠ [] →
    ∃ t, exec (.datagramCloseTimeout lane h) s = .next t ∧ t = { s with out := t.out, egress := t.egress, lanes := t.lanes } ∧
      (t.egressOf lane).openOf h = [] ∧ (∀ k, k ≠ h → (t.egressOf lane).openOf k = (s.egressOf lane).openOf k) ∧
      (s.txOn lane = true → t.out = s.out ++ [.frame lane ((s.egressOf lane).frame l.flatten)] ∧
        (t.lane lane).line = (s.lane lane).line ++ etherBlocks ((s.egressOf lane).frame l.flatten) ∧
        (t.egressOf lane).ident = (s.egressOf lane).ident + 1) ∧
      (s.txOn lane = false → t.out = s.out ∧ (t.lane lane).roleEvent = satAdd 32 (s.lane lane).roleEvent l.length)) ∧
  (∀ (s : State) (tile : Nat) (bist : Bool), s.boot.phase = .up → s.usable 1 tile = true → s.teller.safe = false →
    (bist = true ∨ 2 ≤ s.xa.residueTimes.countP fun e => e.1 == tile && decide (s.now < e.2 + tickDay)) →
    ∃ t, exec (.spareMap tile bist) s = .next t ∧ t.usable 1 tile = false ∧ t.plane = s.plane ∧ t.vault = s.vault)

/-! ### Beam products -/

/-- R386, R218, R222, R223, R387: BEAM_CREATE that admission passes makes a beam product of the packet's block in CREATED under a handle
that no live object has, with its regions and its system kernels' clerks, and answers its channels, the pages taken and its load;
BEAM_WEIGHTS lays its weights over the inactive bank, after a copy of the active one where COPY_FIRST asks for it, answers the count of
swaps and leaves its request for one; a requested swap exchanges the banks and counts at the next eligible boundary, and one whose bank
is still being written counts WEIGHT_LATE instead and waits. -/
def Obligations.BeamsAreCreatedAndWeighted : Prop :=
  ∀ (s : State) (src : Source) (p : Pkt),
    (Accepted 0x34 beamCreateBody src true .failed p s →
      ∃ d h v c, (s.pop src).sizing (u8 p.b 16) = some d ∧ (s.pop src).withBeam d (beamOf p d.wide) (u8 p.b 34) = some (h, v) ∧
        c = v.ownedMax (u8 p.b 16) (u16 p.b 24) (u16 p.b 26) ∧
        exec (.beamCreate src) s = .next (replied s p
          { handle := h, r0 := c, r1 := v.growth, r2 := (v.beamNeeds d v.poolSizes.2 c (beamOf p d.wide)).beam.ppm }
          (v.growAll.settleSupply.takeServants h s.boot.kernelNeeds.2)) ∧
        (s.handles.Fit → s.find h = none ∧ v.hstate h = .created ∧ (v.beam? h).map Beam.block = some (slice p.b 16 40))) ∧
    (∀ b v w, Accepted 0x35 beamWeightsBody src true .failed p s → s.beam? p.target = some b →
      v = (if bit (u8 p.b 16) 1 then ((s.pop src).clearBank b (1 - b.active)).copyBank b else s.pop src) →
      w = (v.writeWeights b (1 - b.active) (u32 p.b 20 * b.wb) ((p.b.drop 32).take (u32 p.b 24 * b.wb))).takeFree 40 →
      exec (.beamWeights src) s = .next (replied s p { handle := p.target, r0 := b.weightGen % 2 ^ 32 }
        (w.2.updBeam p.target fun b => { b with swapReq := bit (u8 p.b 16) 0, writingTo := s.now + w.1 })) ∧
      w.2.plane = s.plane ∧ w.2.tk = s.tk ∧ w.2.handles = s.handles ∧
      (bit (u8 p.b 16) 1 = false → u32 p.b 24 = 0 → w.2.vault = s.vault)) ∧
    (∀ h b next, s.beam? h = some b → b.swapReq = true → s.teller.safe = false → s.hstate h ≠ .faulted →
      next = (match b.ready with | r :: _ => (r.1, r.2.1) | [] => b.next) →
      (s.hstate h ≠ .running ∧ s.hstate h ≠ .stopping) ∨
        (b.swept = 0 ∧ next.2 = 0 ∧ b.spanSums = [] ∧
          (b.kind ≠ 3 ∨ next.1 % max b.kb 1 = 0 ∨ ∀ r ∈ b.recs, r.drained = false)) →
      (b.writingTo ≤ s.now → exec (.weightSwap h) s = .next (s.updBeam h fun b =>
        { b with active := 1 - b.active, swapReq := false, weightGen := b.weightGen + 1 })) ∧
      (s.now < b.writingTo → exec (.weightSwap h) s = .next (s.updBeam h fun b =>
        { b with weightLate := satAdd 16 b.weightLate 1 })))

/-- R221, R231, R220, R227, R224, R226: the next span of a running beam product whose slots are past becomes ready; the sweep whose
turn it is ends and the next has its turn; a span sum of a record that has been flushed is dropped, and the first of a record starts it,
with the sum's span, slots and weights. An integer beam sum is the exact sum of products, without conjugation, a VOLT8 part is the rounded
shift clamped to ±127, and the power of integer sums is the exact sum of squares. -/
def Obligations.SweepsRunInOrder : Prop :=
  (∀ (s : State) (h : Handle) (b : Beam) (span a e : Nat), s.teller.safe = false → s.beam? h = some b → s.hstate h = .running →
    b.next = (span, 0) → s.spanPieces b span = [(a, e)] → s.piecePassed b.stream e = true → s.mapDue b.stream e = false →
    s.beamChans b a ≠ [] →
    exec (.spanReady h span) s = .next (s.updBeam h fun b => { b with
      next := (span + 1, 0), ready := b.ready ++ [(span, 0, s.gated b.stream (b.spanStart span) span)] })) ∧
  (∀ (s : State) (sw : Sweep) (b : Beam) (piece a e nb : Nat) (gate : Bool) (rest : List (Nat × Nat × Bool)) (chans : List Nat),
    s.teller.safe = false → s.beam? sw.handle = some b → b.ready = (sw.span, piece, gate) :: rest →
    (s.spanPieces b sw.span)[piece]? = some (a, e) → chans = s.beamChans b a → nb = (s.ranksIn .beam).length → nb ≠ 0 →
    chans.contains sw.chan = true → sw.round < ceilDiv b.nbb nb → sw.g < b.depth →
    b.swept = (chans.idxOf sw.chan * ceilDiv b.nbb nb + sw.round) * b.depth + sw.g →
    ∃ t, exec (.sweepEnd sw) s = .next t ∧ t.plane = s.plane ∧ t.tk = s.tk ∧ t.lanes = s.lanes ∧
      (b.swept + 1 ≠ chans.length * ceilDiv b.nbb nb * b.depth →
        (t.beam? sw.handle).map (fun c => (c.swept, c.ready)) = some (b.swept + 1, b.ready)) ∧
      (b.swept + 1 = chans.length * ceilDiv b.nbb nb * b.depth →
        (t.beam? sw.handle).map (fun c => (c.swept, c.ready, c.sums)) = some (0, rest, []))) ∧
  (∀ (s : State) (h : Handle) (b : Beam) (it : SpanSum) (rest : List SpanSum) (n : Nat), s.teller.safe = false → s.beam? h = some b →
    b.spanSums = it :: rest → n = it.span / max b.kb 1 →
    ((b.recOr it.chan (n % 2)).done = true ∨ (b.recOr it.chan (1 - n % 2)).done = true →
      exec (.powerSpanAdd h) s = .next (noticed s (((s.updBeam h fun b => { b with spanSums := rest }).countSpan h it.span).trimAll))) ∧
    ∃ t, exec (.powerSpanAdd h) s = .next t ∧ (t.beam? h).map Beam.spanSums = some rest ∧ t.plane = s.plane ∧ t.tk = s.tk ∧
      (t.beam? h).map Beam.seq = some b.seq ∧
      (b.rec? it.chan (n % 2) = none → b.rec? it.chan (1 - n % 2) = none → it.block = 0 → it.flush = false → b.aborted = false →
        ((t.beam? h).bind fun b => b.rec? it.chan (n % 2)).map
            (fun r => (r.drained, r.subint, r.start, r.stop, r.tally, r.settled, r.weights)) =
          some (true, it.span, it.first, it.stop, (if b.nbb = 1 then it.tally else 0), it.settled, it.weights))) ∧
  (∀ (w x : List (Int × Int)), beamInt w x =
    (((List.zip w x).map fun e : (Int × Int) × (Int × Int) => e.1.1 * e.2.1 - e.1.2 * e.2.2).sum,
     ((List.zip w x).map fun e : (Int × Int) × (Int × Int) => e.1.1 * e.2.2 + e.1.2 * e.2.1).sum)) ∧
  (∀ (b : Beam) (v : Int), b.fp = false → b.kind = 1 →
    b.voltPart v = (leInt 1 (clampSym 127 (rhe v b.vshift)), clampSym 127 (rhe v b.vshift) != rhe v b.vshift)) ∧
  (∀ (b : Beam) (l : List (Int × Int)), b.fp = false → b.powerSum l = ((l.map fun v => v.1 ^ 2 + v.2 ^ 2).sum, 0))

/-! ### Triggers -/

/-- R390, R235, R238, R239, R240: TRIG_RULE_CREATE makes a rule of its tag, gives the lowest free coarse beams to it and answers them; a
BEAM rule whose coincidence holds on the samples that the trigger path has, and whose hold-off has passed, fires with the highest metric
and its beam and pulses its TRIG_OUT pins; a PIN rule fires on an edge of its pin that is long enough; a pulse ends when its time is over. -/
def Obligations.TriggerRulesFire : Prop :=
  (∀ (s : State) (src : Source) (p : Pkt), Accepted 0x38 trigRuleCreateBody src true .failed p s →
    ∃ u h, exec (.trigRuleCreate src) s = .next (replied s p { handle := h, r0 :=
        ((((List.range 32).filter fun i => (s.coarseBeam i).owner == 0).take (u8 p.b 46)).map fun i => 2 ^ i).sum } u) ∧
      (s.handles.Fit → s.find h = none ∧ u.hstate h = .created ∧ (u.rule? h).map TrigRule.tag = some (BitVec.ofNat 32 (u32 p.b 20))) ∧
      (s.coarse.length = 32 → ∀ i ∈ ((List.range 32).filter fun i => (s.coarseBeam i).owner == 0).take (u8 p.b 46),
        (u.coarseBeam i).owner = h)) ∧
  (∀ (s : State) (d : Detection) (r : TrigRule) (u : State) (best : Nat × Nat), s.teller.safe = false → s.rule? d.handle = some r →
    r.kind = 1 → (∀ u, r.lastFire = some u → u + r.holdoffUs * 1000 * tickNs ≤ s.fireTime r d.index) →
    u = s.withEarly d.early → u.coincidence r d.index = some true → u.bestMetric r d.index = some best →
    ∃ t, exec (.trigRuleFire d) s = .next t ∧
      (s.firedOnBad r d.index = false → t = noticed s ((s.updRule d.handle fun r => { r with fires := r.fires ++ [d.index] }).fire
        d.handle r (s.fireTime r d.index) 0 best.2 best.1 [(d.handle, d.index)])) ∧
      (t.rule? d.handle).map (fun r => (r.lastFire, r.fires)) = some (some (s.fireTime r d.index), r.fires ++ [d.index]) ∧
      (∀ pin, pin < 4 →
        (r.outMask.getLsbD pin = true → ∃ e, t.pins.trigOut.getD pin none = some e ∧ s.now + 8 * r.pulse * tickNs ≤ e) ∧
        (r.outMask.getLsbD pin = false → t.pins.trigOut.getD pin none = s.pins.trigOut.getD pin none)) ∧ t.now = s.now) ∧
  (∀ (s : State) (pin highNs : Nat) (h : Handle) (r : TrigRule) (q : Nat), s.teller.safe = false → s.rule? h = some r →
    r.takesEdge pin highNs (s.now / (2 * tickNs) * (2 * tickNs)) = true → r.outMask.getLsbD q = true → q < 4 →
    ∃ t, exec (.trigInEdge pin highNs) s = .next t ∧
      (t.rule? h).map (fun r => (r.lastEdge, r.lastFire)) =
        some (some (s.now / (2 * tickNs) * (2 * tickNs)), some (s.now / (2 * tickNs) * (2 * tickNs))) ∧
      ∃ e, t.pins.trigOut.getD q none = some e ∧ s.now + 8 * r.pulse * tickNs ≤ e) ∧
  (∀ (s : State) (pin e : Nat), s.pins.trigOut.getD pin none = some e → e ≤ s.now →
    exec (.trigOutPulseEnd pin) s = .next { s with pins := { s.pins with trigOut := s.pins.trigOut.set pin none } })

/-! ### Captures -/

/-- R391, R392, R393, R394, R248, R249, R345: CAPTURE_CREATE takes the lowest free blocks of the Reserve and answers retention and rate;
CAPTURE_ARM empties the ring and arms. A freeze of a RUNNING capture in STOP mode answers window 0 and stops it; one in KEEP mode answers
the lowest free window number, or that of the window it is merged into, and a refused one NO_RESOURCE; with FORWARD a TRIG of SOURCE 1
leaves; in STOPPING and STOPPED it is ALREADY_COMPLETE and counted. The delivery of a frozen window starts and is answered when it ends;
with RELEASE_ONLY the window is released at once. -/
def Obligations.CaptureCommandsAct : Prop :=
  ∀ (s : State) (src : Source) (p : Pkt),
    (∀ n c, Accepted 0x39 captureCreateBody src true .failed p s → n = ceilDiv (s.captureOf p).allBlocks (max 1 s.resChans.length) →
      c = { s.captureOf p with
        stripes := takeRanges n (freeRanges s.resBlocks s.reserve.used)
        retentionMs := (Frac.div (s.retention (s.captureOf p)) (Frac.nat 1000000)).open
        rateMb := (Frac.div (s.captureRate (s.captureOf p)) (Frac.nat 1000000)).open } →
      ∃ h hs, s.handles.alloc (.capture c) = some (h, hs) ∧
        exec (.captureCreate src) s = .next (replied s p { handle := h, r0 := c.retentionMs % 2 ^ 32, r1 := c.rateMb % 2 ^ 32 }
          { s.pop src with handles := hs, reserve := { s.reserve with used := s.reserve.used ++ c.stripes } }) ∧
        (s.handles.Fit → s.find h = none ∧ { s with handles := hs }.hstate h = .created ∧
          { s with handles := hs }.capture? h = some c)) ∧
    (∀ c, Accepted 0x3A captureArmBody src true .failed p s → s.capture? p.target = some c →
      ∃ u, exec (.captureArm src) s = .next (replied s p { handle := p.target } u) ∧ u = { s.pop src with handles := u.handles } ∧
        u.hstate p.target = .armed ∧ u.capture? p.target = some { c with
          start := if u64 p.b 16 = 0 then p.commitAt else s.full (BitVec.ofNat 64 (u64 p.b 16))
          blocks := [], windows := [], packed := [], next := 0, heads := [] }) ∧
    (∀ c f u, Accepted 0x3B captureFreezeBody src true .failed p s → s.capture? p.target = some c →
      (s.pop src).freeze p.target (s.full (BitVec.ofNat 64 (u64 p.b 16))) (u32 p.b 24) (u32 p.b 28) [] = (f, u) →
      (∀ n clipped merged, f = .window n clipped merged → exec (.captureFreeze src) s = .next (replied s p
        { handle := p.target, r0 := n, r1 := flagBit clipped 0 + flagBit merged 1 }
        (if bit (u8 p.b 32) 0 then u.sendTrig (u64 p.b 40) (BitVec.ofNat 64 (u64 p.b 16)) (BitVec.ofNat 32 (u32 p.b 36)) (u32 p.b 24)
          (u32 p.b 28) 1 0 0 else u))) ∧
      (s.hstate p.target = .running → c.keep = false → (∃ clipped, f = .window 0 clipped false) ∧
        (u.hstate p.target = .stopping ∨ u.hstate p.target = .stopped) ∧
        (u.capture? p.target).map (fun d => d.windows.map Prod.fst) = some [0]) ∧
      (∀ w, s.hstate p.target = .running → c.keep = true →
        w = s.clipWindow c (s.full (BitVec.ofNat 64 (u64 p.b 16)) - min (u32 p.b 24) c.preMax * tickNs)
          (s.full (BitVec.ofNat 64 (u64 p.b 16)) + min (u32 p.b 28) c.postMax * tickNs) [] →
        (f = .refused → exec (.captureFreeze src) s = .next (replied s p { status := stResource }
          ((s.pop src).updCapture p.target fun c => { c with freezeRefused := satAdd 32 c.freezeRefused 1 }))) ∧
        (f = .refused ∨ ∃ n merged, f = .window n w.clipped merged ∨ ∃ v ∈ c.windows, v.2.touches w = true ∧ ∃ clipped,
          f = .window n clipped merged) ∧
        (c.windows = [] → s.protectedBy c [w] * 2 ≤ c.ringBlocks → f = .window 0 w.clipped false ∧ u.hstate p.target = .running ∧
          (u.capture? p.target).map (fun d => d.windows.map fun v => (v.1, v.2.first, v.2.stop)) = some [(0, w.first, w.stop)])) ∧
      (s.hstate p.target ≠ .running →
        exec (.captureFreeze src) s = .next (replied s p { status := stAlready, handle := p.target }
          ((s.pop src).updCapture p.target fun c => { c with trigIgnored := satAdd 32 c.trigIgnored 1 })))) ∧
    (∀ c, Accepted 0x3C captureReadBody src true .failed p s → s.capture? p.target = some c →
      (bit (u8 p.b 17) 2 = true → exec (.captureRead src) s = .next (repliedTwice s p { handle := p.target } { handle := p.target }
        ((s.pop src).releaseWindow p.target (u8 p.b 16)))) ∧
      (bit (u8 p.b 17) 2 = false → exec (.captureRead src) s = .next (queued s p { handle := p.target } (.captureRead p.target)
        ((s.pop src).updCapture p.target fun c => { c with reading := some {
          window := u8 p.b 16, flags := BitVec.ofNat 8 (u8 p.b 17), port := u16 p.b 18, rate := u32 p.b 20
          dest := BitVec.ofNat 64 (u64 p.b 24) } }))))

/-- R392, R246, R247, R311, R394: at its start time an ARMED capture runs; the next block that is whole is written to the Till
of its channel, or dropped, marked GAP and counted where that has no room; the end of a delivery clears it and posts the final reply of
its CAPTURE_READ, with the blocks delivered and those with GAP, or FAULT where the write to the host failed. -/
def Obligations.CapturesWriteAndDeliver : Prop :=
  (∀ (s : State) (h : Handle) (c : Capture), s.capture? h = some c → s.teller.safe = false → s.hstate h = .armed → c.start ≤ s.now →
    ∃ t, exec (.captureWriteStart h) s = .next t ∧ t = { s with handles := t.handles } ∧ t.hstate h = .running ∧
      t.capture? h = some { c with heads := (List.range c.unitCount).map (fun u => s.capFrom c u c.start), next := 0 }) ∧
  (∀ (s : State) (h : Handle) (c : Capture) (u i k : Nat) (d : BlockData) (room : Bool), s.capture? h = some c → s.teller.safe = false →
    s.hstate h = .running ∨ s.hstate h = .stopping → u = s.nextUnit c → i = c.heads.getD u 0 → u < c.heads.length →
    k = c.chOf c.place → k < s.reserve.ch.length →
    room = ((s.ch k).level < 16 && !(s.ch k).throttled && (s.ch k).state == 1) →
    ((∃ fs, c.format = 1 ∧ fs = c.rates.getD (u / c.perGroup) 0 ∧ s.rawWhole fs (c.groupOf u) (i + 4096) = true ∧
        d = s.rawBlock c fs (c.groupOf u) i) ∨
      (∃ packed, c.format ≠ 1 ∧ packed = s.packedNext c.stream (((s.desc c.stream).map (·.epoch)).getD 0) ∧ i + 8 ≤ packed ∧
        d = c.chanBlock (c.groupOf u) (c.blockOf u) i)) →
    ∃ t, exec (.captureBlockWrite h) s = .next t ∧ t.plane = s.plane ∧ t.fe = s.fe ∧
      (t.capture? h).map (fun e => (e.heads.getD u 0, e.capSat)) = some (i + c.step, satAdd 32 c.capSat d.clamped) ∧
      ((t.capture? h).bind fun e => e.blocks.find? fun b => b.pos == c.place).map (fun b => (b.first, b.group, b.valid, b.flags &&& fGap)) =
        some (i, c.groupOf u, if room then d.bytes.countP (· != markerOf c.format) else 0, if room then 0 else fGap) ∧
      (room = true → (t.ch k).till.map (fun w => (w.handle, w.pos, w.data)) =
        (s.ch k).till.map (fun w => (w.handle, w.pos, w.data)) ++ [(h, c.place, d.bytes)]) ∧
      (room = false → (t.ch k).till = (s.ch k).till ∧ (t.ch k).gapBlocks = satAdd 32 (s.ch k).gapBlocks 1)) ∧
  (∀ (s : State) (h : Handle) (c : Capture) (r : CapRead) (bad : List Nat) (wr : Bool) (l : List CapBlock), s.teller.safe = false →
    s.capture? h = some c → c.reading = some r → l = c.inWindow ((s.windowOf h r.window).getD { first := 0, stop := 0 }) →
    ∃ t, exec (.captureReadComplete h bad wr) s = .next t ∧ (t.capture? h).map Capture.reading = some none ∧
      (∀ e ∈ t.teller.deferred, e.wait ≠ .captureRead h) ∧ t.plane = s.plane ∧ t.tk = s.tk ∧
      (∀ x : Deferred, s.teller.deferred = [x] → x.wait = .captureRead h → x.src = .spi → x.lost = false →
        (r.flags.getLsbD 0 = false → wr = false → t.spi.replyQ = s.spi.replyQ ++
          [replyBytes x.op false false true 0 x.tag { status := stFault, r0 := 3, handle := x.handle } s.stamp]) ∧
        (r.flags.getLsbD 0 = true ∨ wr = true → ∃ poisoned, poisoned ≤ l.length ∧ t.spi.replyQ = s.spi.replyQ ++
          [replyBytes x.op false false true 0 x.tag { r0 := l.length, r1 := l.countP fun b => b.flags &&& fGap != 0, r2 := poisoned
                                                      handle := x.handle } s.stamp])))

/-! ### Words of the vector engine -/

/-- R257, R254, R256: the integer, logic and permute words: D takes the result in the lanes that PRED enables, every other lane and
register keeps its value, and the context goes on to the next word; an option that the table does not list leaves the values open. -/
def Obligations.IntegerLanesCompute : Prop :=
  ∀ (c : Nat) (w : VxWord) (s : State) (r : VxRegs) (k mask : Nat) (a b : List Nat), k = r.phys w.d.toNat → mask = r.mask w.pred.toNat →
    a = r.vec w.a → b = r.vec w.b → s.unwritten c .i k →
    (VxLive c .i 0x01 w s r → ∃ t, exec (.vadd c w) s = .next t ∧ VxWrote c .i w r (fun i => (a.getD i 0 + b.getD i 0) % 2 ^ 32) 0 s t) ∧
    (VxLive c .i 0x02 w s r → ∃ t, exec (.vsub c w) s = .next t ∧ VxWrote c .i w r (fun i => (a.getD i 0 + 2 ^ 32 - b.getD i 0) % 2 ^ 32) 0 s t) ∧
    (VxLive c .i 0x03 w s r → ∃ t, exec (.vmul c w) s = .next t ∧ VxWrote c .i w r (fun i => a.getD i 0 * b.getD i 0 % 2 ^ 32) 0 s t) ∧
    (VxLive c .i 0x04 w s r → ∃ t, exec (.vmulh c w) s = .next t ∧ VxWrote c .i w r (fun i => mulHigh (a.getD i 0) (b.getD i 0)) 0 s t) ∧
    (VxLive c .i 0x05 w s r → ∃ t, exec (.vadd64 c w) s = .next t ∧ VxWrote c .i w r (fun i => (pair64 a (i / 2) + pair64 b (i / 2)) % 2 ^ 64 / 2 ^ (32 * (i % 2)) % 2 ^ 32) 0 s t) ∧
    (VxLive c .i 0x06 w s r → ∃ t, exec (.vsub64 c w) s = .next t ∧ VxWrote c .i w r (fun i => (pair64 a (i / 2) + 2 ^ 64 - pair64 b (i / 2)) % 2 ^ 64 / 2 ^ (32 * (i % 2)) % 2 ^ 32) 0 s t) ∧
    (VxLive c .i 0x07 w s r → ∃ t, exec (.vand c w) s = .next t ∧ VxWrote c .i w r (fun i => a.getD i 0 &&& b.getD i 0) 0 s t) ∧
    (VxLive c .i 0x08 w s r → ∃ t, exec (.vor c w) s = .next t ∧ VxWrote c .i w r (fun i => a.getD i 0 ||| b.getD i 0) 0 s t) ∧
    (VxLive c .i 0x09 w s r → ∃ t, exec (.vxor c w) s = .next t ∧ VxWrote c .i w r (fun i => a.getD i 0 ^^^ b.getD i 0) 0 s t) ∧
    (VxLive c .i 0x0A w s r → ∃ t g, exec (.vsh c w) s = .next t ∧ VxWrote c .i w r g 0 s t ∧
      ∀ i count, i < 64 → bit mask i = true → count = (if w.imm7.toNat % 32 = 0 then b.getD i 0 else w.imm7.toNat % 32) → count < 32 →
        w.imm7.toNat / 32 ≠ 3 → g i = shift32 (w.imm7.toNat / 32) count (a.getD i 0)) ∧
    (VxLive c .i 0x0B w s r → ∃ t, exec (.vsel c w) s = .next t ∧
      VxMoved c .i 1 ((s.ctx c).regs.withLanes k allLanes fun i => if bit mask i then a.getD i 0 else b.getD i 0) s t) ∧
    (VxLive c .i 0x0C w s r → ∃ t, exec (.vperm c w) s = .next t ∧ VxWrote c .i w r (fun i => a.getD (b.getD i 0 % 64) 0) 0 s t) ∧
    (VxLive c .i 0x0D w s r → ∃ t, exec (.vbcast c w) s = .next t ∧ VxWrote c .i w r (fun _ => a.getD (w.imm7.toNat % 64) 0) 0 s t) ∧
    (VxLive c .i 0x0E w s r → ∃ t, exec (.vmovi c w) s = .next t ∧ VxWrote c .i w r (fun _ => wrapBits 32 (vxImm14 w)) 0 s t) ∧
    (VxLive c .i 0x10 w s r → ∃ t g ff, exec (.vpack c w) s = .next t ∧ VxWrote c .i w r g ff s t ∧
      ∀ width n, width = w.imm7.toNat → width = 8 ∨ width = 16 → n = 32 / width → (∀ i, i < 64 / n → g i = (packLane width n a i).1) ∧
        ff = ffOf mask fun i => if i < 64 / n then (packLane width n a i).2 else 0)

/-- R257, R258: the floating-point words: D takes the IEEE 754 result in the enabled lanes, FF gains the exceptions of those lanes,
and nothing else changes; which exceptions vfma, vcvt.fi and vcvt.fh raise is left open where the spec does not say. -/
def Obligations.FloatLanesCompute : Prop :=
  ∀ (c : Nat) (w : VxWord) (s : State) (r : VxRegs) (k mask : Nat) (a b d : List Nat), k = r.phys w.d.toNat → mask = r.mask w.pred.toNat →
    a = r.vec w.a → b = r.vec w.b → d = r.vec w.d → s.unwritten c .f k →
    (VxLive c .f 0x01 w s r → ∃ t, exec (.vfadd c w) s = .next t ∧
      VxWrote c .f w r (fun i => (fpAdd (a.getD i 0) (b.getD i 0)).1) (ffOf mask fun i => (fpAdd (a.getD i 0) (b.getD i 0)).2) s t) ∧
    (VxLive c .f 0x02 w s r → ∃ t, exec (.vfsub c w) s = .next t ∧
      VxWrote c .f w r (fun i => (fpSub (a.getD i 0) (b.getD i 0)).1) (ffOf mask fun i => (fpSub (a.getD i 0) (b.getD i 0)).2) s t) ∧
    (VxLive c .f 0x03 w s r → ∃ t, exec (.vfmul c w) s = .next t ∧
      VxWrote c .f w r (fun i => (fpMul (a.getD i 0) (b.getD i 0)).1) (ffOf mask fun i => (fpMul (a.getD i 0) (b.getD i 0)).2) s t) ∧
    (VxLive c .f 0x05 w s r → ∃ t, exec (.vfmin c w) s = .next t ∧
      VxWrote c .f w r (fun i => (fpMin (a.getD i 0) (b.getD i 0)).1) (ffOf mask fun i => (fpMin (a.getD i 0) (b.getD i 0)).2) s t) ∧
    (VxLive c .f 0x06 w s r → ∃ t, exec (.vfmax c w) s = .next t ∧
      VxWrote c .f w r (fun i => (fpMax (a.getD i 0) (b.getD i 0)).1) (ffOf mask fun i => (fpMax (a.getD i 0) (b.getD i 0)).2) s t) ∧
    (VxLive c .f 0x08 w s r → ∃ t, exec (.vcvtIf c w) s = .next t ∧
      VxWrote c .f w r (fun i => (fpOfInt (a.getD i 0)).1) (ffOf mask fun i => (fpOfInt (a.getD i 0)).2) s t) ∧
    (VxLive c .f 0x0A w s r → ∃ t, exec (.vcvtHf c w) s = .next t ∧
      VxWrote c .f w r (fun i => (fpOfHalf (a.getD i 0 / 2 ^ (16 * (w.imm7.toNat % 2)) % 65536)).1) (ffOf mask fun i => (fpOfHalf (a.getD i 0 / 2 ^ (16 * (w.imm7.toNat % 2)) % 65536)).2) s t) ∧
    (VxLive c .f 0x04 w s r → ∃ t ff, exec (.vfma c w) s = .next t ∧
      VxWrote c .f w r (fun i => (fpFma (a.getD i 0) (b.getD i 0) (d.getD i 0) s).1) ff s t) ∧
    (VxLive c .f 0x09 w s r → ∃ t ff, exec (.vcvtFi c w) s = .next t ∧ VxWrote c .f w r (fun i => (fpFix (a.getD i 0) s).1) ff s t) ∧
    (VxLive c .f 0x0B w s r → ∃ t g ff, exec (.vcvtFh c w) s = .next t ∧ VxWrote c .f w r g ff s t ∧
      ∀ i, i < 64 → bit mask i = true → ∃ v, (b32.isNan (a.getD i 0) = true → v < 65536) ∧ (b32.isNan (a.getD i 0) = false → v = (fpToHalf (a.getD i 0) s).1) ∧
        g i = if w.imm7.toNat % 2 = 1 then v * 65536 + d.getD i 0 % 65536 else d.getD i 0 / 65536 * 65536 + v) ∧
    (VxLive c .f 0x0C w s r → ∃ t g, exec (.vfabs c w) s = .next t ∧ VxWrote c .f w r g 0 s t ∧
      (w.imm7.toNat ≤ 1 → ∀ i, i < 64 → bit mask i = true → g i = fpAbs (w.imm7 == 1) (a.getD i 0)))

/-- R257, R254, R259: the words that write a predicate or one lane: compares, mop, xflag, vcrc and getc; m0 keeps reading as ones; an
option that the table does not list leaves the bits open. -/
def Obligations.PredicatesAndScalarsCompute : Prop :=
  ∀ (c : Nat) (w : VxWord) (s : State) (r : VxRegs) (m mask : Nat) (a b : List Nat), m = w.d.toNat % 8 → mask = r.mask w.pred.toNat →
    a = r.vec w.a → b = r.vec w.b →
    (VxLive c .f 0x07 w s r → s.unwritten c .f (regM m) → ∃ t v ff, exec (.vfcmp c w) s = .next t ∧
      VxMoved c .f 1 (((s.ctx c).regs.withMask m mask v).withFf ff) s t ∧
      (w.imm7.toNat ≤ 3 → v = ofMask ((List.range 64).map fun i => bit mask i && (fpCmp w.imm7.toNat (a.getD i 0) (b.getD i 0) s).1))) ∧
    (VxLive c .i 0x0F w s r → s.unwritten c .i (regM m) → ∃ t v, exec (.vcmp c w) s = .next t ∧
      VxMoved c .i 1 ((s.ctx c).regs.withMask m mask v) s t ∧
      (w.imm7.toNat ≤ 3 → v = ofMask ((List.range 64).map fun i => bit mask i && intCmp w.imm7.toNat (a.getD i 0) (b.getD i 0)))) ∧
    (∀ x y, VxLive c .i 0x12 w s r → s.unwritten c .i (regM m) → x = r.mask w.a.toNat → y = r.mask w.b.toNat →
      ∃ t v, exec (.mop c w) s = .next t ∧ VxMoved c .i 1 ((s.ctx c).regs.withMask m mask v) s t ∧
        (w.imm7.toNat ≤ 3 → v = [x &&& y, x ||| y, x ^^^ y, x &&& (allLanes - y)].getD w.imm7.toNat 0)) ∧
    (VxLive c .x 0x09 w s r → s.unwritten c .x (regM m) → ∃ t v, exec (.xflag c w) s = .next t ∧
      VxMoved c .x 1 ((s.ctx c).regs.withMask m mask v) s t ∧
      (w.imm7.toNat ≤ 1 → v = ((if w.imm7.toNat = 0 then r.xovf else r.xnan).getD (w.a.toNat % 4) 0).toNat)) ∧
    (∀ d, VxLive c .i 0x11 w s r → r.scalar w.d = some d → s.unwritten c .i w.d.toNat →
      ∃ t, exec (.vcrc c w) s = .next t ∧
        VxMoved c .i 1 ((s.ctx c).regs.withLanes w.d.toNat (mask &&& 1) fun _ => crcRun polyC d (a.flatMap (le 4))) s t) ∧
    (VxLive c .x 0x25 w s r → w.d.toNat < 64 → s.unwritten c .x w.d.toNat → ∃ t v, exec (.getc c w) s = .next t ∧
      VxMoved c .x 1 ((s.ctx c).regs.withLanes w.d.toNat (mask &&& 1) fun _ => v) s t ∧
      ∀ u, r.control w.imm7.toNat = some u → v = u)

/-- R257, R263, R264, R266: the long-accumulator words: sums of integers and of finite binary32 values are exact, wrap outside
320 bits with XOVF, a NaN or infinity sets XNAN alone; xrnd rounds the exact value once, and a lane with XOVF or XNAN gives the NaN
and invalid; a scale or a mode that the table does not list leaves the enabled lanes open. -/
def Obligations.LongAccumulatorsAreExact : Prop :=
  ∀ (c : Nat) (w : VxWord) (s : State) (r : VxRegs) (k mask : Nat) (a b : List Nat) (acc src : List AccLane), k = w.d.toNat % 4 →
    mask = r.mask w.pred.toNat → a = r.vec w.a → b = r.vec w.b → acc = r.acc k → src = r.acc (w.a.toNat % 4) →
    s.unwritten c .x (regX k) →
    (VxLive c .x 0x01 w s r → ∃ t, exec (.xclr c w) s = .next t ∧
      VxMoved c .x 1 ((s.ctx c).regs.withAcc k mask fun _ => { v := 0 }) s t) ∧
    (VxLive c .x 0x02 w s r → ∃ t, exec (.xaddf c w) s = .next t ∧
      VxMoved c .x 1 ((s.ctx c).regs.withAcc k mask fun i => (acc.getD i { v := 0 }).addFloat 1 (a.getD i 0)) s t) ∧
    (VxLive c .x 0x03 w s r → ∃ t, exec (.xsubf c w) s = .next t ∧
      VxMoved c .x 1 ((s.ctx c).regs.withAcc k mask fun i => (acc.getD i { v := 0 }).addFloat (-1) (a.getD i 0)) s t) ∧
    (VxLive c .x 0x06 w s r → ∃ t, exec (.xaddx c w) s = .next t ∧
      VxMoved c .x 1 ((s.ctx c).regs.withAcc k mask fun i => (acc.getD i { v := 0 }).add (src.getD i { v := 0 }).v) s t) ∧
    (VxLive c .x 0x04 w s r → ∃ t g, exec (.xaddi c w) s = .next t ∧ VxMoved c .x 1 ((s.ctx c).regs.withAcc k mask g) s t ∧
      (w.imm7.toNat ≤ 63 → ∀ i, i < 64 → g i = (acc.getD i { v := 0 }).add (sext 32 (a.getD i 0) * 2 ^ (149 + w.imm7.toNat)))) ∧
    (VxLive c .x 0x05 w s r → ∃ t g, exec (.xaddu c w) s = .next t ∧ VxMoved c .x 1 ((s.ctx c).regs.withAcc k mask g) s t ∧
      (w.imm7.toNat ≤ 63 → ∀ i, i < 64 → g i = (acc.getD i { v := 0 }).add ((a.getD i 0 : Nat) * 2 ^ (149 + w.imm7.toNat)))) ∧
    (∀ mode, VxLive c .x 0x07 w s r → s.unwritten c .x (r.phys w.d.toNat) → mode = w.imm7.toNat % 4 →
      ∃ t g ff, exec (.xrnd c w) s = .next t ∧ VxWrote c .x w r g ff s t ∧
        (∀ i, i < 64 → bit mask i = true → (src.getD i { v := 0 }).ovf = true ∨ (src.getD i { v := 0 }).nan = true → g i = nan32) ∧
        (mode ≠ 3 → (∀ i, i < 64 → bit mask i = true → (src.getD i { v := 0 }).ovf = false → (src.getD i { v := 0 }).nan = false →
            g i = (accRound mode (src.getD i { v := 0 }).v (b.getD i 0 % 2 ^ 24)).1) ∧
          ff = ffOf mask fun i => if (src.getD i { v := 0 }).ovf || (src.getD i { v := 0 }).nan then ffInvalid
            else (accRound mode (src.getD i { v := 0 }).v (b.getD i 0 % 2 ^ 24)).2)) ∧
    (VxLive c .x 0x08 w s r → s.unwritten c .x (r.phys w.d.toNat) → ∃ t g ff, exec (.xrndl c w) s = .next t ∧ VxWrote c .x w r g ff s t ∧
      ∀ i, i < 64 → bit mask i = true → w.imm7.toNat ≤ 1 → (src.getD i { v := 0 }).ovf = false → (src.getD i { v := 0 }).nan = false →
        g i = wrapBits 64 (accInt (src.getD i { v := 0 }).v).1 / 2 ^ (32 * w.imm7.toNat) % 2 ^ 32)

/-- R257, R255: the loads put the word of each enabled lane into D, and the stores each enabled lane of D into its word, for equal
addresses the higher lane's; vldp and vstp then add their offset to lane 0 of the pointer, which where D is A is the word loaded. -/
def Obligations.VectorMemoryWords : Prop :=
  ∀ (c : Nat) (w : VxWord) (s : State) (r : VxRegs) (base mask : Nat) (addr : Nat → Nat) (loaded : VxRegs) (stored : State → Prop),
    r.scalar w.a = some base → mask = r.mask w.pred.toNat → VxReach c mask addr → Memory.wf {} s.vx.data = true →
    loaded = (s.ctx c).regs.withLanes (r.phys w.d.toNat) mask (fun i => (Memory.get {} s.vx.data (addr i / 4)).data) →
    (∀ t, stored t ↔ t = { s with vx := t.vx } ∧ (t.ctx c).slot = 1 ∧ (t.ctx c).pc = (s.ctx c).pc ∧ Memory.wf {} t.vx.data = true ∧
      t.vx.prog = s.vx.prog ∧ (∀ n, n ≠ c → t.ctx n = s.ctx n) ∧
      (∀ i, i < 64 → bit mask i = true → (∀ j, i < j → j < 64 → bit mask j = true → addr j ≠ addr i) →
        Memory.get {} t.vx.data (addr i / 4) = { data := (r.vec w.d).getD i 0 }) ∧
      ∀ x, (∀ i, i < 64 → bit mask i = true → addr i / 4 ≠ x) → Memory.get {} t.vx.data x = Memory.get {} s.vx.data x) →
    ((∀ i : Nat, (addr i : Int) = ((base : Int) + vxImm14 w * 256 + 4 * i) % 2 ^ 32) →
      ((∀ i, i < 64 → bit mask i = true → (Memory.get {} s.vx.data (addr i / 4)).flips = []) →
        (VxLive c .l 0x01 w s r → ∃ t, exec (.vld c w) s = .next t ∧ VxMoved c .l 1 loaded s t) ∧
        (VxLive c .l 0x02 w s r → ∃ t, exec (.vldp c w) s = .next t ∧ VxMoved c .l 1 (loaded.withLanes w.a.toNat 1 fun _ =>
          ((((loaded.vec w.a).headD 0 : Nat) + vxImm14 w * 256) % 2 ^ 32).toNat) s t)) ∧
      (VxLive c .l 0x03 w s r → ∃ t, exec (.vst c w) s = .next t ∧ stored t ∧ (t.ctx c).regs = (s.ctx c).regs) ∧
      (VxLive c .l 0x04 w s r → ∃ t, exec (.vstp c w) s = .next t ∧ stored t ∧ (t.ctx c).regs =
        (s.ctx c).regs.withLanes w.a.toNat 1 fun _ => (((base : Int) + vxImm14 w * 256) % 2 ^ 32).toNat)) ∧
    (∀ step, r.scalar w.b = some step → (∀ i, addr i = (base + i * step) % 2 ^ 32) →
      (∀ i, i < 64 → bit mask i = true → (Memory.get {} s.vx.data (addr i / 4)).flips = []) →
      VxLive c .l 0x05 w s r → ∃ t, exec (.vlds c w) s = .next t ∧ VxMoved c .l 1 loaded s t) ∧
    ((∀ i, addr i = (base + (r.vec w.b).getD i 0) % 2 ^ 32) →
      ((∀ i, i < 64 → bit mask i = true → (Memory.get {} s.vx.data (addr i / 4)).flips = []) →
        VxLive c .l 0x06 w s r → ∃ t, exec (.vgath c w) s = .next t ∧ VxMoved c .l 1 loaded s t) ∧
      (VxLive c .l 0x07 w s r → ∃ t, exec (.vscat c w) s = .next t ∧ stored t ∧ (t.ctx c).regs = (s.ctx c).regs))

/-- R265: xst puts the 40 B of each enabled lane at its place of the image, lowest word first, and leaves every other word; xld
takes each enabled lane from there with XOVF and XNAN clear. -/
def Obligations.AccumulatorImagesMove : Prop :=
  ∀ (c : Nat) (w : VxWord) (s : State) (r : VxRegs) (base k mask : Nat) (at_ : Nat → Nat → Nat), r.scalar w.a = some base →
    k = w.d.toNat % 4 → mask = r.mask w.pred.toNat →
    (∀ i j : Nat, (at_ i j : Int) = ((base : Int) + vxImm14 w * 256 + 40 * i + 4 * j) % 2 ^ 32) → (∀ j, j < 10 → VxReach c mask (at_ · j)) →
    (VxLive c .l 0x08 w s r → (∀ i j, i < 64 → j < 10 → bit mask i = true → (Memory.get {} s.vx.data (at_ i j / 4)).flips = []) →
      ∃ t, exec (.xld c w) s = .next t ∧ VxMoved c .l 1 ((s.ctx c).regs.withAcc k mask fun i =>
        { v := sext 320 ((List.range 10).foldr (fun j n => (Memory.get {} s.vx.data (at_ i j / 4)).data + 2 ^ 32 * n) 0) }) s t) ∧
    (VxLive c .l 0x09 w s r → Memory.wf {} s.vx.data = true →
      ∃ t, exec (.xst c w) s = .next t ∧ t = { s with vx := t.vx } ∧ (t.ctx c).regs = (s.ctx c).regs ∧ (t.ctx c).slot = 1 ∧
        (t.ctx c).pc = (s.ctx c).pc ∧ Memory.wf {} t.vx.data = true ∧
        (∀ i j, i < 64 → j < 10 → bit mask i = true → Memory.get {} t.vx.data (at_ i j / 4) =
          { data := wrapBits 320 ((r.acc k).getD i { v := 0 }).v / 2 ^ (32 * j) % 2 ^ 32 }) ∧
        ∀ x, (∀ i j, i < 64 → j < 10 → bit mask i = true → at_ i j / 4 ≠ x) → Memory.get {} t.vx.data x = Memory.get {} s.vx.data x)

/-- R256, R257, R259, R260, R261, R279, R283: an empty slot and a word whose stage is not live write nothing; br, brany and brall
move by their bundles when taken; pcyc counts a pass, rotates and loops while passes are left; setc writes its control register;
wait stops the issue, and one with a mask of 0 is an illegal instruction; halt of the user kernel ends its run with the code, one with a
code above 0x7FFF_FFFF is illegal, and halt of the formatter stops it. -/
def Obligations.VectorControlFlows : Prop :=
  ∀ (c : Nat) (w : VxWord) (s : State) (r : VxRegs),
    (∀ slot, VxLive c slot 0x00 w s r → ∃ t, exec (.vxNop c slot w) s = .next t ∧ VxMoved c slot 1 (s.ctx c).regs s t) ∧
    (s.vxNext c .f 0x01 w = true → r = s.vxReads c .f → r.live w.stage.toNat = false →
      ∃ t, exec (.vfadd c w) s = .next t ∧ VxMoved c .f 1 (s.ctx c).regs s t) ∧
    (VxLive c .x 0x20 w s r → ∃ t, exec (.vxBr c w) s = .next t ∧ VxMoved c .x (vxImm14 w) (s.ctx c).regs s t) ∧
    (VxLive c .x 0x21 w s r → ∃ t, exec (.brany c w) s = .next t ∧
      VxMoved c .x (if r.mask w.pred.toNat = 0 then 1 else vxImm14 w) (s.ctx c).regs s t) ∧
    (VxLive c .x 0x22 w s r → ∃ t, exec (.brall c w) s = .next t ∧
      VxMoved c .x (if r.mask w.pred.toNat = allLanes then vxImm14 w else 1) (s.ctx c).regs s t) ∧
    (VxLive c .x 0x23 w s r → ∃ t, exec (.pcyc c w) s = .next t ∧
      (r.pls = 0 → VxMoved c .x 1 (s.ctx c).regs s t) ∧
      (r.pls ≠ 0 → (r.plp + 1).toNat < r.pln.toNat + r.pls.toNat - 1 →
        VxMoved c .x (vxImm14 w) { (s.ctx c).regs with rot := (s.ctx c).regs.rot + 1, plp := r.plp + 1 } s t) ∧
      (r.pls ≠ 0 → ¬(r.plp + 1).toNat < r.pln.toNat + r.pls.toNat - 1 →
        VxMoved c .x 1 { (s.ctx c).regs with rot := (s.ctx c).regs.rot + 1, plp := 0, pls := 0 } s t)) ∧
    (∀ v, VxLive c .x 0x24 w s r → r.scalar w.a = some v → ∃ t, exec (.setc c w) s = .next t ∧
      VxMoved c .x 1 ((s.ctx c).regs.setControl w.imm7.toNat v) s t) ∧
    (∀ v, VxLive c .x 0x26 w s r → r.scalar w.a = some v →
      (v ≠ 0 → ∃ t, exec (.vxWait c w) s = .next t ∧ t = { s with vx := t.vx } ∧ (t.ctx c).wait = some (BitVec.ofNat 8 v) ∧
        (t.ctx c).running = true ∧ (t.ctx c).slot = 0 ∧ (t.ctx c).pc = ((s.ctx c).pc + 1) % 4096 ∧
        (t.ctx c).regs = { (s.ctx c).regs with cyc := (s.ctx c).regs.cyc + 1 }) ∧
      (v = 0 → c = 1 → ∃ t, exec (.vxWait c w) s = .next t ∧ VxEnded exitIllegal s t)) ∧
    (∀ v, VxLive c .x 0x27 w s r → r.scalar w.a = some v →
      (v ≤ 0x7FFFFFFF → c = 0 → ∃ t, exec (.vxHalt c w) s = .next t ∧ t = { s with vx := t.vx } ∧ (t.ctx 0).running = false) ∧
      (0x7FFFFFFF < v → c = 1 → ∃ t, exec (.vxHalt c w) s = .next t ∧ VxEnded exitIllegal s t) ∧
      (∀ h k, v ≤ 0x7FFFFFFF → c = 1 → s.vxKernel = some h → s.kernel? h = some k → k.vx = true → s.hstate h = .running →
        ∃ t, exec (.vxHalt c w) s = .next t ∧ t.hstate h = .stopped ∧ (t.kernel? h).map Kernel.exit = some (BitVec.ofNat 32 v) ∧
          (t.ctx 1).running = false ∧ (∀ d ∈ t.teller.deferred, d.wait ≠ .kernelRun h)))

/-! ### Words of the clerks -/

/-- R270, R271, R276: the accumulator words: products and sums are exact in 56 bits and wrap or clamp with AOV outside; rnd rounds
to 24 bits, saturating with SAT; mva takes one part; no other register changes. Odd registers of cmac, the fourth part of mva and a
count of asha beyond 56 leave what the word writes open. -/
def Obligations.ClerkAccumulatorsCompute : Prop :=
  ∀ (n : Nat) (w : ClerkWord) (s : State) (k : Clerk) (i j x y : Nat), k = s.clerk n → i = w.dst.toNat % 4 → j = w.s1.toNat % 4 →
    x = w.s1.toNat → y = w.s2.toNat →
    (∀ (c : Clerk) (v : Int), c.setAcc i v = { c with
      a := c.a.set i (BitVec.ofInt 56 (if c.mode.getLsbD 1 then clampBits 56 v else v))
      st := if -(2 ^ 55) ≤ v ∧ v < 2 ^ 55 then c.st else c.st ||| BitVec.ofNat 16 (2 ^ (1 + i)) }) ∧
    (ClerkTurn n 0x01 w s → ∃ t, exec (.mac n w) s = .next t ∧ ClerkMoved n s t fun c =>
      c.setAcc i (if bit w.imm.toNat 0 then k.ai i - k.di x * k.di y * 4 else k.ai i + k.di x * k.di y * 4)) ∧
    (ClerkTurn n 0x02 w s → ∃ t, exec (.mpy n w) s = .next t ∧ ClerkMoved n s t fun c => c.setAcc i (k.di x * k.di y * 4)) ∧
    (∀ im, ClerkTurn n 0x03 w s → im = (if bit w.imm.toNat 0 then -k.di (y + 1) else k.di (y + 1)) →
      ∃ t u v, exec (.cmac n w) s = .next t ∧ ClerkMoved n s t (fun c => (c.setAcc i u).setAcc ((i + 1) % 4) v) ∧
        (w.dst.toNat % 2 = 0 → x % 2 = 0 → y % 2 = 0 →
          u = k.ai i + (k.di x * k.di y * 4) - (k.di (x + 1) * im * 4) ∧
          v = k.ai ((i + 1) % 4) + (k.di x * im * 4) + (k.di (x + 1) * k.di y * 4))) ∧
    (∀ v, ClerkTurn n 0x04 w s → v = (if k.truncates then k.ai j / 2 ^ 25 else rhe (k.ai j) 25) →
      ∃ t, exec (.rnd n w) s = .next t ∧ ClerkMoved n s t fun c => { c with
        d := c.d.set w.dst.toNat (BitVec.ofNat 24 (wrapBits 24 (clampBits 24 v)))
        st := if clampBits 24 v != v then c.st ||| 1 else c.st }) ∧
    (∀ a, ClerkTurn n 0x05 w s → a = (k.a.getD j 0).toNat →
      ∃ t v, exec (.mva n w) s = .next t ∧ ClerkMoved n s t (fun c => { c with d := c.d.set w.dst.toNat (BitVec.ofNat 24 v) }) ∧
        (w.imm.toNat % 4 = 0 → v = a % 2 ^ 24) ∧ (w.imm.toNat % 4 = 1 → v = a / 2 ^ 24 % 2 ^ 24) ∧
        (w.imm.toNat % 4 = 2 → v = wrapBits 24 (sext 8 (a / 2 ^ 48)))) ∧
    (ClerkTurn n 0x06 w s → ∃ t, exec (.adda n w) s = .next t ∧ ClerkMoved n s t fun c => c.setAcc i (k.ai i + k.ai j)) ∧
    (ClerkTurn n 0x07 w s → ∃ t, exec (.suba n w) s = .next t ∧ ClerkMoved n s t fun c => c.setAcc i (k.ai i - k.ai j)) ∧
    (ClerkTurn n 0x08 w s → ∃ t v, exec (.asha n w) s = .next t ∧ ClerkMoved n s t (fun c => c.setAcc i v) ∧
      (w.imm.toInt.natAbs ≤ 56 → v = (if (if Config.ashaLeft then decide (0 ≤ w.imm.toInt) else decide (w.imm.toInt < 0))
        then k.ai j * 2 ^ w.imm.toInt.natAbs else k.ai j / 2 ^ w.imm.toInt.natAbs))) ∧
    (ClerkTurn n 0x09 w s → ∃ t, exec (.clr n w) s = .next t ∧ ClerkMoved n s t fun c => c.setAcc i 0)

/-- R276: the data words: d(DST) takes the result, wrapped or saturated with SAT; cmp moves the flags, its carry left open; mvp moves a
pointer register either way; no other register changes. A count of sh beyond 23 and the fourth selectors of sh and mvp leave what is
written open. -/
def Obligations.ClerkDataWordsCompute : Prop :=
  ∀ (n : Nat) (w : ClerkWord) (s : State) (k : Clerk) (x y r : Nat) (put : Nat → Clerk → Clerk) (sat : Int → Clerk → Clerk), k = s.clerk n →
    x = w.s1.toNat → y = w.s2.toNat → r = w.dst.toNat → (∀ v c, put v c = { c with d := c.d.set r (BitVec.ofNat 24 v) }) →
    (∀ v c, sat v c = { c with d := c.d.set r (BitVec.ofNat 24 (wrapBits 24 (clampBits 24 v)))
                               st := if clampBits 24 v != v then c.st ||| 1 else c.st }) →
    (ClerkTurn n 0x0A w s → ∃ t, exec (.clerkAdd n w) s = .next t ∧ ClerkMoved n s t
      (if bit w.imm.toNat 0 then sat (k.di x + k.di y) else put (wrapBits 24 (k.di x + k.di y)))) ∧
    (ClerkTurn n 0x0B w s → ∃ t, exec (.clerkSub n w) s = .next t ∧ ClerkMoved n s t
      (if bit w.imm.toNat 0 then sat (k.di x - k.di y) else put (wrapBits 24 (k.di x - k.di y)))) ∧
    (ClerkTurn n 0x0C w s → ∃ t, exec (.logic n w) s = .next t ∧ ClerkMoved n s t
      (put ([k.d.getD x 0 &&& k.d.getD y 0, k.d.getD x 0 ||| k.d.getD y 0, k.d.getD x 0 ^^^ k.d.getD y 0, ~~~k.d.getD x 0].getD
        (w.imm.toNat % 4) 0).toNat)) ∧
    (∀ m, ClerkTurn n 0x0D w s → m = w.imm.toNat % 32 → ∃ t v, exec (.sh n w) s = .next t ∧ ClerkMoved n s t (put v) ∧
      (m ≤ 23 → w.imm.toNat / 32 % 4 ≠ 3 →
        v = [k.dn x * 2 ^ m % 2 ^ 24, k.dn x / 2 ^ m, wrapBits 24 (k.di x / 2 ^ m)].getD (w.imm.toNat / 32 % 4) 0)) ∧
    (ClerkTurn n 0x0E w s → ∃ t, exec (.ldi n w) s = .next t ∧ ClerkMoved n s t (put (wrapBits 24 w.imm.toInt))) ∧
    (ClerkTurn n 0x0F w s → ∃ t, exec (.ldh n w) s = .next t ∧ ClerkMoved n s t (put (w.imm.toNat * 4096 + k.dn r % 4096))) ∧
    (ClerkTurn n 0x10 w s → ∃ t, exec (.mvp n w) s = .next t ∧
      (bits w.imm.toNat 5 3 = 0 → ClerkMoved n s t fun c => { c with p := c.p.set (w.imm.toNat % 8) (BitVec.ofNat 24 (k.dn x)) }) ∧
      (bits w.imm.toNat 5 3 = 2 → ClerkMoved n s t fun c => { c with b := c.b.set (w.imm.toNat % 8) (BitVec.ofNat 24 (k.dn x)) }) ∧
      (bits w.imm.toNat 5 3 = 4 → ClerkMoved n s t fun c => { c with l := c.l.set (w.imm.toNat % 8) (BitVec.ofNat 24 (k.dn x)) }) ∧
      (∀ l : List (BitVec 24), (bits w.imm.toNat 5 3 = 1 ∧ l = k.p) ∨ (bits w.imm.toNat 5 3 = 3 ∧ l = k.b) ∨ (bits w.imm.toNat 5 3 = 5 ∧ l = k.l) →
        ClerkMoved n s t fun c => { c with d := c.d.set x (BitVec.ofNat 24 (l.getD (w.imm.toNat % 8) 0).toNat) }) ∧
      (bits w.imm.toNat 5 3 = 7 → ∃ v, ClerkMoved n s t fun c => { c with d := c.d.set x (BitVec.ofNat 24 v) }) ∧
      (bits w.imm.toNat 5 3 = 6 → ∃ p b l, ClerkMoved n s t fun c => { c with p := p, b := b, l := l })) ∧
    (ClerkTurn n 0x11 w s → ∃ t neg carry, exec (.cmp n w) s = .next t ∧ ClerkMoved n s t (fun c => { c with
        st := c.st &&& 0xF8FF ||| BitVec.ofNat 16 ((flagBit (k.di x - k.di y == 0) 0 + flagBit neg 1 + flagBit carry 2) * 256) }) ∧
      (-(2 ^ 23) ≤ k.di x - k.di y → k.di x - k.di y < 2 ^ 23 → neg = decide (k.di x - k.di y < 0))) ∧
    (ClerkTurn n 0x12 w s → ∃ t, exec (.norm n w) s = .next t ∧ ClerkMoved n s t (put (redundantSigns (k.ai (x % 4))))) ∧
    (ClerkTurn n 0x13 w s → ∃ t, exec (.neg n w) s = .next t ∧ ClerkMoved n s t
      (sat (if bit w.imm.toNat 0 && decide (0 ≤ k.di x) then k.di x else -k.di x)))

/-- R277, R279, R276, R282: nop goes on; rep opens a block at its depth, skips it for a count of 0, and at depth 4 or beyond its
enclosing block is a nest fault; a branch whose condition holds goes by IMM, out of the blocks it leaves, one whose condition does not
goes on, and one into a block is a nest fault; wait with a mask stops the issue, and with none is illegal; a clerk that halts stops, and
the last clerk to halt ends the run of its kernel. -/
def Obligations.ClerkControlFlows : Prop :=
  ∀ (n : Nat) (w : ClerkWord) (s : State) (k : Clerk), k = s.clerk n →
    (ClerkTurn n 0x00 w s → ∃ t, exec (.clerkNop n w) s = .next t ∧ ClerkMoved n s t fun c => c) ∧
    (∀ last, ClerkTurn n 0x20 w s → last = k.pc + w.imm.toNat → ∃ t count, exec (.rep n w) s = .next t ∧
      (k.dn w.s1.toNat ≤ 65535 → count = k.dn w.s1.toNat) ∧ count ≤ 65535 ∧
      (k.reps.length < 4 → (∀ b, k.reps.getLast? = some b → last ≤ b.last) → t = { s with clerks := t.clerks, freeCtr := t.freeCtr } ∧
        (1 ≤ w.imm.toNat → 1 ≤ count → (t.clerk n).pc = (k.pc + 1) % 16384 ∧
          (t.clerk n).reps = k.reps ++ [{ first := k.pc + 1, last := last, left := count }] ∧
          (t.clerk n).lc.getD k.reps.length 0 = BitVec.ofNat 17 count) ∧
        (count = 0 → (t.clerk n).pc = (repStep last k.reps.reverse).1 % 16384 ∧
          (t.clerk n).reps = (repStep last k.reps.reverse).2.reverse)) ∧
      (4 ≤ k.reps.length ∨ (∃ b, k.reps.getLast? = some b ∧ b.last < last) → ClerkEnded n exitNest s t)) ∧
    (∀ target, ClerkTurn n 0x21 w s → target = ((k.pc + w.imm.toInt) % 16384).toNat → ∃ t taken, exec (.clerkBr n w) s = .next t ∧
      (w.dst.toNat ≤ 4 →
        taken = [true, bit k.st.toNat 8, !bit k.st.toNat 8, bit k.st.toNat 9, !bit k.st.toNat 9].getD w.dst.toNat false) ∧
      (taken = true → entersBlock k.prog k.pc target = false → t = { s with clerks := t.clerks, freeCtr := t.freeCtr } ∧
        t.clerk n = { k with
          pc := target, reps := k.reps.takeWhile fun b => b.first ≤ target && target ≤ b.last
          lc := (t.clerk n).lc, cyc := (t.clerk n).cyc, hot := (t.clerk n).hot }) ∧
      (taken = true → entersBlock k.prog k.pc target = true → ClerkEnded n exitNest s t) ∧
      (taken = false → ClerkMoved n s t fun c => c)) ∧
    (∀ m, ClerkTurn n 0x22 w s → m = k.dn w.s1.toNat → ∃ t, exec (.clerkWait n w) s = .next t ∧
      (m ≠ 0 → ClerkMoved n s t fun c => { c with waiting := true, evm := BitVec.ofNat 32 m }) ∧
      (m = 0 → ClerkEnded n exitIllegal s t)) ∧
    (ClerkTurn n 0x23 w s → ∃ t, exec (.clerkHalt n w) s = .next t ∧ (t.clerk n).running = false ∧
      (k.owner = none → (t.clerk n).halted = true) ∧
      ∀ h e, k.owner = some h → s.kernel? h = some e → s.hstate h = .running →
        ((∃ m ∈ e.clerks, m ≠ n ∧ (s.clerk m).halted = false) → t.hstate h = .running ∧ (t.clerk n).halted = true) ∧
        (e.clerks = [n] → t.hstate h = .stopped ∧ (t.kernel? h).map Kernel.exit = some (BitVec.ofNat 32 (k.dn 0)) ∧
          ∀ d ∈ t.teller.deferred, d.wait ≠ .kernelRun h))

/-- R273, R274, R275, R272, R283: the moves of a word: a load takes the value that was in memory, left-aligned in the register; a store
writes the register's bytes to memory and leaves every other byte; the pointer then takes the value its mode gives. A misaligned access,
one outside the map and a ring that its mode does not allow are access faults. -/
def Obligations.ClerkMovesReachMemory : Prop :=
  ∀ (n : Nat) (w : ClerkWord) (s : State) (k : Clerk) (m : Move) (a : Nat), k = s.clerk n → s.clerkNext n 0x00 w = true →
    n < s.clerks.length → Memory.get [] k.progFlips k.pc = [] → moveOf w.mx = some m → moveIllegal w.mx = false → w.my = 0 → a = k.pn m.ptr →
    (∀ p : BitVec 24, a + m.size ≤ 0x40000 → a % m.size = 0 → k.modified m = some p → Memory.wf {} k.mem = true →
      (m.store = false → (∀ i, i < m.size → (Memory.get {} k.mem (a + i)).flips = []) →
        ∃ t, exec (.clerkNop n w) s = .next t ∧ t = { s with clerks := t.clerks } ∧ (t.clerk n).mem = k.mem ∧
          (t.clerk n).d = k.d.set m.reg (BitVec.ofNat 24 (moveValue m.size
            ((List.range m.size).map fun i => BitVec.ofNat 8 (Memory.get {} k.mem (a + i)).data))) ∧
          (t.clerk n).p = if m.mode = 0 then k.p else k.p.set m.ptr p) ∧
      (m.store = true →
        ∃ t, exec (.clerkNop n w) s = .next t ∧ t = { s with clerks := t.clerks } ∧ (t.clerk n).d = k.d ∧
          (t.clerk n).p = (if m.mode = 0 then k.p else k.p.set m.ptr p) ∧
          (∀ i, i < m.size → Memory.get {} (t.clerk n).mem (a + i) = { data := u8 (moveBytes m.size (k.dn m.reg)) i }) ∧
          ∀ b, b < a ∨ a + m.size ≤ b → Memory.get {} (t.clerk n).mem b = Memory.get {} k.mem b)) ∧
    (a % m.size ≠ 0 ∨ (0x40000 ≤ a ∧ a < 0xF00000) ∨ 0xF00300 ≤ a ∨ k.modified m = none →
      ∃ t, exec (.clerkNop n w) s = .next t ∧ ClerkEnded n exitAccess s t)

/-! ### Kernels -/

/-- R280, R396, R281, R397: KERNEL_LOAD makes a kernel in CREATED that holds the lowest free clerks or the user context and the free
channels, and answers their bitmaps; an image that cannot be read is BAD_PARAM and sets FETCH_ERR. KERNEL_RUN of a kernel that does not
run starts its engines at ENTRY and waits for the end of the run; with POST it raises event 0 and ends. -/
def Obligations.KernelsAreLoadedAndRun : Prop :=
  ∀ (s : State) (src : Source) (p : Pkt),
    (∀ image data b, Accepted 0x40 kernelLoadBody src true image p s → p.image = .ok data → b = slice data 0 (u32 p.b 24) →
      ∃ u h place, exec (.kernelLoad src image) s = .next (replied s p
          { handle := h, r0 := ((s.freeClerks.take (imgClerks b)).map fun n => 2 ^ n).sum + flagBit (imgTarget b = 2) 16
            r1 := channelWord (s.freeChannels.take (imgChannels b)), r2 := place } u) ∧
        (s.handles.Fit → s.find h = none ∧ u.hstate h = .created ∧
          (u.kernel? h).map (fun k => (k.vx, k.clerks, k.channels, k.entry)) =
            some (decide (imgTarget b = 2), s.freeClerks.take (imgClerks b), s.freeChannels.take (imgChannels b), imgEntry b) ∧
          (u.kernel? h).map (fun k => (k.windows, k.regions.length)) = some (windowEntries p.b, (regionEntries p.b).length) ∧
          (∀ n ∈ s.freeClerks.take (imgClerks b), n < s.clerks.length → (u.clerk n).owner = some h))) ∧
    (∀ image, Accepted 0x40 kernelLoadBody src true image p s → (∀ data, p.image ≠ .ok data) →
      exec (.kernelLoad src image) s = .next (replied s p { status := stParam }
        { s.pop src with ring := { (s.pop src).ring with fetchErr := true } })) ∧
    (∀ k v, Accepted 0x41 kernelRunBody src true .failed p s → s.kernel? p.target = some k →
      v = (s.pop src).writeParams k (slice p.b 32 (u16 p.b 18)) →
      (bit (u8 p.b 16) 0 = true → exec (.kernelRun src) s = .next (replied s p {} (v.kernelEvent p.target 0))) ∧
      (∀ u, bit (u8 p.b 16) 0 = false →
        u = (v.updKernel p.target fun k => { k with maxCycles := u64 p.b 24, exit := 0, faulted := 0, stopAt := none }).startKernel p.target k →
        exec (.kernelRun src) s = .next (queued s p { handle := p.target } (.kernelRun p.target) u) ∧
        u.hstate p.target = .running ∧ (k.vx = true → s.vx.ctx.length = 2 → (u.ctx 1).running = true ∧ (u.ctx 1).pc = k.entry % 4096 ∧
          (u.ctx 1).regs = vxEntryRegs) ∧
        (k.vx = false → ∀ n ∈ k.clerks, n < s.clerks.length → (u.clerk n).running = true ∧ (u.clerk n).pc = k.entry % 16384 ∧
          (u.clerk n).dn 15 = k.indexOf n % 2 ^ 24 ∧ (u.clerk n).dn 14 = k.clerks.length % 2 ^ 24)))

/-- R279, R282, R283, R284, R285, R305: an event under its mask ends a wait; a word that no row lists, a run past MAX_CYCLES, in a wait
too, and a word that cannot be read end the run with their exit codes; a kernel that has not stopped 10 µs after it was asked is stopped,
with the code of clerk 0 where that has halted; the formatter, and the system kernels that stopped, are restarted with an entry of kind
0x0701. -/
def Obligations.KernelRunsEnd : Prop :=
  ∀ (s : State),
    (∀ n c, c = s.clerk n → n < s.clerks.length → c.running = true → c.waiting = true → c.evt &&& c.evm ≠ 0 →
      ∃ t, exec (.waitResume (.clerk n)) s = .next t ∧ (t.clerk n).waiting = false ∧ (t.clerk n).pc = c.pc ∧ (t.clerk n).evt = c.evt ∧
        t = { s with clerks := t.clerks, freeCtr := t.freeCtr }) ∧
    (∀ c m, (s.ctx c).wait = some m → (s.ctx c).running = true → (s.ctx c).regs.evt &&& m ≠ 0 →
      exec (.waitResume (.vx c)) s = .next (s.updCtx c fun x => { x with wait := none })) ∧
    (∀ e exit h k, s.teller.safe = false → s.engineRuns e = true → s.engineKernel e = some h → s.kernel? h = some k →
      s.hstate h = .running → k.faulted = 0 →
      (exit = exitIllegal → s.overLimit e = false → s.nextIllegal e = true → ∃ t, exec (.illegalInstruction e) s = .next t ∧
        t.engineRuns e = false ∧ ((∀ n, e = .clerk n → (s.clerk n).system = false) → t.hstate h = .stopped ∧
          (t.kernel? h).map Kernel.exit = some (BitVec.ofNat 32 exit) ∧ ∀ d ∈ t.teller.deferred, d.wait ≠ .kernelRun h)) ∧
      (exit = exitCycles → s.overLimit e = true ∨ (s.passLimit e).isSome = true → ∃ t, exec (.maxCyclesExceeded e) s = .next t ∧
        t.engineRuns e = false ∧ ((∀ n, e = .clerk n → (s.clerk n).system = false) → t.hstate h = .stopped ∧
          (t.kernel? h).map Kernel.exit = some (BitVec.ofNat 32 exit) ∧ ∀ d ∈ t.teller.deferred, d.wait ≠ .kernelRun h))) ∧
    (∀ n w i j, s.clerkNext n 0x00 w = true → Memory.get [] (s.clerk n).progFlips (s.clerk n).pc = [i, j] →
      ∃ t, exec (.clerkNop n w) s = .next t ∧ ClerkEnded n exitUncorr s t) ∧
    (∀ w i j, s.vxNext 1 .l 0x00 w = true → Memory.get [] (s.vx.progFlips.getD 1 []) (s.ctx 1).pc = [i, j] →
      ∃ t, exec (.vxNop 1 .l w) s = .next t ∧ VxEnded exitUncorr s t) ∧
    (∀ h k at_ own, s.kernel? h = some k → k.stopAt = some at_ → s.hstate h = .running → at_ + 10 * tickUs ≤ s.now →
      own = (match k.clerks.head? with | some n => (s.clerk n).halted | none => false) →
      ∃ t, exec (.kernelStopTimeout h) s = .next t ∧ t.hstate h = .stopped ∧
        (t.kernel? h).map Kernel.exit = some (if own then k.exit else BitVec.ofNat 32 exitAborted) ∧
        (∀ d ∈ t.teller.deferred, d.wait ≠ .kernelRun h)) ∧
    (∀ h, s.teller.safe = false → (s.ctx 0).running = false → s.vx.ctx.length = 2 →
      ∃ t, exec (.systemKernelReload true h) s = .next t ∧ (t.ctx 0).running = true ∧ (t.ctx 0).pc = 0 ∧ t.ctx 1 = s.ctx 1 ∧
        t.clerks = s.clerks ∧ ∃ u : State, t = noticed s ((u.logAdd 0x0701 0 0xFF (le 1 2 ++ List.replicate 15 0)).raise evKernelRestart)) ∧
    (∀ h n l, s.teller.safe = false → ((List.range 16).filter fun n => (s.clerk n).system && !(s.clerk n).running) = n :: l →
      s.clerks.length = 16 →
      ∃ t, exec (.systemKernelReload false h) s = .next t ∧ t.vx = s.vx ∧
        (∀ m ∈ n :: l, (t.clerk m).running = true ∧ (t.clerk m).system = true ∧ (t.clerk m).owner = (s.clerk m).owner) ∧
        ∃ u : State, t = noticed s ((u.logAdd 0x0701 2 n (le 1 1 ++ List.replicate 11 0 ++ le 4 h.toNat)).raise evKernelRestart))

/-! ### Vault -/

/-- R294, R296, R297, R303, R302, R406, R320: an Auditor visit of a bank passes on by 64 B, leaves a clean word as it is, corrects
a word of one or two errors, which enters the repeat table, and poisons one of three, and the last visit of a pass counts the pass and
begins the next; a page that is due moves to a free page, its words through correction, and is freed, and without a free page its users
go FAULTED; RETIRE takes a region out of the map and of allocation, queues its pages in use for relocation, and with FORCE moves the
fewest products to FAULTED; SCRUB_SET writes the Auditor control word, or the policy word of the channels named, or plants the error
it names. -/
def Obligations.TheVaultIsAuditedAndRetired : Prop :=
  ∀ (s : State),
    (∀ die bank v w, die < 2 → bank < 64 → s.vault.auditHold = false → s.bankAudited (die * 64 + bank) = true → s.boot.phase = .up →
      s.vault.visit.length = 128 → (s.vault.visit.getD (die * 64 + bank) (0, 0)) = (v, 0) → v + 1 < visitsPerBank →
      w = (die * 64 + bank) * (visitsPerBank * 8) + v * 8 → s.pageAudited (wordPage w) = true → Memory.wf {} s.vault.words = true →
      (∀ i, 1 ≤ i → i < 8 → s.vword (w + i) = {}) →
      ∃ t, exec (.auditorVisit die bank) s = .next t ∧ t.vault.visit.getD (die * 64 + bank) (0, 0) = (v + 1, 0) ∧
        t.plane = s.plane ∧ t.tk = s.tk ∧ (∀ x, x ≠ w → t.vword x = s.vword x) ∧
        ((s.vword w).flips = [] → t.vword w = s.vword w) ∧
        ((s.vword w).poison = false → ((s.vword w).flips.length = 1 ∨ (s.vword w).flips.length = 2) →
          t.vword w = { data := (s.vword w).data, poison := false } ∧ t.vault.rep.any (fun e => e.addr == w) = true) ∧
        ((s.vword w).flips.length = 3 → t.vword w = { data := (s.vword w).raw, poison := true } ∧
          t.health.events.getLsbD evVaultUncorr = true)) ∧
    (∀ die bank v, die < 2 → bank < 64 → s.vault.auditHold = false → s.bankAudited (die * 64 + bank) = true → s.boot.phase = .up →
      s.vault.cnt.length = 2 → (s.vault.visit.getD (die * 64 + bank) (0, 0)) = (v, 0) → v + 1 = visitsPerBank → s.vault.visit.length = 128 →
      (∀ b, b < 128 → b ≠ die * 64 + bank → s.bankAudited b = true → (s.vault.visit.getD b (0, 0)).2 = 1) →
      ∃ t, exec (.auditorVisit die bank) s = .next t ∧ t.vault.visit = List.replicate 128 (0, 0) ∧
        ∀ d, d < 2 → s.usable 5 d = true → (t.vault.cnt.getD d {}).passes = satAdd 32 (s.vault.cnt.getD d {}).passes 1 ∧
          (t.vault.cnt.getD d {}).passLast = s.stamp) ∧
    (∀ die bank, s.vault.auditHold = true ∨ s.bankAudited (die * 64 + bank) = false → exec (.auditorVisit die bank) s = .next s) ∧
    (∀ p m (due : Bool), s.vault.relocate.find? (fun m => m.page == p) = some m → s.pageUse p ≠ freePage →
      Memory.wf freePage s.vault.pages = true → Memory.wf {} s.vault.words = true →
      due = (if (s.pageUse p).kind = useState ∨ (s.pageUse p).kind = useRing then s.turnedAll m else s.pageMovable p) →
      (due = false → exec (.pageRelocate p) s = .next s) ∧
      (∀ n, due = true → m.target = none → s.nextPage = some n →
        ∃ t, exec (.pageRelocate p) s = .next t ∧ t.pageUse p = freePage ∧ t.pageUse n = s.pageUse p ∧
          (t.vault.relocate.any fun r => r.page == p) = false ∧ t.plane = s.plane ∧ t.tk = s.tk ∧
          ((s.pageUse p).kind ≠ useState → (s.pageUse p).kind ≠ useRing → ∀ i x, i < 8192 → x = s.vword (p * 8192 + i) → x ≠ {} →
            (x.flips.length ≤ 2 → t.vword (n * 8192 + i) = { data := x.data, poison := x.poison }) ∧
            (x.flips.length = 3 → t.vword (n * 8192 + i) = { data := x.raw, poison := true }))) ∧
      (due = true → m.target = none → s.nextPage = none → ∃ t, exec (.pageRelocate p) s = .next t ∧
        ∀ h ∈ s.usersOf (· == p), t.hstate h = .faulted)) ∧
    (∀ p, s.vault.relocate.find? (fun m => m.page == p) = none → exec (.pageRelocate p) s = .next s) ∧
    (∀ src p (r : Region), Accepted 0x62 retireBody src true .failed p s →
      r = { die := u8 p.b 16, bank := bit (u8 p.b 17) 0, n := u16 p.b 18 } → s.ledger.dies.length = 2 →
      (s.retired r = true → exec (.retire src) s = .next (replied s p {} (s.pop src))) ∧
      (bit (u8 p.b 17) 1 = false → s.retired r = false →
        ∃ u, exec (.retire src) s = .next (replied s p { r0 := 0 } u) ∧ u.retired r = true ∧ u.handles = s.handles ∧
          u.vault.words = s.vault.words ∧ u.ledger.changes = s.ledger.changes + 1 ∧ (∀ k, r.holds k = true → u.pageFree k = false) ∧
          ∀ e ∈ s.vault.pages, r.holds e.1 = true → (u.vault.relocate.any fun m => m.page == e.1) = true) ∧
      (bit (u8 p.b 17) 1 = true → s.retired r = false →
        ∃ k l u, l = ((s.pop src).retireRegion r).retireVictims.take k ∧ k = l.length ∧
          exec (.retire src) s = .next (replied s p { r0 := k } u) ∧ u.retired r = true ∧
          ((((s.pop src).retireRegion r).without l).vaultShort).isNone = true ∧
          (∀ j, j < k → ((((s.pop src).retireRegion r).without (l.take j)).vaultShort).isSome = true) ∧
          (∀ h ∈ l, u.hstate h = .faulted) ∧ ∀ h, h ∉ l → u.find h = s.find h)) ∧
    (∀ src p, Accepted 0x63 scrubSetBody src true .failed p s →
      (u8 p.b 16 = 1 → exec (.scrubSet src) s = .next (replied s p {} ((s.pop src).updVault fun v =>
        { v with period := bits (u64 p.b 24) 28 12, auditHold := bit (u64 p.b 24) 0 }))) ∧
      (u8 p.b 16 = 2 → ∃ u, exec (.scrubSet src) s = .next (replied s p {} u) ∧ ∀ c, c < 8 → c < s.reserve.ch.length →
        u.ch c = if bit (u8 p.b 20) c then { s.ch c with policyNext := some (BitVec.ofNat 64 (u64 p.b 24)) } else s.ch c) ∧
      (u8 p.b 16 = 3 → exec (.scrubSet src) s = .next (replied s p {} ((s.pop src).inject (injectOf p.b)))))

/-! ### Reserve -/

/-- R310, R311, R312, R314, R315, R316, R317, R318: the oldest block of a Till is written at its place and marked WRITTEN; a refresh
that falls due while the Till is above PANIC_MARK is postponed as debt until the limit, and forced there; at or below it, it is owed while writes
are queued (notes/assumptions/145.md), and else paid with the debt; the activate tables clear with their window; above 95 °C a channel
is throttled, with its event, until it is below 90 °C; a channel whose sensor or fourth parity check fails leaves service; the patrol
counts, logs and writes back a corrected burst and counts an uncorrectable one; an idle rank powers down. -/
def Obligations.ReserveChannelsAct : Prop :=
  ∀ (s : State) (c : Nat) (x : ResCh), x = s.ch c → c < s.reserve.ch.length → x.state = 1 → s.teller.safe = false →
    (x.till = [] → exec (.tillBlockWritten c) s = .next s) ∧
    (∀ b rest, x.till = b :: rest → b.bitErrs = 0 → s.reserve.injectBurst = none →
      ∃ t, exec (.tillBlockWritten c) s = .next t ∧ (t.ch c).till = rest ∧ (t.ch c).state = 1 ∧ t.plane = s.plane ∧ t.tk = s.tk ∧
        (∀ k, s.capture? b.handle = some k → (t.capture? b.handle).map Capture.blocks =
          some (k.updBlock b.pos fun z => { z with flags := z.flags ||| fWritten }).blocks) ∧
        (Memory.wf 0 s.reserve.bytes = true → b.data.length ≤ 65536 →
          (∀ k, s.capture? b.handle = some k →
            resKey (k.chOf (k.ringBlocks + b.pos / 4096)) (k.qOf (k.ringBlocks + b.pos / 4096)) 0 ≠ resKey c b.q 0) →
          ∀ off, off < 65536 → Memory.get 0 t.reserve.bytes (resKey c b.q off) = b.data.getD off 0)) ∧
    (∀ rank, max x.ranks 1 ≤ rank → exec (.refreshDue c rank) s = .next s) ∧
    (∀ rank, rank < max x.ranks 1 → ∃ t, exec (.refreshDue c rank) s = .next t ∧ (t.ch c).policyNext = none ∧
      (t.ch c).policy = x.policyNext.getD x.policy) ∧
    (∀ rank p, rank < max x.ranks 1 → x.policyNext = none → p = x.panicMark →
      (x.debt.getD rank 0 < x.debtMax → (p < x.level ∨ x.till ≠ []) → ∃ t, exec (.refreshDue c rank) s = .next t ∧
        t.ch c = { x with powerDown := x.powerDown.set rank false, debt := x.debt.modify rank (· + 1) } ∧ t.out = s.out) ∧
      (p < x.level → x.debtMax ≤ x.debt.getD rank 0 → ∃ t, exec (.refreshDue c rank) s = .next t ∧
        t.ch c = { x with powerDown := x.powerDown.set rank false, forcedRef := satAdd 32 x.forcedRef 1 } ∧
        t.out = s.out ++ [.dram c rank 1 0]) ∧
      (x.level ≤ p → (x.till = [] ∨ x.debtMax ≤ x.debt.getD rank 0) → ∃ t, exec (.refreshDue c rank) s = .next t ∧
        (t.ch c).debt = [0, 0] ∧ t.out.getLast? = some (.dram c rank (if x.refMode then 0 else 2) 0) ∧
        t.out.length = s.out.length + x.debt.getD 0 0 + x.debt.getD 1 0 + 1)) ∧
    exec (.refreshWindowClear c) s = .next (s.updCh c fun x => { x with acts := [] }) ∧
    (∀ temp, ∃ t, exec (.moduleTempRead c temp) s = .next t ∧
      t.ch c = { x with temp := temp, hot85 := decide (temp > 1360)
                        throttled := if temp > 1520 then true else if temp < 1440 then false else x.throttled } ∧
      (temp > 1520 → x.throttled = false → t.health.events.getLsbD evReserve = true)) ∧
    (∃ t, exec (.reserveSensorTimeout c) s = .next t ∧ (t.ch c).state = 2 ∧ (t.ch c).till = [] ∧
      t.health.events.getLsbD evReserve = true ∧ ∀ h k, s.capture? h = some k → k.chans.contains c = true → t.hstate h = .faulted) ∧
    (∀ n, 3 ≤ n → ∃ t, exec (.caParityAlert c n) s = .next t ∧ (t.ch c).state = 2 ∧ (t.ch c).till = [] ∧
      t.health.events.getLsbD evReserve = true ∧ ∀ h k, s.capture? h = some k → k.chans.contains c = true → t.hstate h = .faulted) ∧
    (∀ n, n < 3 → ∃ t, exec (.caParityAlert c n) s = .next t ∧
      t.ch c = { x with caRetry := satAdd 16 x.caRetry (n + 1) }) ∧
    (∀ block (prot : Bool), prot = (s.captures.any fun e => e.2.blocks.any fun b =>
        e.2.chOf b.pos == c && e.2.qOf b.pos == block && b.flags &&& fProtected != 0) →
      (prot = false → ∀ l, exec (.patrol c block l) s = .next s) ∧
      (prot = true → (∀ u, u < 1024 → (s.burstBad c block u).1 = []) →
        exec (.patrol c block []) s = .next s ∧
        (∀ u d, ∃ t, exec (.patrol c block [(u, .corrected d)]) s = .next t ∧ (t.ch c).corr = satAdd 32 x.corr 1 ∧
          t.reserve.bytes = s.reserve.bytes) ∧
        (∀ u, ∃ t, exec (.patrol c block [(u, .uncorrectable)]) s = .next t ∧ (t.ch c).uncorr = satAdd 32 x.uncorr 1 ∧
          t.reserve.bytes = s.reserve.bytes)) ∧
      (∀ u d planted, prot = true → u < 1024 → x.till = [] → Memory.wf ([], false) s.reserve.bad = true →
        s.burstBad c block u = ([d], planted) → (∀ v, v < 1024 → v ≠ u → (s.burstBad c block v).1 = []) →
        ∃ t, exec (.patrol c block []) s = .next t ∧ t.burstBad c block u = ([], false) ∧ (t.ch c).corr = satAdd 32 x.corr 1 ∧
          t.reserve.bytes = s.reserve.bytes)) ∧
    (∀ rank, x.pdIdle ≠ 0 → rank < x.ranks → x.powerDown.getD rank false = false →
      exec (.powerDownIdle c rank) s = .next { (s.updCh c fun x => { x with powerDown := x.powerDown.set rank true }) with
        out := s.out ++ [.dram c rank 6 0] }) ∧
    (∀ rank, x.pdIdle = 0 ∨ x.ranks ≤ rank ∨ x.powerDown.getD rank false = true → exec (.powerDownIdle c rank) s = .next s)

/-! ### Ring, host port and SPI -/

/-- R326, R327, R328, R329, R330, R500, R503, R29: base registers take a 4 KiB aligned address while the ring is idle and refuse
it otherwise; RING_CTRL enables the rings with all counters at 0, stops and holds fetching; a doorbell is accepted, without
effect, or refused with DOORBELL_ERR and vector 1; the Teller copies an entry, with its indirect parameters, and CMD_HEAD
advances; an entry that cannot be read holds the ring; RING_STATUS clears the errors written as 1, the shadow set and CHAIN_LIMIT of a host
DMA channel and the MSI-X table take what is written; a BAR0 write to no writable register, or by a host that does not reach the
device, is discarded. -/
def Obligations.RingRegistersAct : Prop :=
  ∀ (s : State), (s.hostReaches = false →
      (∀ w, exec (.baseWrite w) s = .next s ∧ exec (.registerWrite w) s = .next s) ∧
      (∀ v, exec (.ringEnable v) s = .next s ∧ exec (.ringDisable v) s = .next s ∧ exec (.ringHold v) s = .next s ∧
        exec (.cmdDoorbell v) s = .next s ∧ exec (.rplDoorbell v) s = .next s)) ∧
    (s.canFetch = false → ∀ e p, exec (.commandFetch e p) s = .next s) ∧
    (s.hostReaches = true →
    (∀ a : BitVec 64, s.ringIdle = true →
      exec (.baseWrite { off := 0x10000, size := 8, value := a }) s = .next { s with
        ring := { s.ring with cmdBase := BitVec.ofNat 64 (a.toNat / 4096 * 4096) }, host := { s.host with half := none } } ∧
      exec (.baseWrite { off := 0x10008, size := 8, value := a }) s = .next { s with
        ring := { s.ring with rplBase := BitVec.ofNat 64 (a.toNat / 4096 * 4096) }, host := { s.host with half := none } }) ∧
    (∀ (a : BitVec 64) o, s.ringIdle = false → (o = 0x10000 ∨ o = 0x10008) →
      exec (.baseWrite { off := o, size := 8, value := a }) s = .next { s with
        ring := { s.ring with baseErr := true }, host := { s.host with half := none } }) ∧
    (∀ (v : BitVec 32) o, (o = 0x10000 ∨ o = 0x10008) → exec (.baseWrite { off := o, size := 4, value := v.setWidth 64 }) s = .next { s with
      host := { s.host with half := some (o, v) } }) ∧
    (∀ lo hi : BitVec 32, s.ringIdle = true → s.host.half = some (0x10000, lo) →
      exec (.baseWrite { off := 0x10004, size := 4, value := hi.setWidth 64 }) s = .next { s with
        ring := { s.ring with cmdBase := BitVec.ofNat 64 ((hi.toNat * 2 ^ 32 + lo.toNat) / 4096 * 4096) }
        host := { s.host with half := none } }) ∧
    (∀ v : BitVec 32, v.getLsbD 0 = true → s.ring.enable = false →
      exec (.ringEnable v) s = .next { s with ring := { s.ring with
        cmdTail := 0, cmdHead := 0, rplHead := 0, rplTail := 0, notifyAll := v.getLsbD 2, hold := v.getLsbD 1, enable := true } }) ∧
    (∀ v : BitVec 32, v.getLsbD 0 = false →
      exec (.ringDisable v) s = .next { s with ring := { s.ring with
        notifyAll := v.getLsbD 2, hold := v.getLsbD 1, enable := false } }) ∧
    (∀ v : BitVec 32, v.getLsbD 0 = s.ring.enable →
      exec (.ringHold v) s = .next { s with ring := { s.ring with notifyAll := v.getLsbD 2, hold := v.getLsbD 1 } } ∧
      (v.getLsbD 0 = true →
        exec (.ringEnable v) s = .next { s with ring := { s.ring with notifyAll := v.getLsbD 2, hold := v.getLsbD 1 } })) ∧
    (∀ v : BitVec 32, ∀ t old : BitVec 13, t = BitVec.ofNat 13 v.toNat → old = s.oldestUnreplied →
      (t = s.ring.cmdTail → exec (.cmdDoorbell v) s = .next s) ∧
      (t ≠ s.ring.cmdTail → (t - old).toNat ≤ 4096 → (s.ring.cmdHead - old).toNat ≤ (t - old).toNat →
        exec (.cmdDoorbell v) s = .next { s with ring := { s.ring with cmdTail := t } }) ∧
      (t ≠ s.ring.cmdTail → (4096 < (t - old).toNat ∨ (t - old).toNat < (s.ring.cmdHead - old).toNat) →
        exec (.cmdDoorbell v) s = .next (({ s with ring := { s.ring with doorbellErr := true } }).sendVector 1))) ∧
    (∀ v : BitVec 32, exec (.rplDoorbell v) s = .next { s with ring := { s.ring with rplHead := BitVec.ofNat 13 v.toNat } }) ∧
    (s.canFetch = true →
      (∀ (e : List Byte) params, e.length = 64 → bit (u8 e 1) 1 = false →
        exec (.commandFetch (.ok e) params) s = .next { s with
          teller := { s.teller with ringQ := s.teller.ringQ ++ [{ src := .ring, bytes := e, ctr := s.ring.cmdHead }] }
          ring := { s.ring with cmdHead := s.ring.cmdHead + 1 } }) ∧
      (∀ (e d : List Byte), e.length = 64 → bit (u8 e 1) 1 = true → 4 ≤ u16 e 2 → u16 e 2 ≤ 16384 → zeroAt e 24 40 = true →
        u64 e 16 % 8 = 0 → d.length = 4 * u16 e 2 - 16 →
        exec (.commandFetch (.ok e) (.ok d)) s = .next { s with
          teller := { s.teller with ringQ := s.teller.ringQ ++ [{ src := .ring, bytes := e.take 16 ++ d, ctr := s.ring.cmdHead }] }
          ring := { s.ring with cmdHead := s.ring.cmdHead + 1 } } ∧
        exec (.commandFetch (.ok e) .failed) s = .next { s with
          teller := { s.teller with
            ringQ := s.teller.ringQ ++ [{ src := .ring, bytes := e.take 16, paramErr := true, ctr := s.ring.cmdHead }] }
          ring := { s.ring with cmdHead := s.ring.cmdHead + 1, fetchErr := true } }) ∧
      (∀ (e : List Byte) params, e.length = 64 → bit (u8 e 1) 1 = true → (u16 e 2 < 4 ∨ 16384 < u16 e 2) →
        exec (.commandFetch (.ok e) params) s = .next { s with
          teller := { s.teller with ringQ := s.teller.ringQ ++ [{ src := .ring, bytes := e.take 16, ctr := s.ring.cmdHead }] }
          ring := { s.ring with cmdHead := s.ring.cmdHead + 1 } }) ∧
      (∀ (e : List Byte) params, e.length = 64 → bit (u8 e 1) 1 = true → 4 ≤ u16 e 2 → u16 e 2 ≤ 16384 →
        (zeroAt e 24 40 = false ∨ u64 e 16 % 8 ≠ 0) →
        exec (.commandFetch (.ok e) params) s = .next { s with
          teller := { s.teller with
            ringQ := s.teller.ringQ ++ [{ src := .ring, bytes := e.take 16, paramErr := true, ctr := s.ring.cmdHead }] }
          ring := { s.ring with cmdHead := s.ring.cmdHead + 1 } }) ∧
      (∀ params, exec (.commandFetch .failed params) s = .next
          (({ s with ring := { s.ring with fetchErr := true, entryErr := true, hold := true } }).sendVector 1) ∧
        exec (.commandFetch .poisoned params) s = .next
          (({ s with ring := { s.ring with fetchErr := true, entryErr := true, hold := true } }).sendVector 1))) ∧
    (∀ v : BitVec 64, exec (.registerWrite { off := 0x10014, size := 4, value := v }) s = .next { s with ring := { s.ring with
      fetchErr := s.ring.fetchErr && !v.getLsbD 5, entryErr := s.ring.entryErr && !v.getLsbD 5
      doorbellErr := s.ring.doorbellErr && !v.getLsbD 4, baseErr := s.ring.baseErr && !v.getLsbD 3 } }) ∧
    (∀ (h o : Nat) (v : BitVec 32), h < 8 → s.usable 3 3 = true →
      (o < 0x40 → o % 4 = 0 → exec (.registerWrite { off := 0x20000 + h * 0x100 + o, size := 4, value := v.setWidth 64 }) s =
        .next (s.updDma (56 + h) fun x => { x with shadow := patch x.shadow o (le 4 v.toNat) })) ∧
      (v.toNat % 2 ^ 24 ≠ 0 → exec (.registerWrite { off := 0x20000 + h * 0x100 + 0x8C, size := 4, value := v.setWidth 64 }) s =
        .next (s.updDma (56 + h) fun x => { x with chainLimit := v.toNat % 2 ^ 24 }))) ∧
    (∀ (i : Nat) (v : BitVec 32), i < 64 →
      exec (.registerWrite { off := 0x30000 + i * 16 + 8, size := 4, value := v.setWidth 64 }) s =
        .next { s with host := { s.host with msix := s.host.msix.modify i fun e => { e with data := v } } } ∧
      (v.getLsbD 0 = true → exec (.registerWrite { off := 0x30000 + i * 16 + 12, size := 4, value := v.setWidth 64 }) s =
        .next { s with host := { s.host with msix := s.host.msix.modify i fun e => { e with masked := true } } })) ∧
    (∀ v : BitVec 64, exec (.registerWrite { off := 0x12004, size := 4, value := v }) s = .next { s with
      host := { s.host with bar2Sel := BitVec.ofNat 32 v.toNat &&& 0xFF01 } }) ∧
    (∀ v : BitVec 64, exec (.registerWrite { off := 0x12000, size := 4, value := v }) s = .next { s with host := { s.host with
      bar2Err := s.host.bar2Err && !v.getLsbD 11, bar2Write := s.host.bar2Write && !v.getLsbD 10 } }) ∧
    (∀ w : BarWrite, (w.off + w.size ≤ 0x10000 ∨ (w.size ≠ 4 ∧ w.size ≠ 8) ∨ w.off % w.size ≠ 0) →
      exec (.registerWrite w) s = .next s))

/-- R333, R497, R498, R499, R501, R332, R503, R504: the host's link comes up and goes down; losing it, clearing bus mastering, D3hot
and PERST_N stop the ring and give up its replies, and PERST_N and a function reset restore the port's registers; an unmasked
vector sends what it held back, and at the end of a hold-off what it still owed; a failed completion holds the ring or halts the
DMA channel; BAR2 reads stored data, refuses what lies outside, and discards writes. On the SPI port a good WRITE queues
its command, a bad one sets FRAME_ERR, one too many sets OVERFLOW, and the read frames return what they name (R334, R335). -/
def Obligations.HostPortAndSpiAct : Prop :=
  ∀ (s : State),
    (s.ringLost.ring = { s.ring with enable := false } ∧ (∀ c ∈ s.ringLost.teller.ringQ, c.lost = true) ∧
      (∀ d ∈ s.ringLost.teller.deferred, d.src = .ring → d.lost = true) ∧
      s.ringLost = { s with ring := s.ringLost.ring, teller := s.ringLost.teller } ∧ s.ringLost.teller.commits = s.teller.commits) ∧
    exec .pcieLinkDown s = .next { s.ringLost with
      host := { s.host with linkUp := false, linkWidth := 0, linkSpeed := 0, half := none }
      matrix := { s.matrix with waiting := s.matrix.waiting.filter fun r => r.m != .hostPort } } ∧
    exec .busMasterClear s = .next s.ringLost ∧
    exec .perstAssert s = .next { s.ringLost with
      host := {}, pins := { s.pins with perstN := false }
      matrix := { s.matrix with waiting := s.matrix.waiting.filter fun r => r.m != .hostPort } } ∧
    exec .perstDeassert s = .next { s with pins := { s.pins with perstN := true } } ∧
    exec .d3hotEntry s = .next { s.ringLost with host := { s.host with d3hot := true } } ∧
    exec .d3hotExit s = .next { s with host := { s.host with d3hot := false } } ∧
    (∀ w v, s.powered = true → s.portReady = true → (w = 1 ∨ w = 2 ∨ w = 4 ∨ w = 8) → 1 ≤ v → v ≤ 4 →
      exec (.pcieLinkUp w v) s = .next { s with host := { s.host with ready := true, linkUp := true, linkWidth := w, linkSpeed := v } }) ∧
    (∀ w v, (s.powered && s.portReady) = false → exec (.pcieLinkUp w v) s = .next s) ∧
    (s.hostReaches = false → exec .functionLevelReset s = .next s ∧ ∀ v, exec (.msixUnmask v) s = .next s) ∧
    (s.hostReaches = true →
      (∃ t, exec .functionLevelReset s = .next t ∧
        t = { s.ringLost with host := { s.host with bar2Sel := 0, msix := List.replicate 64 {}, half := none }, dma := t.dma } ∧
        (∀ h, h < 8 → t.dmaCh (56 + h) = { owner := (s.dmaCh (56 + h)).owner }) ∧ ∀ n, n < 56 → t.dmaCh n = s.dmaCh n) ∧
      (∀ v, (s.host.msix.getD v {}).masked = true → (s.host.msix.getD v {}).pending = true →
        exec (.msixUnmask v) s = .next { s with
          host := { s.host with msix := s.host.msix.modify v fun e => { e with masked := false, pending := false } }
          out := s.out ++ [.msix v] }) ∧
      (∀ v, (s.host.msix.getD v {}).pending = false ∨ (s.host.msix.getD v {}).masked = false → exec (.msixUnmask v) s = .next { s with
        host := { s.host with msix := s.host.msix.modify v fun e => { e with masked := false, pending := false } } })) ∧
    (s.host.v0Owed = false → exec (.msixHoldoffEnd 0) s = .next { s with host := { s.host with v0Hold := false, v0Owed := false } }) ∧
    (s.host.linkUp = true → (s.host.msix.getD 0 {}).masked = false → s.host.v0Owed = true →
      exec (.msixHoldoffEnd 0) s = .next { s with host := { s.host with v0Hold := true, v0Owed := false }, out := s.out ++ [.msix 0] }) ∧
    (s.host.v2Owed = false → exec (.msixHoldoffEnd 2) s = .next { s with host := { s.host with v2Hold := false, v2Owed := false } }) ∧
    (s.host.linkUp = true → (s.host.msix.getD 2 {}).masked = false → s.host.v2Owed = true →
      exec (.msixHoldoffEnd 2) s = .next { s with host := { s.host with v2Hold := true, v2Owed := false }, out := s.out ++ [.msix 2] }) ∧
    (∀ rd d, exec (.pcieCompletion rd (.ok d)) s = .next s) ∧
    (s.canFetch = false → (∀ r, exec (.pcieCompletion .ringEntry r) s = .next s ∧ exec (.pcieCompletion .indirect r) s = .next s) ∧
      exec (.pcieCompletionTimeout .ringEntry) s = .next s ∧ exec (.pcieCompletionTimeout .indirect) s = .next s) ∧
    (∀ e f, e = (({ s with ring := { s.ring with fetchErr := true, entryErr := true, hold := true } }).sendVector 1) →
      f = { s with ring := { s.ring with fetchErr := true } } → s.canFetch = true →
      exec (.pcieCompletion .ringEntry .failed) s = .next e ∧ exec (.pcieCompletion .ringEntry .poisoned) s = .next e ∧
      exec (.pcieCompletionTimeout .ringEntry) s = .next e ∧ exec (.pcieCompletion .indirect .failed) s = .next f ∧
      exec (.pcieCompletion .indirect .poisoned) s = .next f ∧ exec (.pcieCompletionTimeout .indirect) s = .next f) ∧
    (∀ ch, s.dmaExists ch = true → ch < s.dma.length → ((s.dmaCh ch).st = .running ∨ (s.dmaCh ch).st = .stopping) →
      (∃ t, exec (.pcieCompletion (.dma ch) .poisoned) s = .next t ∧ (t.dmaCh ch).st = .halted ∧ (t.dmaCh ch).errCause = 4 ∧
        (t.dmaCh ch).errDir = false) ∧
      (∃ t, exec (.pcieCompletionTimeout (.dma ch)) s = .next t ∧ (t.dmaCh ch).st = .halted ∧ (t.dmaCh ch).errCause = 3) ∧
      (∃ t, exec (.pcieCompletion (.dma ch) .failed) s = .next t ∧ (t.dmaCh ch).st = .halted ∧ (t.dmaCh ch).errCause = 3)) ∧
    (∀ ch, (s.dmaCh ch).st ≠ .running → (s.dmaCh ch).st ≠ .stopping →
      exec (.pcieCompletion (.dma ch) .poisoned) s = .next s ∧ exec (.pcieCompletion (.dma ch) .failed) s = .next s ∧
      exec (.pcieCompletionTimeout (.dma ch)) s = .next s) ∧
    (s.hostReaches = false → (∀ off data, exec (.bar2Write off data) s = .next s) ∧ ∀ off len, exec (.bar2Read off len) s = .next s) ∧
    (s.hostReaches = true →
      (∀ off data, exec (.bar2Write off data) s = .next { s with host := { s.host with bar2Write := true } }) ∧
      (∀ off x, off + 8 ≤ 2 ^ 32 → off % 8 = 0 → s.host.bar2Sel = 0 → s.usable 5 (off / 2 ^ 31) = true → s.stalled (6 + off / 2 ^ 31) = false →
        s.mxWaiting 0 = [] → x = s.vword (off / 8) → x.flips = [] →
        (x.poison = false → ∃ t, exec (.bar2Read off 8) s = .next t ∧ t = { s with
          out := s.out ++ [.completion 0 (le 8 x.data.toNat)], matrix := t.matrix }) ∧
        (x.poison = true → ∃ t, exec (.bar2Read off 8) s = .next t ∧ t.out = s.out ++ [.completion 1 (List.replicate 8 0)] ∧
          t.host = { s.host with bar2Err := true })) ∧
      (∀ off len, 0 < len → off + len ≤ 2 ^ 32 → off % 64 + len ≤ 64 → s.host.bar2Sel = 0 → s.stalled (6 + off / 2 ^ 31) = false →
        s.usable 5 (off / 2 ^ 31) = false → s.mxWaiting 0 = [] → ∃ t, exec (.bar2Read off len) s = .next t ∧ t = { s with
          host := { s.host with bar2Err := true }, out := s.out ++ [.completion 2 []], matrix := t.matrix }) ∧
      (∀ off len, 2 ^ 32 < off + len → exec (.bar2Read off len) s = .next s) ∧
      (∀ off len, off + len ≤ 2 ^ 32 → s.host.bar2Sel.getLsbD 0 = false → bits s.host.bar2Sel.toNat 15 8 ≠ 0 →
        exec (.bar2Read off len) s = .next { s with host := { s.host with bar2Err := true }, out := s.out ++ [.completion 2 []] })) ∧
    (s.powered = false ∨ s.stalled 16 = true → (∀ f, exec (.spiWrite f) s = .next s) ∧ (∀ n, exec (.spiReadReply n) s = .next s) ∧
      exec .spiReadStatus s = .next s ∧ (∀ o n, exec (.spiReadData o n) s = .next s) ∧ ∀ b, exec (.spiUnknownFrame b) s = .next s) ∧
    (s.powered = true → s.stalled 16 = false →
      (∀ pk : List Byte, 16 ≤ pk.length → pk.length ≤ 4096 → pk.length % 4 = 0 →
        (s.spi.cmdQ.length < 16 → exec (.spiWrite (withCrc (le 2 pk.length ++ pk))) s = .next { s with
          spi := { s.spi with cmdQ := s.spi.cmdQ ++ [{ src := .spi, bytes := pk }] } }) ∧
        (16 ≤ s.spi.cmdQ.length → exec (.spiWrite (withCrc (le 2 pk.length ++ pk))) s = .next { s with
          spi := { s.spi with overflow := true } })) ∧
      (∀ frame : List Byte, (frame.length ≠ u16 frame 0 + 6 ∨ crcLastOk frame = false) →
        exec (.spiWrite frame) s = .next { s with spi := { s.spi with frameErr := true } }) ∧
      (∀ b, exec (.spiUnknownFrame b) s = .next { s with spi := { s.spi with frameErr := true } }) ∧
      (∀ n r rest, s.spi.replyQ = r :: rest → r.length = 32 →
        (38 ≤ n → exec (.spiReadReply n) s = .next { s with
          spi := { s.spi with replyQ := rest }, out := s.out ++ [.spi (withCrc (1 :: r))] }) ∧
        (n < 38 → exec (.spiReadReply n) s = .next { s with out := s.out ++ [.spi ((withCrc (1 :: r)).take (n - 1))] })) ∧
      (∀ n, s.spi.replyQ = [] → exec (.spiReadReply n) s = .next { s with
        out := s.out ++ [.spi ((withCrc (List.replicate 33 0)).take (n - 1))] }) ∧
      exec .spiReadStatus s = .next { s with
        spi := { s.spi with frameErr := false, overflow := false }
        out := s.out ++ [.spi (le 1 s.spiStatus ++ le 1 s.spi.replyQ.length)] } ∧
      (∀ o n, o % 4 = 0 → n % 4 = 0 → 4 ≤ n → o + n ≤ 4096 →
        exec (.spiReadData o n) s = .next { s with out := s.out ++ [.spi (withCrc (slice s.spi.dataBuf o n))] }) ∧
      (∀ o n, ¬(o % 4 = 0 ∧ n % 4 = 0 ∧ 4 ≤ n ∧ o + n ≤ 4096) → ∃ d, d.length = n ∧
        exec (.spiReadData o n) s = .next { s with out := s.out ++ [.spi d], freeCtr := s.freeCtr + n }))

/-! ### DMA channels and the bus matrix -/

/-- R484, R483, R489, R482, R487, R486, R488, R280, R474: HEAD starts a chain on an idle or halted channel and sets DB_ERR on any other;
a KICK makes a parked channel go on at a non-zero NEXT, is held while an end-mark read is outstanding, and otherwise only
zeroes CHAIN_COUNT; ARM runs the shadow set of an idle host channel; STOP takes a running channel to STOPPING and a parked one to IDLE; a
channel fetches and checks its next descriptor, and halts on a failed check or past the chain limit; a completed one writes DONE
and the channel goes on at NEXT, at the shadow set, parks or stops; a time-out halts it with its cause, and with it the run of the
kernel that owns it; a channel whose engine is not usable does nothing. -/
def Obligations.DmaChannelsMove : Prop :=
  ∀ (s : State) (ch : Nat) (c : DmaCh), ch < s.dma.length → c = s.dmaCh ch →
    (s.dmaExists ch = false → (∀ a, exec (.dmaHead ch a) s = .next s) ∧ (∀ h, exec (.kick ch h) s = .next s) ∧ exec (.arm ch) s = .next s ∧
      exec (.stop ch) s = .next s ∧ (∀ h, exec (.descriptorStart ch h) s = .next s) ∧
      ∀ h ok, exec (.descriptorComplete ch h ok) s = .next s) ∧
    (s.dmaExists ch = true →
    (∀ a, (c.st = .idle ∨ c.st = .halted) → ∃ t, exec (.dmaHead ch a) s = .next t ∧ t = { s with dma := t.dma } ∧
      (∀ n, n ≠ ch → t.dmaCh n = s.dmaCh n) ∧ (t.dmaCh ch).st = .running ∧ (t.dmaCh ch).chain = true ∧ (t.dmaCh ch).nextAddr = a ∧
      (t.dmaCh ch).loaded = false ∧ (t.dmaCh ch).chainCount = 0 ∧ (t.dmaCh ch).status = 1 ∧ (t.dmaCh ch).chainLimit = c.chainLimit) ∧
    (∀ a, c.st ≠ .idle → c.st ≠ .halted →
      exec (.dmaHead ch a) s = .next (s.updDma ch fun x => { x with dbErr := true })) ∧
    (∀ host, c.st ≠ .parked → ∃ t, exec (.kick ch host) s = .next t ∧
      t.dmaCh ch = { c with kickDue := false, chainCount := 0, kickPending := c.kickPending || s.endMarkRead ch } ∧
      t = { s with dma := t.dma }) ∧
    (∀ (n : BitVec 64) a, c.st = .parked → targetOf (c.curDesc.toNat + 40) = .host a → s.host.linkUp = true → s.mxWaiting 21 = [] →
      (∃ t, exec (.kick ch (.ok (le 8 n.toNat))) s = .next t ∧ t = { s with dma := t.dma, matrix := t.matrix } ∧
        t.dmaCh ch = if n = 0 then { c with kickDue := false, chainCount := 0 }
          else { c with kickDue := false, chainCount := 0, st := .running, nextAddr := n, loaded := false, nextRead := false, doneOut := false }) ∧
      (∃ t, exec (.kick ch .failed) s = .next t ∧ (t.dmaCh ch).st = .halted ∧ (t.dmaCh ch).errCause = 3 ∧ (t.dmaCh ch).errDir = false)) ∧
    (hostChannel ch = none → exec (.arm ch) s = .next s) ∧
    (∀ h, hostChannel ch = some h →
      (c.shadowValid = true ∨ c.st = .parked ∨ c.st = .halted →
        exec (.arm ch) s = .next (s.updDma ch fun x => { x with dbErr := true })) ∧
      (c.shadowValid = false → c.st = .idle → exec (.arm ch) s = .next (s.updDma ch fun x => { x with
        active := x.shadow, shadowValid := false, st := .running, chain := false, curDesc := 0, loaded := false, nextRead := false
        doneOut := false })) ∧
      (c.shadowValid = false → (c.st = .running ∨ c.st = .stopping) →
        exec (.arm ch) s = .next (s.updDma ch fun x => { x with shadowValid := true }))) ∧
    (c.st = .running → exec (.stop ch) s = .next (s.updDma ch fun x => { x with st := .stopping })) ∧
    (c.st = .parked → exec (.stop ch) s = .next (s.updDma ch fun x => { x with st := .idle, shadowValid := false })) ∧
    (c.st ≠ .running → c.st ≠ .parked → exec (.stop ch) s = .next s) ∧
    ((c.st ≠ .running ∧ c.st ≠ .stopping ∨ c.loaded = true) → ∀ host, exec (.descriptorStart ch host) s = .next s) ∧
    (∀ host, (c.st = .running ∨ c.st = .stopping) → c.loaded = false → c.chainLimit ≤ c.chainCount →
      ∃ t, exec (.descriptorStart ch host) s = .next t ∧ (t.dmaCh ch).st = .halted ∧ (t.dmaCh ch).errCause = 8 ∧
        (t.dmaCh ch).errAddr = c.nextAddr) ∧
    ((c.st = .running ∨ c.st = .stopping) → c.loaded = false → c.chainCount < c.chainLimit →
      (∀ host, c.chain = false → s.descCause ch c.active false c.nextAddr.toNat = none →
        ∃ t, exec (.descriptorStart ch host) s = .next t ∧ t = { s with dma := t.dma } ∧ (t.dmaCh ch).active = c.active ∧
          (t.dmaCh ch).loaded = true ∧ (t.dmaCh ch).st = c.st ∧ (t.dmaCh ch).bytesDone = 0 ∧ (t.dmaCh ch).chainCount = c.chainCount + 1) ∧
      (∀ host, c.chain = true → descPlace c.nextAddr.toNat = false →
        ∃ t, exec (.descriptorStart ch host) s = .next t ∧ (t.dmaCh ch).st = .halted ∧ (t.dmaCh ch).errCause = 9) ∧
      (∀ host cause, c.chain = true → descPlace c.nextAddr.toNat = true → s.descHeld ch c.nextAddr.toNat = some cause →
        ∃ t, exec (.descriptorStart ch host) s = .next t ∧ (t.dmaCh ch).st = .halted ∧ (t.dmaCh ch).errCause = cause) ∧
      (∀ (b : List Byte) a, c.chain = true → b.length = 64 → targetOf c.nextAddr.toNat = .host a → c.nextAddr.toNat % 64 = 0 →
        s.host.linkUp = true → s.descHeld ch c.nextAddr.toNat = none → s.mxWaiting 21 = [] →
        (s.descCause ch b true c.nextAddr.toNat = none →
          ∃ t, exec (.descriptorStart ch (.ok b)) s = .next t ∧ t = { s with dma := t.dma, matrix := t.matrix } ∧ (t.dmaCh ch).active = b ∧
            (t.dmaCh ch).loaded = true ∧ (t.dmaCh ch).st = c.st ∧ (t.dmaCh ch).bytesDone = 0 ∧
            (t.dmaCh ch).curDesc = c.nextAddr ∧ (t.dmaCh ch).chainCount = c.chainCount + 1) ∧
        (∀ cause, s.descCause ch b true c.nextAddr.toNat = some cause →
          ∃ t, exec (.descriptorStart ch (.ok b)) s = .next t ∧ (t.dmaCh ch).st = .halted ∧ (t.dmaCh ch).errCause = cause ∧
            (t.dmaCh ch).errAddr = c.nextAddr) ∧
        (∃ t, exec (.descriptorStart ch .poisoned) s = .next t ∧ (t.dmaCh ch).st = .halted ∧ (t.dmaCh ch).errCause = 4))) ∧
    ((c.st ≠ .running ∧ c.st ≠ .stopping ∨ c.loaded = false ∨ c.bytesDone < (descOf c.active).total ∨ c.chain = true ∧ c.nextRead = false) →
      ∀ host ok, exec (.descriptorComplete ch host ok) s = .next s) ∧
    (∀ host ok, (c.st = .running ∨ c.st = .stopping) → c.loaded = true → c.chain = false → (descOf c.active).total ≤ c.bytesDone →
      (descOf c.active).irqFull = false →
      (c.st = .stopping → exec (.descriptorComplete ch host ok) s =
        .next (s.updDma ch fun x => { x with st := .idle, shadowValid := false, loaded := false })) ∧
      (c.st = .running → (descOf c.active).next ≠ 0 → exec (.descriptorComplete ch host ok) s =
        .next (s.updDma ch fun x => { x with chain := true, nextAddr := BitVec.ofNat 64 (descOf c.active).next, loaded := false })) ∧
      (c.st = .running → (descOf c.active).next = 0 → c.shadowValid = true → exec (.descriptorComplete ch host ok) s =
        .next (s.updDma ch DmaCh.takeShadow)) ∧
      (c.st = .running → (descOf c.active).next = 0 → c.shadowValid = false → exec (.descriptorComplete ch host ok) s =
        .next (s.updDma ch fun x => { x with st := .idle, loaded := false }))) ∧
    (∀ host h, c.st = .running → c.loaded = true → c.chain = false → (descOf c.active).total ≤ c.bytesDone → hostChannel ch = some h →
      c.owner = none → c.irqEn = true → s.host.linkUp = true → (s.host.msix.getD (4 + h) {}).masked = false →
      (descOf c.active).irqFull = true → (descOf c.active).next = 0 → c.shadowValid = false →
      ∃ t, exec (.descriptorComplete ch host true) s = .next t ∧ (t.dmaCh ch).st = .idle ∧ (t.dmaCh ch).full = true ∧
        t.out = s.out ++ [.msix (4 + h)]) ∧
    (∀ host a, (c.st = .running ∨ c.st = .stopping) → c.loaded = true → c.chain = true → c.nextRead = true → c.doneOut = false →
      (descOf c.active).total ≤ c.bytesDone → s.host.linkUp = true → targetOf (c.curDesc.toNat + 56) = .host a → s.mxWaiting 21 = [] →
      ((descOf c.active).irqFull = false → c.lastNext ≠ 0 →
        ∃ t, exec (.descriptorComplete ch host true) s = .next t ∧ t.out = s.out ++ [.hostWrite (BitVec.ofNat 64 a) [1, 0, 0, 0]] ∧
          t.dmaCh ch = (if c.st = .stopping then { c with doneOut := true, st := .idle, shadowValid := false, loaded := false }
            else { c with doneOut := true, chain := true, nextAddr := c.lastNext, loaded := false }) ∧
          t = { s with dma := t.dma, out := t.out, matrix := t.matrix }) ∧
      (∀ b, (descOf c.active).irqFull = false → c.lastNext = 0 → c.st = .running → c.shadowValid = false → c.kickPending = false →
        targetOf (c.curDesc.toNat + 40) = .host b →
        ∃ t, exec (.descriptorComplete ch (.ok (List.replicate 8 0)) true) s = .next t ∧
          t.out = s.out ++ [.hostWrite (BitVec.ofNat 64 a) [1, 0, 0, 0]] ∧
          t.dmaCh ch = { c with doneOut := true, st := .parked, loaded := false }) ∧
      (∃ t, exec (.descriptorComplete ch host false) s = .next t ∧ (t.dmaCh ch).st = .halted ∧ (t.dmaCh ch).errCause = 3 ∧
        (t.dmaCh ch).errDir = true)) ∧
    (∀ e i addr wr, ch = e * 16 + i % 16 →
      (c.st = .running ∨ c.st = .stopping → ∃ t, exec (.matrixTimeout (.dma e) i addr wr) s = .next t ∧ (t.dmaCh ch).st = .halted ∧
        (t.dmaCh ch).errCause = 3 ∧ (t.dmaCh ch).errDir = wr ∧ (t.dmaCh ch).errAddr = addr ∧
        ∀ h k, c.owner = some h → s.kernel? h = some k → s.hstate h = .running → t.hstate h = .stopped ∧
          (t.kernel? h).map (·.exit) = some (BitVec.ofNat 32 exitDma)) ∧
      (c.st ≠ .running → c.st ≠ .stopping → exec (.matrixTimeout (.dma e) i addr wr) s = .next s)))

/-- R468, R469, R471, R472, R473, R290, R481, R487, R488, R491: a write of whole words to the Vault writes exactly them and answers OKAY; one
with a word in part is refused with TGT_ERR and writes nothing there; a path that the matrix does not carry answers DECODE_ERR
and writes nothing; a read returns the word's data; a burst that waits stands behind those that came before, and a port grants the
request that has waited 1,024 cycles, else one of the highest path priority; a FILL descriptor writes its pattern, and another copies
its source, piece by piece, and the bytes acknowledged are counted; a piece with a poisoned word halts the channel; NEXT is
read again after the last byte; a PULSE crossing that loses an event counts it and raises CDC_OVERRUN; a timed-out burst of the
host port or the Teller is answered with TIMEOUT; an inactive master's bursts do nothing. -/
def Obligations.MatrixBurstsComplete : Prop :=
  ∀ (s : State),
    (∀ (a : Nat) (d : BitVec 64), a < 2 ^ 32 → a % 8 = 0 → s.masterActive .teller = true → s.usable 5 (a / 2 ^ 31) = true →
      s.stalled (6 + a / 2 ^ 31) = false → Memory.wf {} s.vault.words = true → s.mxWaiting 0 = [] →
      (∃ t, exec (.matrixBurst (.write .teller (BitVec.ofNat 64 a) (le 8 d.toNat) (List.replicate 8 true) true)) s = .next t ∧
        t.out = s.out ++ [.beat 0 []] ∧ t.vword (a / 8) = { data := d, poison := false } ∧ (∀ x, x ≠ a / 8 → t.vword x = s.vword x) ∧
        t = { s with out := t.out, vault := t.vault, matrix := t.matrix }) ∧
      (∃ t, exec (.matrixBurst (.write .teller (BitVec.ofNat 64 a) (le 8 d.toNat) (true :: List.replicate 7 false) true)) s = .next t ∧
        t = { s with out := s.out ++ [.beat 1 []], matrix := t.matrix }) ∧
      (∀ host, (s.vword (a / 8)).flips = [] → (s.vword (a / 8)).poison = false →
        ∃ t, exec (.matrixBurst (.read .teller (BitVec.ofNat 64 a) 8 host)) s = .next t ∧
          t = { s with out := s.out ++ [.beat 0 (le 8 (s.vword (a / 8)).data.toNat)], matrix := t.matrix })) ∧
    (∀ (a : Nat) (d : List Byte), a < 2 ^ 32 → a % 64 = 0 → 0 < d.length → d.length ≤ 64 → s.hostReaches = true → s.mxWaiting 22 = [] →
      ∃ t, exec (.matrixBurst (.write .hostPort (BitVec.ofNat 64 a) d (List.replicate d.length true) true)) s = .next t ∧
        t = { s with out := s.out ++ [.beat 2 []], matrix := t.matrix }) ∧
    (∀ m a len host (d : List Byte) st ok, s.masterActive m = false →
      exec (.matrixBurst (.read m a len host)) s = .next s ∧ exec (.matrixBurst (.write m a d st ok)) s = .next s ∧
      exec (.matrixBurst (.waitRead m a len host)) s = .next s ∧ exec (.matrixBurst (.waitWrite m a d st ok)) s = .next s) ∧
    (∀ m (a : BitVec 64) (d : List Byte) st host ok, s.masterActive m = true → 0 < d.length → a.toNat % 64 + d.length ≤ 64 → st.length = d.length →
      exec (.matrixBurst (.waitRead m a d.length host)) s = .next { s with matrix := { s.matrix with waiting := s.matrix.waiting ++
        [{ port := portOf m false a.toNat, m := m, write := false, addr := a.toNat, len := d.length, host := hostPart 0 d.length host
           since := s.now }] } } ∧
      exec (.matrixBurst (.waitWrite m a d st ok)) s = .next { s with matrix := { s.matrix with waiting := s.matrix.waiting ++
        [{ port := portOf m true a.toNat, m := m, write := true, addr := a.toNat, data := d, strobes := st, accepts := ok
           since := s.now }] } }) ∧
    (∀ port l r, s.mxWinner port l = some r → r ∈ l ∧ ∀ q ∈ firstOfEach l,
      r.since + mxAge ≤ s.now ∨ s.now < q.since + mxAge ∧ pathPrio q.m port ≤ pathPrio r.m port) ∧
    (∀ ch (c : DmaCh) (d : Desc) host a b n, s.dmaExists ch = true → ch < s.dma.length → c = s.dmaCh ch → d = descOf c.active →
      (c.st = .running ∨ c.st = .stopping) → c.loaded = true → d.irqHalf = false → c.bytesDone < d.total → 4 ≤ d.xLen →
      d.piece c.bytesDone = (a, b, n) →
      (d.fill = true → b % 64 = 0 → n ≤ 64 → targetOf b = .host (b - 2 ^ 63) → s.host.linkUp = true → s.mxWaiting 21 = [] →
        ∃ t, exec (.matrixBurst (.dmaPiece ch host true)) s = .next t ∧ t.dmaCh ch = { c with bytesDone := c.bytesDone + n } ∧
          t.out = s.out ++ [.hostWrite (BitVec.ofNat 64 (b - 2 ^ 63)) ((List.range n).map fun i => BitVec.ofNat 8 (d.src / 256 ^ (i % 4)))]) ∧
      (d.fill = false → n = 8 → a % 8 = 0 → b % 8 = 0 → a < 2 ^ 32 → b < 2 ^ 32 → s.usable 5 (a / 2 ^ 31) = true → s.usable 5 (b / 2 ^ 31) = true →
        s.stalled (6 + a / 2 ^ 31) = false → s.stalled (6 + b / 2 ^ 31) = false → s.mxWaiting 0 = [] → Memory.wf {} s.vault.words = true →
        (s.vword (a / 8)).flips = [] →
        ((s.vword (a / 8)).poison = false → ∃ t, exec (.matrixBurst (.dmaPiece ch host true)) s = .next t ∧
          t.dmaCh ch = { c with bytesDone := c.bytesDone + 8 } ∧ t.vword (b / 8) = { data := (s.vword (a / 8)).data, poison := false } ∧
          ∀ x, x ≠ b / 8 → t.vword x = s.vword x) ∧
        ((s.vword (a / 8)).poison = true → ∃ t, exec (.matrixBurst (.dmaPiece ch host true)) s = .next t ∧
          (t.dmaCh ch).st = .halted ∧ (t.dmaCh ch).errCause = 4 ∧ (t.dmaCh ch).errDir = false ∧ (t.dmaCh ch).errAddr = BitVec.ofNat 64 a))) ∧
    (∀ ch (c : DmaCh) (n : BitVec 64) a, s.dmaExists ch = true → ch < s.dma.length → c = s.dmaCh ch → c.kickDue = false →
      (c.st = .running ∨ c.st = .stopping) → c.loaded = true → c.chain = true → c.nextRead = false → (descOf c.active).total ≤ c.bytesDone →
      targetOf (c.curDesc.toNat + 40) = .host a → s.host.linkUp = true → s.mxWaiting 21 = [] →
      (∃ t, exec (.matrixBurst (.dmaNext ch (.ok (le 8 n.toNat)))) s = .next t ∧
        t.dmaCh ch = { c with nextRead := true, lastNext := n } ∧ t = { s with dma := t.dma, matrix := t.matrix }) ∧
      (∃ t, exec (.matrixBurst (.dmaNext ch .failed)) s = .next t ∧ (t.dmaCh ch).st = .halted ∧ (t.dmaCh ch).errCause = 3)) ∧
    (∀ ch host ok, s.dmaExists ch = false → exec (.matrixBurst (.dmaPiece ch host ok)) s = .next s ∧
      exec (.matrixBurst (.dmaNext ch host)) s = .next s) ∧
    (∀ a b n, s.powered = true → ∃ t, exec (.matrixBurst (.overrun a b n)) s = .next t ∧
      t.health.cdcOverrun = satAdd 32 s.health.cdcOverrun 1 ∧ t.health.events.getLsbD evCdcOverrun = true ∧
      t.health.overruns.contains (a, b) = true) ∧
    (∀ a b n, s.powered = false → exec (.matrixBurst (.overrun a b n)) s = .next s) ∧
    (∀ ch addr wr, exec (.matrixTimeout .teller ch addr wr) s = .next { s with out := s.out ++ [.beat 3 []] } ∧
      (s.hostReaches = true → exec (.matrixTimeout .hostPort ch addr wr) s = .next { s with
        host := { s.host with bar2Err := true }, out := s.out ++ [.completion 3 []] }) ∧
      (s.hostReaches = false → exec (.matrixTimeout .hostPort ch addr wr) s = .next s))

/-! ### Time and scheduled events -/

/-- R399, R400, R401, R414–R418, R420–R423, R430: TIME_SET sets the time at commit or waits for its PPS_IN edge and for no longer
than 2 s; TIME_ADJUST slews, steps or offsets; TIME_STATUS reports in its reply words and, where a destination is named, with its record; an
accepted edge steers the loop of its source, another counts PPS_REJECT; a second with an estimate from a peer steers by it;
losing PPS_IN or TKREF leads from LOCKED to HOLDOVER; each second selects a source; a counter out of vote is reloaded; a finished
slew stands in PPS_OFFSET; PPS_OUT pulses; a SYSREF_IN edge aligns links that wait for it. -/
def Obligations.TheTimekeeperKeepsTime : Prop :=
  ∀ (s : State),
    (∀ src p t, Accepted 0x50 timeSetBody src true .failed p s → fullOf p.b 24 = some t →
      (u8 p.b 16 = 1 → ∃ u, exec (.timeSet src) s = .next (repliedTwice s p {} {} u) ∧ u.now = t ∧ u.tk.ppsOffset = 0 ∧ u.tk.slewLeft = 0 ∧
        u.tk.state = (if s.tk.state = .locked then .acquire else s.tk.state) ∧ u.handles = s.handles) ∧
      (u8 p.b 16 = 0 → exec (.timeSet src) s = .next (queued s p {} .timeSet ((s.pop src).updTk fun k => { k with setWait := some t })))) ∧
    (∀ t, s.tk.setWait = some t → ∃ u, exec .timeSetTimeout s = .next u ∧ u.tk = { s.tk with setWait := none } ∧
      ∀ d ∈ u.teller.deferred, d.wait ≠ .timeSet) ∧
    (∀ src p (v : Int), Accepted 0x51 timeAdjustBody src true .failed p s → v = sext 64 (u64 p.b 24) →
      (u8 p.b 16 = 0 → exec (.timeAdjust src) s = .next (replied s p {}
        ((s.pop src).updTk fun k => { k with slewLeft := k.slewLeft + v * 1000000 }))) ∧
      (u8 p.b 16 = 1 → ∃ u, exec (.timeAdjust src) s = .next (replied s p {} u) ∧ u.tk.ppsOffset = s.tk.ppsOffset + v * 1000000 ∧
        (0 ≤ (s.now : Int) + v → (u.now : Int) = (s.now : Int) + v) ∧ u.handles = s.handles) ∧
      (u8 p.b 16 = 2 → exec (.timeAdjust src) s = .next (replied s p {} ((s.pop src).updTk fun k => { k with yHost := v })))) ∧
    (s.tk.setWait = none → exec .timeSetTimeout s = .next s) ∧
    (∀ src wr p w, Accepted 0x52 timeStatusBody src wr .failed p s →
      w = { r0 := s.tk.state.code, r1 := s.uTotal, r2 := s.tk.lastPps.toNat % 2 ^ 32 } →
      (src = .ring → u64 p.b 16 = 0 → exec (.timeStatus src wr) s = .next (replied s p w (s.pop src))) ∧
      (src = .ring → u64 p.b 16 ≠ 0 → wr = true → ∃ u, exec (.timeStatus src wr) s = .next (replied s p w u) ∧
        u = { s.pop src with out := s.out ++ [.hostWrite (BitVec.ofNat 64 (u64 p.b 16)) (s.timeRecord.take (u32 p.b 24))] }) ∧
      (src = .ring → u64 p.b 16 ≠ 0 → wr = false →
        exec (.timeStatus src wr) s = .next (replied s p { status := stFault, r0 := 3 } (s.pop src))) ∧
      (src = .spi → ∃ u, exec (.timeStatus src wr) s = .next (replied s p w u) ∧
        u.spi.dataBuf = slice s.timeRecord 0 4096 ∧ u.tk = s.tk) ∧
      (∀ q, src = .fabric q → exec (.timeStatus src wr) s = .next (replied s p w (s.pop src)))) ∧
    (∀ stamp high, s.tk.ppsAccepts stamp high = false → ∃ u, exec (.ppsInEdge stamp high) s = .next u ∧
      u.tk = { s.tk with ppsReject := satAdd 16 s.tk.ppsReject 1 } ∧ u.health.events.getLsbD evPps = true) ∧
    (∀ stamp high e, s.tk.ppsAccepts stamp high = true → s.tk.setWait = none → s.tk.src = .pps → e = s.tk.ppsError stamp →
      e.natAbs ≤ 1000 * 65536 → ∃ u, exec (.ppsInEdge stamp high) s = .next u ∧ u.tk.lastEdge = some stamp ∧ u.tk.ppsValid = true ∧
        u.tk.phaseErr = e ∧ u.tk.yI = s.tk.yI - divOpen (e * 1000000000) (65536 * 256) ∧ u.tk.cnt = s.tk.cnt) ∧
    (∀ stamp high, s.tk.ppsAccepts stamp high = true → s.tk.setWait = none → s.tk.src ≠ .pps →
      ∃ u, exec (.ppsInEdge stamp high) s = .next u ∧
        u.tk = { s.tk with lastEdge := some stamp, ppsValid := true, lastPps := s.stampAt stamp }) ∧
    (∀ stamp high e, s.tk.ppsAccepts stamp high = true → s.tk.setWait = none → s.tk.src = .pps → e = s.tk.ppsError stamp →
      1000 * 65536 < e.natAbs → ∃ u, exec (.ppsInEdge stamp high) s = .next u ∧ u.tk.phaseErr = e ∧ u.tk.yI = s.tk.yI ∧ u.tk.ppsValid = true ∧
        (s.tk.state = .acquire → s.idleForStep = true → 0 ≤ (s.now : Int) - e → (u.now : Int) = (s.now : Int) - e) ∧
        ((s.tk.state ≠ .acquire ∨ s.idleForStep = false) → u.tk.cnt = s.tk.cnt)) ∧
    (∀ stamp high target, s.tk.ppsAccepts stamp high = true → s.tk.setWait = some target → s.idleForStep = false →
      ∃ u, exec (.ppsInEdge stamp high) s = .next u ∧ u.tk.cnt = s.tk.cnt ∧ u.tk.setWait = none ∧ ∀ d ∈ u.teller.deferred, d.wait ≠ .timeSet) ∧
    (∀ stamp high target, s.tk.ppsAccepts stamp high = true → s.tk.setWait = some target → s.idleForStep = true → stamp ≤ s.now →
      ∃ u, exec (.ppsInEdge stamp high) s = .next u ∧ u.now = target + (s.now - stamp) ∧ u.tk.ppsOffset = 0 ∧ u.tk.slewLeft = 0 ∧
        u.tk.setWait = none ∧ u.tk.state = s.tk.state) ∧
    (s.tk.ppsValid = true → s.tk.src = .pps → (s.tk.state = .locked ∨ s.tk.state = .acquire) →
      ∃ u, exec .ppsValidExpiry s = .next u ∧ u.tk.state = .holdover ∧ u.tk.ppsValid = false ∧ u.tk.hop = 15 ∧ u.tk.cnt = s.tk.cnt ∧
        u.health.events.getLsbD evPps = true) ∧
    (s.tk.ppsValid = false → exec .ppsValidExpiry s = .next s) ∧
    (s.tk.ppsValid = true → s.tk.src ≠ .pps → ∃ u, exec .ppsValidExpiry s = .next u ∧ u.tk = { s.tk with ppsValid := false } ∧
      u.health.events.getLsbD evPps = true) ∧
    (s.tk.src = .pps → ∃ u, exec .disciplineSecond s = .next u ∧ u.tk = s.tk.history none ∧ u.handles = s.handles) ∧
    (∀ q p e, s.tk.src = .peer q → q < s.ports.length → p = s.port q → p.state = .up → p.time.peerLocked = true → s.tk.ppsValid = false →
      32 ≤ p.time.thetas.length → e = medianInt p.time.thetas →
      ∃ u, exec .disciplineSecond s = .next u ∧ u.tk.phaseErr = e ∧ u.tk.hop = p.time.peerHop + 1 ∧ u.tk.src = .peer q ∧
        (u.port q).time.lastTheta = e ∧ (u.port q).time.thetas = [] ∧ (e.natAbs ≤ 1000 * 65536 →
          u.tk.yI = s.tk.yI - divOpen (e * 1000000000) (65536 * 256) ∧ u.tk.cnt = s.tk.cnt)) ∧
    (∀ q p, s.tk.src = .peer q → q < s.ports.length → p = s.port q → p.state = .up → p.time.peerLocked = true → s.tk.ppsValid = false →
      p.time.thetas.length < 32 → p.time.missed < 2 →
      ∃ u, exec .disciplineSecond s = .next u ∧ u.tk.src = .peer q ∧ u.tk.yLoop = clampLoop s.tk.yI ∧ u.tk.cnt = s.tk.cnt ∧
        (u.port q).time.missed = p.time.missed + 1) ∧
    (s.tk.src = .none → s.tk.ppsValid = true → s.tk.tkref ≠ .lost →
      ∃ u, exec .disciplineSecond s = .next u ∧ u.tk.src = .pps ∧ u.tk.hop = 0 ∧ u.tk.state = .acquire ∧ u.tk.cnt = s.tk.cnt ∧ u.tk.yI = s.tk.yI) ∧
    (∀ q, s.tk.src = .peer q → (s.port q).state ≠ .up → s.tk.ppsValid = false → s.tk.state = .locked →
      (∀ n, n < 64 → (s.port n).candidate = false) →
      ∃ u, exec .disciplineSecond s = .next u ∧ u.tk.src = .none ∧ u.tk.hop = 15 ∧ u.tk.state = .holdover ∧ u.tk.cnt = s.tk.cnt) ∧
    ((s.tk.tkref = .mhz10 ∨ s.tk.tkref = .mhz100) → s.tk.state = .locked →
      ∃ u, exec .tkrefLoss s = .next u ∧ u.tk.state = .holdover ∧ u.tk.tkref = .lost ∧ u.tk.cnt = s.tk.cnt ∧
        u.health.events.getLsbD evTkrefLost = true) ∧
    (s.tk.tkref ≠ .mhz10 → s.tk.tkref ≠ .mhz100 → exec .tkrefLoss s = .next s) ∧
    (∀ a b c v, voteCounters [a, b, c] = some v → exec (.tkResync [a, b, c]) s = .next { s with
      tk := { s.tk with cnt := [v, v, v], resync := satAdd 16 s.tk.resync ([a, b, c].countP (· != v)) } }) ∧
    (∀ a b c m, voteCounters [a, b, c] = none → s.tk.tkref ≠ .lost → m = median3 a b c →
      ∃ u, exec (.tkResync [a, b, c]) s = .next u ∧ u.tk.cnt = [m, m, m] ∧ u.tk.state = .acquire ∧ u.tk.timeFault = true ∧
        u.health.events.getLsbD evTimeFault = true) ∧
    (∃ u, exec .slewEnd s = .next u ∧ u.tk.slewLeft = 0 ∧ u.tk.ppsOffset = s.tk.ppsOffset + s.tk.slewLeft ∧ u = { s with tk := u.tk }) ∧
    exec .ppsOutSecond s = .next { s with pins := { s.pins with ppsOut := true } } ∧
    exec .ppsOutEnd s = .next { s with pins := { s.pins with ppsOut := false } } ∧
    (∀ n, s.powered = true → n = s.links.countP (fun k => k.subclass1 && s.sysrefMisaligned k s.now) →
      ∃ u, exec .sysrefEdge s = .next u ∧
        u.tk = { s.tk with sysrefEdges := satAdd 32 s.tk.sysrefEdges 1, sysrefMisalign := satAdd 32 s.tk.sysrefMisalign n } ∧
        u.links = (s.links.map fun k => if k.subclass1 && k.lemc.isNone then { k with lemc := some s.now } else k) ∧
        (0 < n → u.health.events.getLsbD evSysref = true)) ∧
    (s.powered = false → exec .sysrefEdge s = .next s)

/-- R402, R431, R433, R434, R436, R437: SCHEDULE takes a free slot; a slot whose due time has come pulses its SYNC_OUT pins for
128 ns, raises event 7 of its kernel, or, in SAFE_STATE, is skipped and counted; one that is not due does nothing; a carried command
runs in its turn, or ends there with the status of the check it fails, once, and waits for its turn, its reply room and the end of
SAFE_STATE; after its last firing a slot is STOPPED; a SYNC_OUT pulse ends in time. -/
def Obligations.SchedulesFire : Prop :=
  ∀ (s : State),
    (∀ src p, Accepted 0x53 scheduleBody src true .failed p s → ∃ n h hs, s.freeSlot = some n ∧
      s.handles.alloc (.schedule n (slotOfPkt p s)) = some (h, hs) ∧
      exec (.schedule src) s = .next (replied s p { handle := h, r0 := n } { s.pop src with handles := hs }) ∧
      (s.handles.Fit → s.find h = none)) ∧
    (∀ slot e x, s.schedOf slot = some (e, x) → s.find e.h = some e → e.st = .created →
      (s.now < x.due → exec (.scheduleFire slot) s = .next s) ∧
      (x.due ≤ s.now → x.action = 2 → ∃ u, exec (.scheduleFire slot) s = .next u ∧
        (∀ i, i < 8 → u.pins.syncOut.getD i none =
          if x.syncMask.getLsbD i then some (s.now + 128 * 65536) else s.pins.syncOut.getD i none) ∧
        u.hstate e.h = (if x.ends then .stopped else .created) ∧ u.tk = s.tk ∧ u.plane = s.plane) ∧
      (x.due ≤ s.now → x.action = 3 → s.teller.safe = false → ∀ k, s.kernel? x.kernel = some k → k.vx = false →
        ∃ u, exec (.scheduleFire slot) s = .next u ∧ (∀ n ∈ k.clerks, n < s.clerks.length → (u.clerk n).evt.getLsbD 7 = true) ∧
          u.hstate e.h = (if x.ends then .stopped else .created)) ∧
      (x.due ≤ s.now → x.action = 3 → s.teller.safe = false → ∀ k, s.kernel? x.kernel = some k → k.vx = true → 1 < s.vx.ctx.length →
        ∃ u, exec (.scheduleFire slot) s = .next u ∧ (u.ctx 1).regs.evt.getLsbD 7 = true ∧
          u.hstate e.h = (if x.ends then .stopped else .created)) ∧
      (x.action = 1 → s.teller.safe = false → exec (.scheduleFire slot) s = .next s) ∧
      (x.due ≤ s.now → x.action ≠ 2 → s.teller.safe = true → ∃ u, exec (.scheduleFire slot) s = .next u ∧
        u.tk.schedLate = satAdd 16 s.tk.schedLate 1 ∧ u.health.events.getLsbD evSchedLate = true ∧ u.clerks = s.clerks ∧
        u.hstate e.h = (if x.ends then .stopped else .created)) ∧
      (∀ p r, p = carriedPkt x.src x.carried x.t s → s.teller.safe = false → (x.t, slot) ∈ s.readyTurns →
        (∀ r ∈ s.readyTurns, turnBefore r (x.t, slot) = false) → s.canTake x.src p = true →
        p.refusal (carriedBody p s) s = some r → ∃ u, exec (.scheduledCommand slot) s = .next u ∧ Committed p r.status s u ∧
          (x.ends = true → u.hstate e.h = .stopped)) ∧
      ((s.teller.safe = true ∨ (x.t, slot) ∉ s.readyTurns ∨ (∃ r ∈ s.readyTurns, turnBefore r (x.t, slot) = true) ∨
          s.canTake x.src (carriedPkt x.src x.carried x.t s) = false) → exec (.scheduledCommand slot) s = .next s) ∧
      (∀ p, p = carriedPkt x.src x.carried x.t s → s.teller.safe = false → (x.t, slot) ∈ s.readyTurns →
        (∀ r ∈ s.readyTurns, turnBefore r (x.t, slot) = false) → s.canTake x.src p = true → u8 x.carried 0 = 0x51 → u8 x.carried 16 = 2 →
        p.refusal (timeAdjustBody p s) s = none → x.ends = true →
        ∃ u, exec (.scheduledCommand slot) s = .next u ∧ u.tk.yHost = sext 64 (u64 x.carried 24) ∧ u.hstate e.h = .stopped ∧
          Committed p stOk s u)) ∧
    (∀ slot, s.schedOf slot = none → exec (.scheduleFire slot) s = .next s ∧ exec (.scheduledCommand slot) s = .next s) ∧
    (∀ slot e x, s.schedOf slot = some (e, x) → e.st ≠ .created → exec (.scheduleFire slot) s = .next s) ∧
    (∀ pin, s.pins.syncOut.getD pin none = none → exec (.syncOutPulseEnd pin) s = .next s) ∧
    (∀ pin t, s.pins.syncOut.getD pin none = some t →
      (t ≤ s.now → exec (.syncOutPulseEnd pin) s = .next { s with pins := { s.pins with syncOut := s.pins.syncOut.set pin none } }) ∧
      (s.now < t → exec (.syncOutPulseEnd pin) s = .next s))

/-! ### Boot, resets and health -/

/-- R459, R461, R462, R505–R508, R520, R416, R307, R308, R34, R42, R443: the supplies and the release of RESET_N start the boot, hold it for
a test or a flash write; the image chosen among the valid ones starts and logs RESET, none leaves the boot hold; the BIST of the Teller
channels makes a lead, or SAFE_STATE where fewer than two pass; the modules found serve where the channel accepts and trains them; the
first Ledger rewrite brings the units that passed into use; a fallback loads the other image, and where that fails too the device holds; a
pin or device reset clears all but the flash, a Teller restart keeps the time and the Reserve; a write of RESET_CTRL without its key and
code does nothing. -/
def Obligations.DeviceBootsAndResets : Prop :=
  ∀ (s : State),
    (s.boot.phase = .off → exec .supplyVddAoUp s = .next { s with
      boot := { s.boot with phase := .quiet, kind := 1 }, pins := { s.pins with vddAo := true } }) ∧
    (s.boot.phase ≠ .off → exec .supplyVddAoUp s = .next s) ∧
    (∀ mode hp test, s.boot.phase = .quiet → exec (.resetNRelease mode hp test) s = .next { s with
      boot := { bootMode := mode, hpDisable := hp, testMode := test, kind := s.boot.kind, noImage := test
                phase := if test then .hold else if mode = 3 then .flash else .booting }
      pins := { s.pins with resetN := true, pwrOk := true } }) ∧
    (∀ mode hp test, s.boot.phase ≠ .quiet → exec (.resetNRelease mode hp test) s = .next s) ∧
    (∀ m, s.powered = true → s.boot.tkrefDone = false → ∃ t, exec (.tkrefSelect m) s = .next t ∧
      t.tk.tkref = (match m with | .absent => .absent | .mhz10 => .mhz10 | .mhz100 => .mhz100) ∧ t.boot.tkrefDone = true ∧
      t = { s with tk := t.tk, boot := t.boot }) ∧
    (∀ m, (s.powered = false ∨ s.boot.tkrefDone = true) → exec (.tkrefSelect m) s = .next s) ∧
    (∀ a b x, s.boot.phase = .booting → s.boot.image = none → x = chooseImage s.boot.bootMode s.boot.forced (validImage a) (validImage b) →
      (x = none → exec (.bootImageLoad a b) s = .next { s with boot := { s.boot with phase := .hold, noImage := true } }) ∧
      (∀ i fw, x = some (i, fw) → ∃ needs, exec (.bootImageLoad a b) s = .next
        ({ s with
          boot := { s.boot with image := some i, kernelNeeds := needs }, ledger := { s.ledger with fwVersion := fw }
          freeCtr := s.freeCtr + 2 }.logAdd 0x0502 0 0xFF (le 1 s.boot.kind ++ [0, 0, 0] ++ le 4 fw.toNat))) ∧
      (∀ n m fw gw, validImage a = some (n, fw) → validImage b = some (m, gw) → s.boot.forced = none →
        x = if s.boot.bootMode = 1 then some (0, fw) else if s.boot.bootMode = 2 then some (1, gw)
          else if n < m then some (1, gw) else some (0, fw)) ∧
      (∀ m gw, validImage a = none → validImage b = some (m, gw) → s.boot.forced = none →
        x = if s.boot.bootMode = 1 then none else some (1, gw))) ∧
    (∀ a b, (s.boot.phase ≠ .booting ∨ s.boot.image.isSome = true) → exec (.bootImageLoad a b) s = .next s) ∧
    (∀ a b c : Bool, s.boot.phase = .booting → s.boot.image.isSome = true → s.boot.bistDone = false → s.teller.safe = false →
      ∃ t, exec (.bootBistDone a b c) s = .next t ∧ t.boot.bistDone = true ∧ t.tk = s.tk ∧
        t.teller.safe = decide ([a, b, c].countP id < 2) ∧ ([a, b, c].countP id < 2 → t.teller.safeCause = 1) ∧
        t.ledger.usable.teller = [a, b, c] ∧
        t.teller.channels = [if a then { st := .lead } else { st := .failed, bistFails := 1 }
          , if !b then { st := .failed, bistFails := 1 } else if a then { st := .check } else { st := .lead }
          , if !c then { st := .failed, bistFails := 1 } else if a || b then { st := .check } else { st := .lead }]) ∧
    (∀ a b c, (s.boot.phase ≠ .booting ∨ s.boot.image = none ∨ s.boot.bistDone = true) → exec (.bootBistDone a b c) s = .next s) ∧
    (∀ l : List Training, s.boot.phase = .booting → s.fuse.variant = .a → s.boot.trained = false →
      ∃ t, exec (.reserveTrainingDone l) s = .next t ∧ t.boot.trained = true ∧ t.tk = s.tk ∧
        ∀ i, i < 8 → (l[i]? = some .empty ∨ l[i]? = none → (t.ch i).state = 0) ∧
          ∀ m ok, l[i]? = some (.module m ok) →
            (t.ch i).state = (if spdAccepted m then (if ok then 1 else 2) else 3) ∧ (t.ch i).ranks = m.ranks ∧ (t.ch i).vendor = m.vendor ∧
            (t.ch i).capacity = (if spdAccepted m then m.capacity else 0)) ∧
    (∀ l, (s.boot.phase ≠ .booting ∨ s.fuse.variant ≠ .a ∨ s.boot.trained = true) → exec (.reserveTrainingDone l) s = .next s) ∧
    (∀ failed : List UnitRef, s.boot.phase = .booting → s.boot.bistDone = true → s.teller.safe = false →
      (s.fuse.variant = .a → s.boot.trained = true) → ∃ t, exec (.firstLedgerRewrite failed) s = .next t ∧ t.boot.phase = .up ∧
        t.ledger.firstDone = true ∧ t.ledger.generation = s.ledger.generation + 1 ∧ t.tk = s.tk ∧
        (∀ n, n < 16 → t.usable 2 n = (s.present 2 n && !failed.contains ⟨2, n⟩)) ∧
        (∀ n, n < 4 → t.usable 3 n = (s.present 3 n && !failed.contains ⟨3, n⟩)) ∧
        (∀ n, n < 2 → t.usable 5 n = (s.present 5 n && !failed.contains ⟨5, n⟩)) ∧
        (∀ n, n < 64 → t.usable 7 n = (s.present 7 n && !failed.contains ⟨7, n⟩)) ∧ ∀ n, n < 2 → t.die n = s.service.flash.dies.getD n {}) ∧
    (∀ failed, (s.boot.phase ≠ .booting ∨ s.boot.bistDone = false ∨ s.teller.safe = true ∨ s.fuse.variant = .a ∧ s.boot.trained = false) →
      exec (.firstLedgerRewrite failed) s = .next s) ∧
    (∀ i, s.boot.phase = .booting → s.boot.bootMode = 0 → s.boot.testMode = false → s.boot.image = some i →
      (s.boot.fallback = false → ∃ t, exec .bootFallbackTimeout s = .next t ∧ t.boot.phase = .booting ∧ t.boot.image = none ∧
        t.boot.forced = some (1 - i) ∧ t.boot.fallback = true ∧ t.tk = State.reset.tk) ∧
      (s.boot.fallback = true → exec .bootFallbackTimeout s = .next { s with boot := { s.boot with phase := .hold, noImage := true } })) ∧
    ((s.boot.phase ≠ .booting ∨ s.boot.bootMode ≠ 0 ∨ s.boot.image = none) → exec .bootFallbackTimeout s = .next s) ∧
    (s.powered = true → ∃ t, exec .pinReset s = .next t ∧ t.boot.phase = .quiet ∧ t.boot.kind = 2 ∧ t.pins.resetN = false ∧
      t.tk = State.reset.tk ∧ t.handles = State.reset.handles ∧ t.ledger = State.reset.ledger ∧ t.teller = State.reset.teller ∧
      t.ring = State.reset.ring ∧ t.lanes = State.reset.lanes ∧ t.octets = State.reset.octets ∧ t.plane = State.reset.plane ∧
      t.vault = State.reset.vault ∧ t.reserve = State.reset.reserve ∧ t.health = State.reset.health ∧ t.service.flash = s.service.flash ∧
      t.log.next = s.log.mirror.length ∧ t.log.entries.map Prod.snd = s.log.mirror) ∧
    (s.powered = false → exec .pinReset s = .next s) ∧
    (∀ v : BitVec 32, s.hostReaches = true → bits v.toNat 31 16 = 0x5253 → bits v.toNat 1 0 = 2 →
      ∃ t, exec (.deviceReset v) s = .next t ∧ t.boot.kind = 3 ∧
        t.boot.phase = (if s.boot.testMode then .hold else if s.boot.bootMode = 3 then .flash else .booting) ∧
        t.tk = State.reset.tk ∧ t.handles = State.reset.handles ∧ t.ledger = State.reset.ledger ∧ t.teller = State.reset.teller ∧
        t.ring = State.reset.ring ∧ t.lanes = State.reset.lanes ∧ t.octets = State.reset.octets ∧ t.plane = State.reset.plane ∧
        t.vault = State.reset.vault ∧ t.reserve = State.reset.reserve ∧ t.health = State.reset.health ∧ t.service.flash = s.service.flash ∧
        t.log.next = s.log.mirror.length ∧ t.log.entries.map Prod.snd = s.log.mirror) ∧
    (∀ v : BitVec 32, s.hostReaches = true → bits v.toNat 31 16 = 0x5253 → bits v.toNat 1 0 = 1 →
      ∃ t, exec (.tellerRestart v) s = .next t ∧ t.boot.kind = 4 ∧
        t.boot.phase = (if s.boot.testMode then .hold else if s.boot.bootMode = 3 then .flash else .booting) ∧
        t.tk.cnt = s.tk.cnt ∧ t.host.linkUp = true ∧
        t.ring.enable = false ∧ t.handles = State.reset.handles ∧ t.ledger = State.reset.ledger ∧ t.lanes = State.reset.lanes ∧
        t.vault = State.reset.vault ∧ t.reserve.bytes = s.reserve.bytes ∧ t.health = State.reset.health ∧
        t.log.entries.map Prod.snd = s.log.mirror) ∧
    (∀ v : BitVec 32, (s.hostReaches = false ∨ bits v.toNat 31 16 ≠ 0x5253 ∨ bits v.toNat 1 0 ≠ 1) → exec (.tellerRestart v) s = .next s) ∧
    (∀ v : BitVec 32, (s.hostReaches = false ∨ bits v.toNat 31 16 ≠ 0x5253 ∨ bits v.toNat 1 0 ≠ 2) → exec (.deviceReset v) s = .next s) ∧
    (∃ t, exec .supplyLoss s = .next t ∧ t.boot.phase = .off ∧ t.log.entries = [] ∧ t.service.flash = s.service.flash ∧
      t.handles = State.reset.handles ∧ t.vault = State.reset.vault)

/-- R439, R440, R441, R443–R445, R447, R448, R451, R453, R454, R404, R405, R408, R33, R35, R462, R495, R510: a channel that fails its
diagnosis rejoins through BIST and transfer, or stays FAILED after three failures in a day; a lead hands over, and with a second channel
lost, or a vote without a majority, the device enters SAFE_STATE; the Statement is rewritten with its CRC; a temperature held for 10
samples throttles, and 1 s below the limits relaxes; HEALTH_READ, LOG_READ and MONITOR_SET report and set; a Ledger rewrite completes, and
begins again where something changed in it; the service record is written, or its failure logged; a stalled island reports; the
test port steps. -/
def Obligations.TheTellerSurvivesAndReports : Prop :=
  ∀ (s : State),
    (s.tellerRuns = true → s.teller.safe = false → s.teller.channels.length = 3 → (∀ n, n < 3 → s.usable 4 n = true) →
      s.health.stalled.contains 17 = false →
      (∀ n, n < 3 → (s.channel n).active = true → (s.channel n).st ≠ .lead → (s.channel n).fails = [] → s.voting = 3 →
        (∃ t, exec (.tellerWatchdogExpiry n) s = .next t ∧ (t.channel n).st = .rejoining ∧ t.teller.safe = false ∧ t.tk = s.tk ∧
          t.handles = s.handles ∧ t.usable 4 n = false) ∧
        (∃ t, exec (.tellerChannelFail n .uncorrectable) s = .next t ∧ (t.channel n).st = .rejoining ∧ t.teller.safe = false ∧
          t.handles = s.handles ∧ t.usable 4 n = false) ∧
        (∃ t, exec (.tellerChannelFail n .outvoted) s = .next t ∧ (t.channel n).st = .rejoining ∧ t.teller.safe = false ∧
          t.handles = s.handles ∧ t.usable 4 n = false)) ∧
      (∀ n a b, n < 3 → (s.channel n).active = true → (s.channel n).fails = [a, b] → s.now < a + tickDay → s.now < b + tickDay →
        ∃ t, exec (.tellerChannelFail n .uncorrectable) s = .next t ∧ (t.channel n).st = .failed ∧ (t.channel n).latched = true) ∧
      ((s.channel 0).st = .lead → (s.channel 1).st = .check → (s.channel 2).st = .check → (s.channel 0).fails = [] →
        ∃ t, exec (.tellerChannelFail 0 .uncorrectable) s = .next t ∧ (t.channel 0).st = .rejoining ∧ (t.channel 1).st = .lead ∧
          (t.channel 2).st = .check ∧ t.health.takeovers = satAdd 32 s.health.takeovers 1 ∧ t.health.lastGap ≤ 96 ∧
          t.health.events.getLsbD evTakeover = true ∧ t.handles = s.handles ∧ t.tk = s.tk ∧ t.xa = s.xa) ∧
      (∀ n, n < 3 → (s.channel n).active = true → s.voting = 2 →
        (∃ t, exec (.tellerChannelFail n .uncorrectable) s = .next t ∧ t.teller.safe = true ∧ t.teller.safeCause = 1 ∧ t.handles = s.handles) ∧
        (∃ t, exec (.tellerWatchdogExpiry n) s = .next t ∧ t.teller.safe = true ∧ t.teller.safeCause = 1 ∧ t.handles = s.handles) ∧
        (∃ t, exec (.tellerChannelFail n .outvoted) s = .next t ∧ t.teller.safe = true ∧ t.teller.safeCause = 2) ∧
        (∃ t, exec (.tellerChannelFail n .mismatch) s = .next t ∧ t.teller.safe = true ∧ t.teller.safeCause = 2)) ∧
      (∀ n, s.voting = 3 → ∃ t, exec (.tellerChannelFail n .mismatch) s = .next t ∧ t.teller.safe = true ∧ t.teller.safeCause = 3) ∧
      (∀ n, (s.channel n).active = false →
        exec (.tellerChannelFail n .uncorrectable) s = .next s ∧ exec (.tellerWatchdogExpiry n) s = .next s ∧
        ∀ o, exec (.tellerChannelFail n (.correctable o)) s = .next s) ∧
      (∀ n o, (s.channel n).active = true → exec (.tellerChannelFail n (.correctable o)) s =
        .next (s.logAdd 0x0205 4 n (le 1 n ++ [0, 0, 0] ++ le 4 o)))) ∧
    (s.tellerRuns = false → ∀ n c, exec (.tellerChannelFail n c) s = .next s ∧ exec (.tellerWatchdogExpiry n) s = .next s) ∧
    (∀ n, n < s.teller.channels.length → (s.channel n).st = .rejoining →
      ((s.channel n).transfer = false → exec (.rejoinBistDone n true) s = .next (s.updChannel n fun x => { x with bistFails := 0, transfer := true }) ∧
        ∃ t, exec (.rejoinBistDone n false) s = .next t ∧ (t.channel n).st = .failed ∧ (t.channel n).bistFails = (s.channel n).bistFails + 1) ∧
      ((s.channel n).transfer = true → s.teller.safe = false → n < 3 → s.ledger.usable.teller.length = 3 →
        ∃ t, exec (.rejoinTransferDone n) s = .next t ∧ (t.channel n).st = .check ∧ t.usable 4 n = true ∧ t.handles = s.handles)) ∧
    (∀ n, ((s.channel n).st ≠ .rejoining ∨ (s.channel n).transfer = true) → ∀ ok, exec (.rejoinBistDone n ok) s = .next s) ∧
    (∀ n, ((s.channel n).st ≠ .rejoining ∨ (s.channel n).transfer = false ∨ s.teller.safe = true) →
      exec (.rejoinTransferDone n) s = .next s) ∧
    (∀ n, n < s.teller.channels.length → (s.channel n).st = .failed → (s.channel n).latched = false →
      exec (.failedBistRetry n true) s = .next (s.updChannel n fun x => { x with st := .rejoining, bistFails := 0, transfer := true }) ∧
      ∃ t, exec (.failedBistRetry n false) s = .next t ∧ (t.channel n).st = .failed ∧
        (t.channel n).latched = decide (3 ≤ (s.channel n).bistFails + 1)) ∧
    (∀ n, ((s.channel n).st ≠ .failed ∨ (s.channel n).latched = true) → ∀ ok, exec (.failedBistRetry n ok) s = .next s) ∧
    (s.teller.safe = false → exec .statementRewrite s = .next s.rewriteStatement ∧ exec .safeCopyRefresh s = .next s ∧
      s.rewriteStatement.health.statement = withCrc s.rewriteStatement.statementBody ∧
      s.rewriteStatement.health.seq = satAdd 32 s.health.seq 1) ∧
    (s.teller.safe = true → exec .statementRewrite s = .next s ∧
      exec .safeCopyRefresh s = .next (s.updHealth fun h => { h with safeCopy := s.refreshedCopy })) ∧
    (∀ lane, s.teller.safe = false → s.stalled 12 = false → (s.octet (lane / 8)).isEgress = true → s.laneRuns lane = true →
      s.healthDue lane = true → ∃ t, exec (.healthRecordPost lane) s = .next t ∧
        (t.egressOf lane).healthSeq = (s.egressOf lane).healthSeq + 1 ∧ t.handles = s.handles ∧ t.tk = s.tk) ∧
    (∀ lane, (s.teller.safe = true ∨ s.laneRuns lane = false ∨ s.healthDue lane = false) → exec (.healthRecordPost lane) s = .next s) ∧
    (∀ l : List Int, l.length = 72 → s.health.sensors.length = 72 →
      ∃ t, exec (.monitorSample l) s = .next t ∧ t.tk = s.tk ∧ t.handles = s.handles ∧
        (∀ i, i < 72 → t.reading i = if s.sensorPresent i then l.getD i 0 else s.reading i) ∧
        (s.fuse.variant = .a → (∃ i, i < 32 ∧ l.getD i 0 ≥ 1600) → (∀ i, i < 32 → l.getD i 0 < 1760) → (∀ i, i < 8 → l.getD (32 + i) 0 ≥ 690) →
          s.health.trigRun = 9 → s.health.throttle < 3 → t.health.throttle = s.health.throttle + 1 ∧ t.teller.safe = s.teller.safe)) ∧
    (0 < s.health.throttle → 1000 ≤ s.health.cool → ∃ t, exec .throttleFall s = .next t ∧ t.health.throttle = s.health.throttle - 1 ∧
      t.health.cool = 0 ∧ t.tk = s.tk) ∧
    ((s.health.throttle = 0 ∨ s.health.cool < 1000) → exec .throttleFall s = .next s) ∧
    (∀ src wr p data, Accepted 0x60 healthReadBody src wr .failed p s →
      data = s.healthData (u8 p.b 16) (u8 p.b 18) (u8 p.b 19) →
      (u8 p.b 16 = 0 → exec (.healthRead src wr) s = .next (replied s p
        { r0 := s.eventFlags.toNat, r1 := wrapBits 32 s.tempMax, r2 := s.ledger.generation.toNat }
        (if bit (u8 p.b 17) 0 then (s.pop src).updHealth fun h => { h with events := 0 } else s.pop src))) ∧
      (u8 p.b 16 ≠ 0 → src = .spi → data.length ≤ 4096 →
        ∃ u, exec (.healthRead src wr) s = .next (replied s p { r1 := data.length } u) ∧ u.spi.dataBuf = slice data 0 4096 ∧
          (bit (u8 p.b 17) 0 = false → u = { s.pop src with spi := u.spi }) ∧
          (bit (u8 p.b 17) 0 = true → u8 p.b 16 = 1 → u.health.events = 0) ∧
          (bit (u8 p.b 17) 0 = true → u8 p.b 16 = 2 → ∀ d, d < 2 → u8 p.b 18 ≤ d → d < u8 p.b 18 + u8 p.b 19 →
            u.vault.cnt.getD d {} = { passLast := (s.vault.cnt.getD d {}).passLast }) ∧
          (bit (u8 p.b 17) 0 = true → u8 p.b 16 = 3 → ∀ c, c < s.reserve.ch.length → u8 p.b 18 ≤ c → c < u8 p.b 18 + u8 p.b 19 →
            (u.ch c).corr = 0 ∧ (u.ch c).uncorr = 0 ∧ (u.ch c).forcedRef = 0 ∧ (u.ch c).tillPeak = (s.ch c).level * 65536)) ∧
      (u8 p.b 16 ≠ 0 → src = .ring → wr = false →
        exec (.healthRead src wr) s = .next (replied s p { status := stFault, r0 := 3 } (s.pop src))) ∧
      (∀ n, u8 p.b 16 ≠ 0 → src = .ring → wr = true → n = min (u32 p.b 32) data.length → 0 < n → bit (u8 p.b 17) 0 = false →
        exec (.healthRead src wr) s = .next (replied s p { r1 := n, r2 := data.length - n }
          { s.pop src with out := s.out ++ [.hostWrite (BitVec.ofNat 64 (u64 p.b 24)) (data.take n)] }))) ∧
    (∀ src wr p start l, Accepted 0x61 logReadBody src wr .failed p s → start = max (u32 p.b 16) (((s.log.entries.head?).map (·.1)).getD 0) →
      l = ((s.log.entries.filter fun e => start ≤ e.1).take (u16 p.b 20)).flatMap (·.2) →
      (src = .spi → l.length ≤ 4096 → ∃ u, exec (.logRead src wr) s = .next (replied s p { r0 := start, r1 := l.length } u) ∧
        u.spi.dataBuf = slice l 0 4096 ∧ u.log = { s.log with readMark := max s.log.readMark (start + l.length / 32) }) ∧
      (∀ n, src = .ring → wr = true → n = min (u32 p.b 32) l.length → 0 < n → exec (.logRead src wr) s = .next (replied s p
        { r0 := start, r1 := n, r2 := l.length - n } { s.pop src with
          out := s.out ++ [.hostWrite (BitVec.ofNat 64 (u64 p.b 24)) (l.take n)]
          log := { s.log with readMark := max s.log.readMark (start + n / 32) } })) ∧
      (src = .ring → wr = false →
        exec (.logRead src wr) s = .next (replied s p { status := stFault, r0 := 3 } (s.pop src)))) ∧
    (∀ src p n, Accepted 0x64 monitorSetBody src true .failed p s → n = u16 p.b 16 → s.health.sensors.length = 72 →
      ∃ u, exec (.monitorSet src) s = .next (replied s p {} u) ∧ u = { s.pop src with health := { s.health with sensors := u.health.sensors } } ∧
        ∀ k e, k < n → e = monEntry p.b (20 + 8 * k) →
          (∀ j, k < j → j < n → (monEntry p.b (20 + 8 * j)).cls ≠ e.cls ∨ (monEntry p.b (20 + 8 * j)).num ≠ e.num) →
          ∃ i, sensorIndex e.cls e.num = some i ∧
            u.health.sensors.getD i {} = { s.health.sensors.getD i {} with hi := e.hi, lo := e.lo, raise := bit e.flags 0 }) ∧
    (s.ledger.dirty = true → s.teller.safe = false → ∃ t, exec .ledgerRewrite s = .next t ∧ t.health.events.getLsbD evLedger = true ∧
      t.ledger.dirty = s.ledger.again ∧ t.ledger.again = false ∧
      t.ledger.generation = s.ledger.generation + (if s.ledger.again then 2 else 1) ∧
      t.ledger.usable = s.ledger.usable ∧ t.ledger.keys = s.ledger.keys ∧
      (s.ledger.again = true → t.ledger.shown = s.ledgerView) ∧
      (s.host.linkUp = true → (s.host.msix.getD 3 {}).masked = false → Output.msix 3 ∈ t.out)) ∧
    ((s.ledger.dirty = false ∨ s.teller.safe = true) → exec .ledgerRewrite s = .next s) ∧
    (s.service.dirty = true → s.health.stalled.contains 16 = false →
      exec (.serviceRecordWrite true) s = .next { s with
        service := { s.service with flash := s.service.cur, dirty := false, seq := s.service.seq + 1, copy := 1 - s.service.copy }
        out := s.out ++ [.flash s.service.copy (s.service.seq + 1)] } ∧
      ∃ t, exec (.serviceRecordWrite false) s = .next t ∧ t.service = s.service ∧ t.health.events.getLsbD evLedger = true ∧
        t.log = (s.logAdd 0x0122 0 0xFF []).log) ∧
    ((s.service.dirty = false ∨ s.health.stalled.contains 16 = true) → ∀ ok, exec (.serviceRecordWrite ok) s = .next s) ∧
    (∀ i other, s.powered = true → i < 18 → i ≠ 15 → islandPresent s.fuse.variant i = true → s.stalled 17 = false → s.stalled i = false →
      ∃ t, exec (.cdcStall i other) s = .next t ∧ t.health.stalled = s.health.stalled ++ [i] ∧ t.health.cdcIsland = i ∧
        t.health.events.getLsbD evCdcStall = true ∧ (i = 13 → t.handles = s.handles ∧ t.tk = s.tk)) ∧
    (∀ i other, (s.powered = false ∨ 18 ≤ i ∨ i = 15 ∨ islandPresent s.fuse.variant i = false ∨ s.stalled 17 = true ∨ s.stalled i = true) →
      exec (.cdcStall i other) s = .next s) ∧
    (∀ trst tms tdi, s.boot.phase = .off → exec (.tapClock trst tms tdi) s = .next s) ∧
    (s.boot.phase ≠ .off → (∀ tms tdi, exec (.tapClock true tms tdi) s = .next { s with jtag := { s.jtag with tap := .reset, ir := 0x01 } }) ∧
      (∀ tms tdi, ∃ t, exec (.tapClock false tms tdi) s = .next t ∧ t.jtag.tap = s.jtag.tap.next tms ∧
        t = { s with jtag := t.jtag, out := t.out, freeCtr := t.freeCtr } ∧
        (s.jtag.tap = .updIr → t.jtag.tap ≠ .reset → t.jtag.ir = s.jtag.irShift) ∧
        (s.jtag.tap = .shDr → s.jtag.ir = 0x01 → t.out = s.out ++ [.tdo (s.jtag.dr.getLsbD 0)])) ∧
      (s.jtag.tap = .capDr → s.jtag.ir = 0x01 → ∀ tdi, exec (.tapClock false false tdi) s = .next { s with
        jtag := { s.jtag with dr := 0x1C4046BD, tap := .shDr } }))

/-! ### Lanes and life cycle -/

/-- R60, R368, R369, R370, R69–R73, R123, R372, R87, R388, R284, R342, R366, R42: LANE_SET gives every octet and lane its settings together,
or holds them until its time; LANE_STATUS delivers its records and clears the counters of what it delivered whole; LANE_TEST starts,
stops and reads tests, and an EYE_SCAN waits for its last point; EGRESS_SET writes a port's parameters, its open datagrams leaving
first, or rebinds a handle; DESTROY frees a handle and what it holds, but of a RUNNING kernel requests the stop; RESET_UNIT takes its
units out of use at their reset values, and each whose BIST passes comes back. -/
def Obligations.LaneAndUnitCommandsAct : Prop :=
  ∀ (s : State),
    (∀ src p c, Accepted 0x10 laneSetBody src true .failed p s → s.lanes.length = 512 → s.octets.length = 64 → c = s.laneCfg p.b (u16 p.b 16) →
      (p.commitAt ≤ s.now → ∃ u, exec (.laneSet src) s = .next (replied s p { r0 := u16 p.b 16 } u) ∧
        (∀ o, o < 64 → (u.octet o).role = (c.octets.getD o {}).role ∧ (u.octet o).rate = (c.octets.getD o {}).rate ∧
          (u.octet o).width = (c.octets.getD o {}).width) ∧
        (∀ i, i < 512 → (u.lane i).word = c.words.getD i 0) ∧ u.handles = s.handles ∧ u.vault = s.vault) ∧
      (s.now < p.commitAt → exec (.laneSet src) s = .next (replied s p { r0 := u16 p.b 16 }
        { s.pop src with laneHeld := s.laneHeld ++ [(p.commitAt, p.b)] }))) ∧
    (∀ src wr p f (data : List Byte) d, Accepted 0x11 laneStatusBody src wr .failed p s → f = u8 p.b 20 →
      data = ((List.range (u16 p.b 18)).map (u16 p.b 16 + ·)).flatMap
        (fun i => if bit f 1 then s.portRecord i else if bit f 2 then s.laneSettings i else s.laneRecord i) →
      d = p.deliver 24 32 data (s.pop src) →
      (d.2.2.2 = true → exec (.laneStatus src wr) s = .next (replied s p { status := stFault, r0 := 3 } (s.pop src))) ∧
      (d.2.2.2 = false → ∃ u, exec (.laneStatus src wr) s = .next (replied s p
          { r0 := d.2.1 / (if bit f 1 then 64 else if bit f 2 then 8 else 32), r1 := d.2.1, r2 := d.2.2.1 } u) ∧
        u = { d.1 with lanes := u.lanes, ports := u.ports } ∧
        ∀ n, u.lane n = (if bit f 0 = true ∧ bit f 1 = false ∧ d.2.2.1 = 0 ∧ u16 p.b 16 ≤ n ∧ n < u16 p.b 16 + u16 p.b 18
            then (s.lane n).clearCounters else s.lane n) ∧
          u.port n = if bit f 0 = true ∧ bit f 1 = true ∧ d.2.2.1 = 0 ∧ u16 p.b 16 ≤ n ∧ n < u16 p.b 16 + u16 p.b 18
            then { s.port n with cnt := {} } else s.port n)) ∧
    (∀ src p f n, Accepted 0x12 laneTestBody src true .failed p s → f = u16 p.b 16 → n = u16 p.b 18 → s.lanes.length = 512 →
      (bit (u8 p.b 25) 0 = true → exec (.laneTest src) s = .next (queued s p {} (.eyeScan f)
        ((s.pop src).updLane f fun l => { l with test := { l.test with eye := true } }))) ∧
      (bit (u8 p.b 25) 0 = false →
        (u8 p.b 20 = 0 → ∃ u, exec (.laneTest src) s = .next (replied s p {} u) ∧ u.handles = s.handles ∧
          ∀ i, f ≤ i → i < f + n → (u.lane i).rx = .test ∧ (u.lane i).word = (s.lane i).word ∧ (u.port (i / 8)).markerOn i = none ∧
            ∃ x, 0 < x ∧ x < 2 ^ (prbsTaps (u8 p.b 22 % 4)).1 ∧ (u.lane i).test =
              { on := true, loop := BitVec.ofNat 8 (u8 p.b 21), gen := BitVec.ofNat 2 (u8 p.b 22), chk := BitVec.ofNat 2 (u8 p.b 22 / 4)
                invert := bit (u8 p.b 22) 4, inject := BitVec.ofNat 4 (u8 p.b 23), injK := u8 p.b 24, eye := (s.lane i).test.eye
                prbs := x }) ∧
        (u8 p.b 20 = 1 → ∃ u, exec (.laneTest src) s = .next (replied s p {} u) ∧ u = { s.pop src with lanes := u.lanes } ∧
          ∀ i, u.lane i = if f ≤ i ∧ i < f + n then (s.lane i).endTest s.stamp else s.lane i) ∧
        (2 ≤ u8 p.b 20 → ∃ e b v,
          ((s.lane f).test.chkLocked = false → e = (s.lane f).test.errors ∧ b = (s.lane f).test.bits ∧ v = s.pop src) ∧
          ((s.lane f).test.chkLocked = true → v = { s.pop src with freeCtr := s.freeCtr + 2 } ∧
            ∃ e' b', e = satAdd 32 (s.lane f).test.errors e' ∧ b = satAdd 64 (s.lane f).test.bits b') ∧
          exec (.laneTest src) s = .next (replied s p { r0 := e, r1 := b % 2 ^ 32, r2 := b / 2 ^ 32 }
            (if u8 p.b 20 = 3 then v.updLane f fun l => { l with test := { l.test with errors := 0, bits := 0, cleared := l.test.chkLocked } }
              else v))))) ∧
    (∀ lane (a b c d : Byte), ((s.lane lane).test.eye = true → a.toNat ≤ 32 → b.toNat ≤ 32 → c.toNat ≤ 31 → d.toNat ≤ 31 →
        ∃ t, exec (.eyeScanComplete lane a b c d) s = .next t ∧ (t.lane lane).test.eye = false ∧ (t.lane lane).rx = (s.lane lane).rx ∧
          (∀ x ∈ t.teller.deferred, x.wait ≠ .eyeScan lane ∧ x ∈ s.teller.deferred) ∧
          (∀ x : Deferred, s.teller.deferred = [x] → x.wait = .eyeScan lane → x.src = .spi → x.lost = false → t.teller.deferred = [] ∧
            t.spi.replyQ = s.spi.replyQ ++
              [replyBytes x.op false false true 0 x.tag { r0 := leNat 4 [a, b, c, d], handle := x.handle } s.stamp])) ∧
      ((s.lane lane).test.eye = false ∨ 32 < a.toNat ∨ 32 < b.toNat ∨ 31 < c.toNat ∨ 31 < d.toNat →
        exec (.eyeScanComplete lane a b c d) s = .next s)) ∧
    (∀ src p e, Accepted 0x14 egressSetBody src true .failed p s → e = u16 p.b 16 →
      (p.target = 0 → ∃ u n, exec (.egressSet src) s = .next (replied s p { r0 := n } u) ∧ u.handles = s.handles ∧
        (u.egressOf e).mtu = u16 p.b 48 ∧ (u.egressOf e).ttl = u8 p.b 20 ∧ (u.egressOf e).dscp.toNat = u8 p.b 19 ∧
        (u.egressOf e).tci.toNat = u16 p.b 22 ∧ (u.egressOf e).dstMac = slice p.b 24 6 ∧ (u.egressOf e).srcMac = slice p.b 30 6 ∧
        (u.egressOf e).srcIp = slice p.b 36 4 ∧ (u.egressOf e).dstIp = slice p.b 40 4 ∧ (u.egressOf e).srcPort.toNat = u16 p.b 44 ∧
        (u.egressOf e).dstPort.toNat = u16 p.b 46 ∧ (u.egressOf e).tagged = bit (u8 p.b 18) 0 ∧
        (u.egressOf e).checksum = bit (u8 p.b 18) 1 ∧ (∀ h, (u.egressOf e).openOf h = []) ∧ ∀ k, k ≠ e → u.egressOf k = s.egressOf k) ∧
      (p.target ≠ 0 → ∃ u n, exec (.egressSet src) s = .next (replied s p { handle := p.target, r0 := n } u) ∧
        u = { s.pop src with handles := u.handles } ∧
        (∀ x, s.xprod? p.target = some x → u.xprod? p.target = some { x with egress := e }) ∧
        (∀ x, s.beam? p.target = some x → u.beam? p.target = some { x with egress := e }) ∧
        (∀ x r, s.capture? p.target = some x → x.reading = some r →
          u.capture? p.target = some { x with reading := some { r with port := e } }))) ∧
    (∀ src p e, Accepted 0x3F destroyBody src true .failed p s → s.find p.target = some e →
      (e.obj.kind = 5 → e.st = .running → exec (.destroy src) s = .next (replied s p { status := stState } ((s.pop src).requestStop p.target))) ∧
      (e.obj.kind ≠ 5 ∨ e.st ≠ .running → ∃ u, exec (.destroy src) s = .next (replied s p { handle := p.target } u) ∧
        u.find p.target = none ∧ u.tk = s.tk ∧
        (∀ k, e.obj = .kernel k → s.clerks.length = 16 → ∀ c ∈ k.clerks, (u.clerk c).owner = none) ∧
        (∀ r, e.obj = .trigRule r → ∀ b, (u.coarseBeam b).owner = p.target → u.coarseBeam b = {}) ∧
        (∀ c, e.obj = .capture c → ∀ x ∈ c.stripes, x ∉ u.reserve.used)) ∧
      (∀ n x, e.obj = .schedule n x → exec (.destroy src) s = .next (replied s p { handle := p.target }
        { s.pop src with handles := s.handles.free p.target })) ∧
      (∀ n, e.obj = .keySlot n → ∃ u, exec (.destroy src) s = .next (replied s p { handle := p.target } u) ∧ u.keySlot n = {} ∧
        ∀ m, m ≠ n → u.keySlot m = s.keySlot m)) ∧
    (∀ src p cls, Accepted 0x08 resetUnitBody src true .failed p s → cls = bits p.target.toNat 23 16 →
      ∃ u, exec (.resetUnit src) s = .next (queued s p {}
          (.resetUnit ((s.selected p.target.toNat).map fun n => { cls := cls, num := n })) u) ∧
        (∀ n ∈ s.selected p.target.toNat, u.usable cls n = false ∧ (cls = 2 → u.clerk n = {}) ∧
          (cls = 3 → ∀ k, k < 16 → u.dmaCh (16 * n + k) = {}) ∧ (cls = 6 → u.ch n = {}) ∧
          (cls = 7 → u.octet n = {} ∧ ∀ k, k < 8 → u.lane (8 * n + k) = {})) ∧ u.handles = s.handles ∧ u.tk = s.tk) ∧
    (∀ failed training,
      (s.teller.safe = true → exec (.resetUnitComplete failed training) s = .next s) ∧
      ((∀ x ∈ s.teller.deferred, ∀ l, x.wait ≠ .resetUnit l) → exec (.resetUnitComplete failed training) s = .next s) ∧
      (∀ (x : Deferred) (cls : Nat) (l bad : List Nat), s.teller.safe = false → s.teller.deferred = [x] → x.wait = .resetUnit (l.map fun n => ⟨cls, n⟩) → l.Nodup →
        bad = l.filter failed.contains →
        ∃ t, exec (.resetUnitComplete failed training) s = .next t ∧ t.teller.deferred = [] ∧ t.handles = s.handles ∧
          (s.ledger.usable.clerks.length = 16 → s.ledger.usable.dma.length = 4 → s.ledger.usable.octets.length = 64 → cls = 2 ∨ cls = 3 ∨ cls = 7 →
            ∀ n ∈ l, n < unitCount cls → t.usable cls n = (s.present cls n && !failed.contains n)) ∧
          (s.ledger.usable.resCh.length = 8 → s.reserve.ch.length = 8 → cls = 6 → ∀ n ∈ l, n < 8 →
            t.ch n = (s.ch n).trained (((training.find? fun e => e.1 == n).map Prod.snd).getD .empty) ∧
            t.usable 6 n = (s.present 6 n && !failed.contains n && (t.ch n).state == 1)) ∧
          (x.src = .spi → x.lost = false → t.spi.replyQ = s.spi.replyQ ++ [replyBytes x.op false false true 0 x.tag
            { status := if bad.isEmpty then stOk else stFault, handle := x.handle, r0 := l.length
              r1 := ((bad.filter fun n => n < 32).map fun n => 2 ^ n).sum } s.stamp])))

/-- R54, R56, R62, R63, R64, R67, R68, R70, R71, R74–R76, R80, R83, R84, R89, R527: PLLs start in groups of four once the group before is
over, and one that does not lock in 20 µs is flagged; a receiver with 64 valid headers at one position is LOCKED or ALIGNED as its role
gives, and 16 invalid ones in a window lose the lock; a slip and a resume act on their lane; markers that fit and follow align the
port and others count; egress receivers follow fault sequences and count frames; injections and PRBS checkers act on lanes under
test; a multiblock on time with good CRCs aligns its link and gives its inputs their samples, and one not whole loses it. -/
def Obligations.LanesLockAndLose : Prop :=
  (∀ stream pos, findLock stream searchBlocks 0 0 = some pos →
    ∀ i, i < 64 → bits stream (pos + 66 * i + 1) (pos + 66 * i) = 1 ∨ bits stream (pos + 66 * i + 1) (pos + 66 * i) = 2) ∧
  ∀ (s : State) (lane : Nat) (l : Lane) (o : Octet) (p : Port), l = s.lane lane → o = s.octet (lane / 8) → p = s.port (lane / 8) →
    s.lanes.length = 512 → s.octets.length = 64 → s.ports.length = 64 → lane < 512 →
    (∀ locked,
      (s.groupOver locked = false → exec (.pllGroupStart locked) s = .next s) ∧
      ((∀ n, n < 64 → (s.octet n).pll ≠ .failed ∨ (s.octet n).pllStart + 25000 * tickNs ≤ s.now) →
        locked = true ∨ (∀ n, n < 64 → (s.octet n).pll ≠ .starting ∨ (s.octet n).pllStart + 25000 * tickNs ≤ s.now) →
        ∃ t, exec (.pllGroupStart locked) s = .next t ∧ t = { s with octets := t.octets } ∧ ∀ n, n < 64 →
          ((s.octet n).pll = .waiting → ((List.range n).filter fun m => (s.octet m).pll == .waiting).length < 4 →
            t.octet n = { s.octet n with pll := .starting, pllStart := s.now, phase := 0 }) ∧
          ((s.octet n).pll = .waiting → 4 ≤ ((List.range n).filter fun m => (s.octet m).pll == .waiting).length → t.octet n = s.octet n) ∧
          ((s.octet n).pll = .starting → t.octet n = { s.octet n with pll := .locked }) ∧
          ((s.octet n).pll ≠ .waiting → (s.octet n).pll ≠ .starting → t.octet n = s.octet n))) ∧
    (∀ n, n < 64 →
      ((s.octet n).pll = .starting → (s.octet n).pllStart + 20000 * tickNs ≤ s.now → ∃ t, exec (.pllLockTimeout n) s = .next t ∧
        t.octet n = { s.octet n with pll := .failed } ∧ (∀ i, i < 8 → t.lane (8 * n + i) = { s.lane (8 * n + i) with pllUnlock := true }) ∧
        t.health.events.getLsbD evLane = true ∧ (∀ m, m ≠ n → t.octet m = s.octet m)) ∧
      ((s.octet n).pll ≠ .starting ∨ s.now < (s.octet n).pllStart + 20000 * tickNs → exec (.pllLockTimeout n) s = .next s)) ∧
    (∀ stream, (l.rx = .acquire ∧ l.rxPower = 0 ∧ l.rxResume = false ∧ s.pllRuns (lane / 8) = true →
        (findLock stream searchBlocks 0 0 = none → exec (.blockLock lane stream) s = .next (s.updLane lane fun l => { l with cdr := true })) ∧
        (∀ pos, findLock stream searchBlocks 0 0 = some pos → ∃ t, exec (.blockLock lane stream) s = .next t ∧
          t = { s with lanes := t.lanes, octets := t.octets } ∧ (t.octet (lane / 8)).pll = .locked ∧ (t.lane lane).cdr = true ∧
          (t.lane lane).position = pos % 66 ∧ (t.lane lane).descrambler = BitVec.ofNat 58 (stream >>> (pos + 64 * 66 + 8)) ∧
          (t.lane lane).slip = none ∧ (t.lane lane).lastChange = s.stamp ∧ (∀ i, i ≠ lane → t.lane i = s.lane i) ∧
          (o.isFabric = true → (t.lane lane).rx = .locked) ∧
          (o.isEgress = true → (t.lane lane).rx = if l.faultClear then .aligned else .locked) ∧
          (o.isIngest = true → (t.lane lane).rx = match s.linkOfLane lane with
            | some k => if k.aligned then .aligned else .locked
            | none => .locked))) ∧
      (l.rx ≠ .acquire ∨ l.rxPower ≠ 0 ∨ l.rxResume = true ∨ s.pllRuns (lane / 8) = false → exec (.blockLock lane stream) s = .next s)) ∧
    (∀ n,
      (l.hasLock = true → 16 ≤ n → n ≤ 64 → ∃ t, exec (.lockLoss lane n) s = .next t ∧ (t.lane lane).rx = .acquire ∧
        (t.lane lane).lockLoss = satAdd 16 l.lockLoss 1 ∧ (t.lane lane).invalidSh = satAdd 32 l.invalidSh n ∧ (t.lane lane).cdr = false ∧
        (t.port (lane / 8)).markerOn lane = none ∧ (o.isFabric = true → (t.port (lane / 8)).aligned = false) ∧ t.handles = s.handles) ∧
      (l.hasLock = true → n < 16 → exec (.lockLoss lane n) s = .next (s.updLane lane fun l => { l with invalidSh := satAdd 32 l.invalidSh n })) ∧
      (l.hasLock = false ∨ 64 < n → exec (.lockLoss lane n) s = .next s)) ∧
    (∀ again,
      (l.hasLock = true → o.isIngest = false → exec (.elasticSlip lane again) s =
        .next (s.updLane lane fun l => { l with slips := satAdd 16 l.slips 1, slip := some again })) ∧
      (l.hasLock = true → o.isIngest = true → ∃ t, exec (.elasticSlip lane again) s = .next t ∧
        (t.lane lane).slips = satAdd 16 l.slips 1 ∧ (t.lane lane).slip = some again ∧
        ∀ k, s.linkOfLane lane = some k → ∀ x ∈ t.links, x.first = k.first → x.aligned = false) ∧
      (l.hasLock = false → exec (.elasticSlip lane again) s = .next s)) ∧
    (∀ h,
      (o.isFabric = false → exec (.lanePowerResume lane true h) s = .next (s.updLane lane fun l => { l with txResume := false })) ∧
      (o.isFabric = true → ∃ t, exec (.lanePowerResume lane true h) s = .next t ∧ (t.lane lane).txResume = false ∧ t.handles = s.handles) ∧
      (l.rxResume = false → exec (.lanePowerResume lane false h) s = .next s) ∧
      (l.rxResume = true → l.rx ≠ .standby →
        exec (.lanePowerResume lane false h) s = .next (s.updLane lane fun l => { l with rxResume := false })) ∧
      (l.rxResume = true → l.rx = .standby → ∃ t, exec (.lanePowerResume lane false h) s = .next t ∧ (t.lane lane).rxResume = false ∧
        (t.lane lane).rx = if h = true ∧ l.held = true ∧ s.pllRuns (lane / 8) = true then s.lockedState lane else .acquire)) ∧
    (∀ (v : BitVec 64) (par : BitVec 8) skew m, m = markerOfPayload v.toNat →
      (o.isFabric = false ∨ (s.portLanes (lane / 8)).contains lane = false ∨ l.hasLock = false →
        exec (.markerReceive lane v par skew) s = .next s ∧ exec (.markerPeriodTimeout lane) s = .next s) ∧
      (o.isFabric = true → (s.portLanes (lane / 8)).contains lane = true → l.hasLock = true →
        (∃ t, exec (.markerReceive lane v par skew) s = .next t ∧
          (t.lane lane).roleErr = (if bits v.toNat 63 56 = par.toNat then l.roleErr else satAdd 32 l.roleErr 1) ∧
          (s.markerFits lane v.toNat skew = true → p.markerOn lane = none → (t.port (lane / 8)).markerOn lane = some m ∧
            (t.lane lane).roleEvent = l.roleEvent) ∧
          (∀ old, s.markerFits lane v.toNat skew = true → p.markerOn lane = some old → m.mcount = (old.mcount + 1) % 256 →
            (t.port (lane / 8)).markerOn lane = some { m with good := min 2 (old.good + 1) } ∧ (t.lane lane).roleEvent = l.roleEvent ∧
            (1 ≤ old.good → s.portAwake (lane / 8) = true → p.aligned = false →
              (∀ i ∈ s.portLanes (lane / 8), i ≠ lane → (s.lane i).hasLock = true ∧
                ∃ e, p.markerOn i = some e ∧ 2 ≤ e.good ∧ e.mismatch = 0) →
              (∀ e ∈ p.markers, e.1 ≠ lane → e.2.mcount = m.mcount) →
              (t.port (lane / 8)).aligned = true ∧ ∀ i ∈ s.portLanes (lane / 8), (t.lane i).rx = .aligned)) ∧
          (∀ old, s.markerFits lane v.toNat skew = true → p.markerOn lane = some old → m.mcount ≠ (old.mcount + 1) % 256 →
            (t.lane lane).roleEvent = satAdd 32 l.roleEvent 1 ∧ (3 ≤ old.mismatch → (t.port (lane / 8)).aligned = false)) ∧
          (s.markerFits lane v.toNat skew = false → (t.lane lane).roleEvent = satAdd 32 l.roleEvent 1 ∧
            (3 ≤ ((p.markerOn lane).map (·.mismatch)).getD 0 → (t.port (lane / 8)).aligned = false))) ∧
        (p.markerOn lane = none → exec (.markerPeriodTimeout lane) s =
          .next (s.updLane lane fun l => { l with roleEvent := satAdd 32 l.roleEvent 1 })) ∧
        (∀ old, p.markerOn lane = some old → ∃ t, exec (.markerPeriodTimeout lane) s = .next t ∧
          (t.lane lane).roleEvent = satAdd 32 l.roleEvent 1 ∧ (3 ≤ old.mismatch → (t.port (lane / 8)).aligned = false)))) ∧
    ((l.test.on = false → s.strikes lane = false) ∧ (l.test.on = true → bits l.test.inject.toNat 1 0 = 1 → s.strikes lane = true) ∧
      (s.strikes lane = false → exec (.injectStrike lane) s = .next s) ∧
      (s.strikes lane = true → exec (.injectStrike lane) s = .next (s.updLane lane fun l => { l with
        invalidSh := if l.loops = true ∧ bits l.test.inject.toNat 3 2 = 2 then satAdd 32 l.invalidSh 1 else l.invalidSh
        test := { l.test with
          strike := true, struck := some s.now
          inject := if bits l.test.inject.toNat 1 0 = 1 then l.test.inject &&& 0xC else l.test.inject
          errors := if l.loops = true ∧ bits l.test.inject.toNat 3 2 = 0 ∧ l.test.chkLocked = true then satAdd 32 l.test.errors 1
            else l.test.errors } }))) ∧
    (∀ stream, (l.checking = true → prbsLocks l.test.chk.toNat l.test.invert stream = true → exec (.prbsCheckerLock lane stream) s =
        .next (s.updLane lane fun l => { l with test := { l.test with chkLocked := true } })) ∧
      (l.checking = false ∨ prbsLocks l.test.chk.toNat l.test.invert stream = false → exec (.prbsCheckerLock lane stream) s = .next s)) ∧
    (∀ b e, (l.checking = true → l.test.chkLocked = true → 64 ≤ e → ∃ b' e' k,
        (l.test.cleared = false → b' = b ∧ e' = e ∧ k = s.freeCtr) ∧ (l.test.cleared = true → k = s.freeCtr + 2) ∧
        exec (.prbsCheckerLoss lane b e) s = .next (({ s with freeCtr := k } : State).updLane lane fun l => { l with test := { l.test with
          chkLocked := false, cleared := false, errors := satAdd 32 l.test.errors e', bits := satAdd 64 l.test.bits b' } })) ∧
      (l.checking = false ∨ l.test.chkLocked = false ∨ e < 64 → exec (.prbsCheckerLoss lane b e) s = .next s)) ∧
    (∀ frame : List Byte, (o.isEgress = true → l.hasLock = true →
        (∃ t, exec (.egressFaultReceive lane true) s = .next t ∧ (t.lane lane).rx = .locked ∧ (t.lane lane).remoteFault = true ∧
          (t.lane lane).localFault = l.localFault ∧ (t.lane lane).faultClear = false) ∧
        (∃ t, exec (.egressFaultReceive lane false) s = .next t ∧ (t.lane lane).rx = .locked ∧ (t.lane lane).localFault = true ∧
          (t.lane lane).remoteFault = l.remoteFault ∧ (t.lane lane).faultClear = false) ∧
        (∃ t, exec (.egressFrameReceive lane frame) s = .next t ∧ (t.egressOf lane).frames = (s.egressOf lane).frames + 1 ∧
          (t.lane lane).slip = none ∧
          (t.lane lane).roleErr = if fcsOk frame = true ∧ l.slip = none then l.roleErr else satAdd 32 l.roleErr 1)) ∧
      (o.isEgress = true → l.faultClear = false → ∃ t, exec (.egressFaultClear lane) s = .next t ∧
        (t.lane lane).rx = (if l.rx = .locked then .aligned else l.rx) ∧ (t.lane lane).faultClear = true ∧
        (t.lane lane).remoteFault = false ∧ (t.lane lane).localFault = false) ∧
      (o.isEgress = false ∨ l.faultClear = true → exec (.egressFaultClear lane) s = .next s) ∧
      (o.isEgress = false ∨ l.hasLock = false → (∀ r, exec (.egressFaultReceive lane r) s = .next s) ∧
        exec (.egressFrameReceive lane frame) s = .next s)) ∧
    (∀ n words crc whole, s.linkNamed n = none → exec (.multiblockRelease n words crc whole) s = .next s) ∧
    (∀ n k words crc, s.linkNamed n = some k →
      (k.subclass1 = false ∨ k.lemc.isSome = true → (∀ i ∈ k.lanes, (s.lane i).hasLock = true) →
        (∀ i, i < max 1 k.e → crc.getD i false = true) →
        (k.aligned = false → ∃ t, exec (.multiblockRelease n words crc true) s = .next t ∧ (∀ i ∈ k.lanes, (t.lane i).rx = .aligned) ∧
          ∀ x ∈ t.links, x.first = k.first → x.aligned = true) ∧
        (k.aligned = true → k.lemc.isSome = true → s.teller.safe = false →
          ∃ t, exec (.multiblockRelease n words crc true) s = .next t ∧ t.lanes = s.lanes ∧
            ∀ i m, (s.input i).map = some m → t.input i =
              if m.link = k.first then (s.input i).arrive k.fsKhz (s.releaseStamp k) (m.samples k words crc false) else s.input i)) ∧
      ((∃ t, exec (.multiblockRelease n words crc false) s = .next t ∧ ∀ x ∈ t.links, x.first = k.first → x.aligned = false)) ∧
      (k.subclass1 = true → k.lemc = none → ∃ t, exec (.multiblockRelease n words crc true) s = .next t ∧
        ∀ x ∈ t.links, x.first = k.first → x.aligned = false))

/-! ### The whole block -/

/-- Each step takes the command at the front of the queue and is `exec` of it with the queue's rest; with an empty queue one
TK cycle passes (model's choice, notes/assumptions/1.md). -/
def Obligations.StepRunsTheFrontCommand : Prop :=
  ∀ (s : State), (∀ c, step { s with pending := c :: s.pending } = exec c s) ∧ (s.pending = [] → step s = .next (tick s))

/-- R55, R452 and Table — Reset kinds (13_resilience.md): before power every lane is off with its reset word, every octet OFF;
the time is zero in FREERUN; there are no handles, keys, locks or plane membership; no unit is
usable; the Vault, the Reserve and the error log hold nothing; every sparse memory is canonical, and no two handles share an index.
The values the spec does not state are the model's (INVENTORY.md, State). -/
def Obligations.ResetLeavesNothingHeld : Prop :=
  let s := State.reset
  s.powered = false ∧ (∀ i, i < 512 → (s.lane i).word = 0x5000 ∧ (s.lane i).rx = .off) ∧ (∀ o, o < 64 → (s.octet o).role = 0) ∧ s.links = [] ∧
    s.now = 0 ∧ s.tk.state = .freerun ∧ s.handles.live = [] ∧ s.plane.joined = false ∧ s.plane.map = none ∧
    (∀ cls n, s.usable cls n = false) ∧ (∀ n, s.keySlot n = {}) ∧ (∀ p, p < 64 → (s.port p).state = .unbound) ∧
    s.teller.deferred = [] ∧ s.ring.enable = false ∧ (∀ w, Memory.get {} s.vault.words w = {}) ∧
    (∀ a, Memory.get 0 s.reserve.bytes a = 0) ∧ s.log.entries = [] ∧ s.faultNHigh = true ∧ s.pending = [] ∧ s.Canonical ∧ s.handles.Fit

/-- R42: every command and every idle cycle completes, takes exactly the front command from the queue, and leaves the fuses and with
them every PRESENT bit as they are. -/
def Obligations.StepsCompleteAndPresenceNeverChanges : Prop :=
  ∀ (s : State), ∃ t, step s = .next t ∧ t.pending = s.pending.tail ∧ t.fuse = s.fuse ∧ ∀ cls n, t.present cls n = s.present cls n

/-- Every step keeps every sparse memory of the block in its canonical form (model's invariant, notes/assumptions/1.md): what the
commands write to the Vault, the Reserve, the engines' memories and the generations of handles they write through the one
canonical store. -/
def Obligations.MemoriesStayCanonical : Prop :=
  ∀ (s t : State), s.Canonical → step s = .next t → t.Canonical

/-- R342: every step keeps the indexes of the live handles and of those freed apart, so that a creation never gives a handle that is
live (`Handles.Fit`; the numbering of the table is the model's, INVENTORY.md, State). -/
def Obligations.HandlesStayApart : Prop :=
  ∀ (s t : State), s.handles.Fit → step s = .next t → t.handles.Fit
end

