-- ==== Sys2Proof/Laws/Handles.lean ====
section
/-! SUPPORT. Handles: what a creation and a destruction do to a table whose indexes are all different. -/
namespace Sys2Proof.Laws
open Sys2Proof.Machine

/-- INDEX of the handle made of an index below 4,096. -/
theorem handleIndex_mkHandle (kind gen i : Nat) (h : i < 4096) : handleIndex (mkHandle kind gen i) = i := by
  simp only [handleIndex, mkHandle, bits, BitVec.toNat_ofNat]
  omega

/-- One element more in the middle of a list of different ones. -/
theorem nodup_insert {l m : List Nat} {i : Nat} : (l ++ i :: m).Nodup ↔ i ∉ l ++ m ∧ (l ++ m).Nodup := by
  rw [List.perm_middle.nodup_iff, List.nodup_cons]

/-- A creation gives a handle that no live entry has, appends its entry, and keeps the indexes apart. -/
theorem handles_alloc_spec (t u : Handles) (o : Obj) (h : Handle) (fit : t.Fit) (e : t.alloc o = some (h, u)) :
    u.live = t.live ++ [{ h := h, st := .created, obj := o }] ∧ (∀ x ∈ t.live, handleIndex x.h ≠ handleIndex h) ∧ u.Fit := by
  obtain ⟨nd, below, cap⟩ := fit
  simp only [Handles.alloc, Handles.next, Option.map_eq_some_iff] at e
  obtain ⟨i, hi, e⟩ := e
  simp only [Prod.mk.injEq] at e
  obtain ⟨rfl, rfl⟩ := e
  have lift : ∀ x ∈ t.live, handleIndex x.h ∈ t.live.map fun e => handleIndex e.h := fun x hx =>
    List.mem_map_of_mem (f := fun e : Entry => handleIndex e.h) hx
  by_cases v : t.virgin < 4096
  · rw [if_pos v, Option.some.injEq] at hi
    subst hi
    have idx := handleIndex_mkHandle o.kind (t.genOf t.virgin) t.virgin v
    refine ⟨rfl, fun x hx c => ?_, ?_⟩
    · have := below _ (List.mem_append_left _ (lift x hx)); omega
    · simp only [Handles.Fit, v, if_true, List.map_append, List.map_cons, List.map_nil, idx, List.append_assoc, List.singleton_append]
      refine ⟨nodup_insert.2 ⟨fun c => ?_, nd⟩, fun j hj => ?_, v⟩
      · have := below _ c; omega
      · have : j = t.virgin ∨ j ∈ (t.live.map fun e => handleIndex e.h) ++ t.freed := by
          simp only [List.mem_append, List.mem_cons] at hj ⊢; grind
        rcases this with rfl | hj
        · omega
        · have := below j hj; omega
  · rw [if_neg v] at hi
    cases hf : t.freed with
    | nil => simp [hf] at hi
    | cons k rest =>
      rw [hf, List.head?_cons, Option.some.injEq] at hi
      subst hi
      rw [hf] at nd below
      have kb : k < 4096 := by have := below k (by simp); omega
      have idx := handleIndex_mkHandle o.kind (t.genOf k) k kb
      have kn := (nodup_insert.1 nd).1
      refine ⟨rfl, fun x hx c => kn ?_, ?_⟩
      · rw [idx] at c; exact List.mem_append_left _ (c ▸ lift x hx)
      · simp only [Handles.Fit, v, if_false, List.map_append, List.map_cons, List.map_nil, idx, List.append_assoc, List.singleton_append,
          List.drop_succ_cons, List.drop_zero]
        exact ⟨nd, below, cap⟩

/-- Two entries of a list whose images differ pairwise are one if their images are. -/
theorem same_of_nodup_map {α β : Type} {f : α → β} {l : List α} (nd : (l.map f).Nodup) {x y : α} (hx : x ∈ l) (hy : y ∈ l)
    (e : f x = f y) : x = y := by
  induction l with
  | nil => cases hx
  | cons a t ih =>
    simp only [List.map_cons, List.nodup_cons, List.mem_map] at nd
    rcases List.mem_cons.1 hx with rfl | hx <;> rcases List.mem_cons.1 hy with rfl | hy
    · rfl
    · exact absurd ⟨_, hy, e.symm⟩ nd.1
    · exact absurd ⟨_, by assumption, e⟩ nd.1
    · exact ih nd.2 hx hy

/-- Freeing a live handle keeps the indexes apart. -/
theorem handles_free_fit (t : Handles) (h : Handle) (fit : t.Fit) (live : ∃ x ∈ t.live, x.h = h) : (t.free h).Fit := by
  obtain ⟨nd, below, cap⟩ := fit
  obtain ⟨x, hx, rfl⟩ := live
  have sub : List.Sublist ((t.live.filter fun e => e.h != x.h).map fun e => handleIndex e.h) (t.live.map fun e => handleIndex e.h) :=
    List.filter_sublist.map _
  obtain ⟨na, nb, dis⟩ := List.nodup_append.1 nd
  have gone : handleIndex x.h ∉ (t.live.filter fun e => e.h != x.h).map fun e => handleIndex e.h := by
    intro c
    obtain ⟨y, hy, e⟩ := List.mem_map.1 c
    have hy' := List.mem_filter.1 hy
    have : y = x := same_of_nodup_map na hy'.1 hx e
    simp [this] at hy'
  have ix : handleIndex x.h ∈ t.live.map fun e => handleIndex e.h := List.mem_map_of_mem (f := fun e : Entry => handleIndex e.h) hx
  refine ⟨?_, ?_, cap⟩
  · simp only [Handles.free, ← List.append_assoc]
    refine List.nodup_append.2 ⟨nd.sublist (sub.append_right _), by simp, ?_⟩
    intro a ha b hb c
    simp only [List.mem_singleton] at hb
    subst hb; subst c
    rcases List.mem_append.1 ha with ha | ha
    · exact gone ha
    · exact dis _ ix _ ha rfl
  · intro j hj
    simp only [Handles.free, List.mem_append, List.mem_singleton] at hj
    rcases hj with hj | hj | rfl
    · exact below j (List.mem_append_left _ (sub.subset hj))
    · exact below j (List.mem_append_right _ hj)
    · exact below _ (List.mem_append_left _ ix)

/-- Entries changed under their own handles keep the indexes apart. -/
theorem handles_map_fit (t : Handles) (f : Entry → Entry) (keep : ∀ e, (f e).h = e.h) (fit : t.Fit) :
    ({ t with live := t.live.map f } : Handles).Fit := by
  have m : (t.live.map f).map (fun e => handleIndex e.h) = t.live.map fun e => handleIndex e.h := by
    simp [List.map_map, Function.comp_def, keep]
  simpa only [Handles.Fit, m] using fit

/-- The table at reset. -/
theorem handles_fit_empty : ({} : Handles).Fit := by simp [Handles.Fit]

end Sys2Proof.Laws
end

