-- ==== Sys2Proof/Laws/State.lean ====
section
/-! SUPPORT. What each update of the state leaves alone and what it writes: one lemma per field per update, so that no
proof unfolds a record update. -/
namespace Sys2Proof.Laws
open Sys2Proof.Machine

variable (s : State)

/-! ### updHealth -/

@[simp] theorem updHealth_fuse (f : Health → Health) : (s.updHealth f).fuse = s.fuse := rfl
@[simp] theorem updHealth_boot (f : Health → Health) : (s.updHealth f).boot = s.boot := rfl
@[simp] theorem updHealth_pins (f : Health → Health) : (s.updHealth f).pins = s.pins := rfl
@[simp] theorem updHealth_jtag (f : Health → Health) : (s.updHealth f).jtag = s.jtag := rfl
@[simp] theorem updHealth_ledger (f : Health → Health) : (s.updHealth f).ledger = s.ledger := rfl
@[simp] theorem updHealth_ring (f : Health → Health) : (s.updHealth f).ring = s.ring := rfl
@[simp] theorem updHealth_host (f : Health → Health) : (s.updHealth f).host = s.host := rfl
@[simp] theorem updHealth_spi (f : Health → Health) : (s.updHealth f).spi = s.spi := rfl
@[simp] theorem updHealth_teller (f : Health → Health) : (s.updHealth f).teller = s.teller := rfl
@[simp] theorem updHealth_handles (f : Health → Health) : (s.updHealth f).handles = s.handles := rfl
@[simp] theorem updHealth_service (f : Health → Health) : (s.updHealth f).service = s.service := rfl
@[simp] theorem updHealth_octets (f : Health → Health) : (s.updHealth f).octets = s.octets := rfl
@[simp] theorem updHealth_lanes (f : Health → Health) : (s.updHealth f).lanes = s.lanes := rfl
@[simp] theorem updHealth_links (f : Health → Health) : (s.updHealth f).links = s.links := rfl
@[simp] theorem updHealth_laneHeld (f : Health → Health) : (s.updHealth f).laneHeld = s.laneHeld := rfl
@[simp] theorem updHealth_egress (f : Health → Health) : (s.updHealth f).egress = s.egress := rfl
@[simp] theorem updHealth_ports (f : Health → Health) : (s.updHealth f).ports = s.ports := rfl
@[simp] theorem updHealth_plane (f : Health → Health) : (s.updHealth f).plane = s.plane := rfl
@[simp] theorem updHealth_fe (f : Health → Health) : (s.updHealth f).fe = s.fe := rfl
@[simp] theorem updHealth_xa (f : Health → Health) : (s.updHealth f).xa = s.xa := rfl
@[simp] theorem updHealth_coarse (f : Health → Health) : (s.updHealth f).coarse = s.coarse := rfl
@[simp] theorem updHealth_vault (f : Health → Health) : (s.updHealth f).vault = s.vault := rfl
@[simp] theorem updHealth_reserve (f : Health → Health) : (s.updHealth f).reserve = s.reserve := rfl
@[simp] theorem updHealth_log (f : Health → Health) : (s.updHealth f).log = s.log := rfl
@[simp] theorem updHealth_vx (f : Health → Health) : (s.updHealth f).vx = s.vx := rfl
@[simp] theorem updHealth_clerks (f : Health → Health) : (s.updHealth f).clerks = s.clerks := rfl
@[simp] theorem updHealth_dma (f : Health → Health) : (s.updHealth f).dma = s.dma := rfl
@[simp] theorem updHealth_matrix (f : Health → Health) : (s.updHealth f).matrix = s.matrix := rfl
@[simp] theorem updHealth_tk (f : Health → Health) : (s.updHealth f).tk = s.tk := rfl
@[simp] theorem updHealth_health (f : Health → Health) : (s.updHealth f).health = f s.health := rfl
@[simp] theorem updHealth_pending (f : Health → Health) : (s.updHealth f).pending = s.pending := rfl
@[simp] theorem updHealth_out (f : Health → Health) : (s.updHealth f).out = s.out := rfl
@[simp] theorem updHealth_freeCtr (f : Health → Health) : (s.updHealth f).freeCtr = s.freeCtr := rfl

/-! ### updTk -/

@[simp] theorem updTk_fuse (f : Tk → Tk) : (s.updTk f).fuse = s.fuse := rfl
@[simp] theorem updTk_boot (f : Tk → Tk) : (s.updTk f).boot = s.boot := rfl
@[simp] theorem updTk_pins (f : Tk → Tk) : (s.updTk f).pins = s.pins := rfl
@[simp] theorem updTk_jtag (f : Tk → Tk) : (s.updTk f).jtag = s.jtag := rfl
@[simp] theorem updTk_ledger (f : Tk → Tk) : (s.updTk f).ledger = s.ledger := rfl
@[simp] theorem updTk_ring (f : Tk → Tk) : (s.updTk f).ring = s.ring := rfl
@[simp] theorem updTk_host (f : Tk → Tk) : (s.updTk f).host = s.host := rfl
@[simp] theorem updTk_spi (f : Tk → Tk) : (s.updTk f).spi = s.spi := rfl
@[simp] theorem updTk_teller (f : Tk → Tk) : (s.updTk f).teller = s.teller := rfl
@[simp] theorem updTk_handles (f : Tk → Tk) : (s.updTk f).handles = s.handles := rfl
@[simp] theorem updTk_service (f : Tk → Tk) : (s.updTk f).service = s.service := rfl
@[simp] theorem updTk_octets (f : Tk → Tk) : (s.updTk f).octets = s.octets := rfl
@[simp] theorem updTk_lanes (f : Tk → Tk) : (s.updTk f).lanes = s.lanes := rfl
@[simp] theorem updTk_links (f : Tk → Tk) : (s.updTk f).links = s.links := rfl
@[simp] theorem updTk_laneHeld (f : Tk → Tk) : (s.updTk f).laneHeld = s.laneHeld := rfl
@[simp] theorem updTk_egress (f : Tk → Tk) : (s.updTk f).egress = s.egress := rfl
@[simp] theorem updTk_ports (f : Tk → Tk) : (s.updTk f).ports = s.ports := rfl
@[simp] theorem updTk_plane (f : Tk → Tk) : (s.updTk f).plane = s.plane := rfl
@[simp] theorem updTk_fe (f : Tk → Tk) : (s.updTk f).fe = s.fe := rfl
@[simp] theorem updTk_xa (f : Tk → Tk) : (s.updTk f).xa = s.xa := rfl
@[simp] theorem updTk_coarse (f : Tk → Tk) : (s.updTk f).coarse = s.coarse := rfl
@[simp] theorem updTk_vault (f : Tk → Tk) : (s.updTk f).vault = s.vault := rfl
@[simp] theorem updTk_reserve (f : Tk → Tk) : (s.updTk f).reserve = s.reserve := rfl
@[simp] theorem updTk_log (f : Tk → Tk) : (s.updTk f).log = s.log := rfl
@[simp] theorem updTk_vx (f : Tk → Tk) : (s.updTk f).vx = s.vx := rfl
@[simp] theorem updTk_clerks (f : Tk → Tk) : (s.updTk f).clerks = s.clerks := rfl
@[simp] theorem updTk_dma (f : Tk → Tk) : (s.updTk f).dma = s.dma := rfl
@[simp] theorem updTk_matrix (f : Tk → Tk) : (s.updTk f).matrix = s.matrix := rfl
@[simp] theorem updTk_tk (f : Tk → Tk) : (s.updTk f).tk = f s.tk := rfl
@[simp] theorem updTk_health (f : Tk → Tk) : (s.updTk f).health = s.health := rfl
@[simp] theorem updTk_pending (f : Tk → Tk) : (s.updTk f).pending = s.pending := rfl
@[simp] theorem updTk_out (f : Tk → Tk) : (s.updTk f).out = s.out := rfl
@[simp] theorem updTk_freeCtr (f : Tk → Tk) : (s.updTk f).freeCtr = s.freeCtr := rfl

/-! ### updTeller -/

@[simp] theorem updTeller_fuse (f : Teller → Teller) : (s.updTeller f).fuse = s.fuse := rfl
@[simp] theorem updTeller_boot (f : Teller → Teller) : (s.updTeller f).boot = s.boot := rfl
@[simp] theorem updTeller_pins (f : Teller → Teller) : (s.updTeller f).pins = s.pins := rfl
@[simp] theorem updTeller_jtag (f : Teller → Teller) : (s.updTeller f).jtag = s.jtag := rfl
@[simp] theorem updTeller_ledger (f : Teller → Teller) : (s.updTeller f).ledger = s.ledger := rfl
@[simp] theorem updTeller_ring (f : Teller → Teller) : (s.updTeller f).ring = s.ring := rfl
@[simp] theorem updTeller_host (f : Teller → Teller) : (s.updTeller f).host = s.host := rfl
@[simp] theorem updTeller_spi (f : Teller → Teller) : (s.updTeller f).spi = s.spi := rfl
@[simp] theorem updTeller_teller (f : Teller → Teller) : (s.updTeller f).teller = f s.teller := rfl
@[simp] theorem updTeller_handles (f : Teller → Teller) : (s.updTeller f).handles = s.handles := rfl
@[simp] theorem updTeller_service (f : Teller → Teller) : (s.updTeller f).service = s.service := rfl
@[simp] theorem updTeller_octets (f : Teller → Teller) : (s.updTeller f).octets = s.octets := rfl
@[simp] theorem updTeller_lanes (f : Teller → Teller) : (s.updTeller f).lanes = s.lanes := rfl
@[simp] theorem updTeller_links (f : Teller → Teller) : (s.updTeller f).links = s.links := rfl
@[simp] theorem updTeller_laneHeld (f : Teller → Teller) : (s.updTeller f).laneHeld = s.laneHeld := rfl
@[simp] theorem updTeller_egress (f : Teller → Teller) : (s.updTeller f).egress = s.egress := rfl
@[simp] theorem updTeller_ports (f : Teller → Teller) : (s.updTeller f).ports = s.ports := rfl
@[simp] theorem updTeller_plane (f : Teller → Teller) : (s.updTeller f).plane = s.plane := rfl
@[simp] theorem updTeller_fe (f : Teller → Teller) : (s.updTeller f).fe = s.fe := rfl
@[simp] theorem updTeller_xa (f : Teller → Teller) : (s.updTeller f).xa = s.xa := rfl
@[simp] theorem updTeller_coarse (f : Teller → Teller) : (s.updTeller f).coarse = s.coarse := rfl
@[simp] theorem updTeller_vault (f : Teller → Teller) : (s.updTeller f).vault = s.vault := rfl
@[simp] theorem updTeller_reserve (f : Teller → Teller) : (s.updTeller f).reserve = s.reserve := rfl
@[simp] theorem updTeller_log (f : Teller → Teller) : (s.updTeller f).log = s.log := rfl
@[simp] theorem updTeller_vx (f : Teller → Teller) : (s.updTeller f).vx = s.vx := rfl
@[simp] theorem updTeller_clerks (f : Teller → Teller) : (s.updTeller f).clerks = s.clerks := rfl
@[simp] theorem updTeller_dma (f : Teller → Teller) : (s.updTeller f).dma = s.dma := rfl
@[simp] theorem updTeller_matrix (f : Teller → Teller) : (s.updTeller f).matrix = s.matrix := rfl
@[simp] theorem updTeller_tk (f : Teller → Teller) : (s.updTeller f).tk = s.tk := rfl
@[simp] theorem updTeller_health (f : Teller → Teller) : (s.updTeller f).health = s.health := rfl
@[simp] theorem updTeller_pending (f : Teller → Teller) : (s.updTeller f).pending = s.pending := rfl
@[simp] theorem updTeller_out (f : Teller → Teller) : (s.updTeller f).out = s.out := rfl
@[simp] theorem updTeller_freeCtr (f : Teller → Teller) : (s.updTeller f).freeCtr = s.freeCtr := rfl

/-! ### updLane -/

@[simp] theorem updLane_fuse (i : Nat) (f : Lane → Lane) : (s.updLane i f).fuse = s.fuse := rfl
@[simp] theorem updLane_boot (i : Nat) (f : Lane → Lane) : (s.updLane i f).boot = s.boot := rfl
@[simp] theorem updLane_pins (i : Nat) (f : Lane → Lane) : (s.updLane i f).pins = s.pins := rfl
@[simp] theorem updLane_jtag (i : Nat) (f : Lane → Lane) : (s.updLane i f).jtag = s.jtag := rfl
@[simp] theorem updLane_ledger (i : Nat) (f : Lane → Lane) : (s.updLane i f).ledger = s.ledger := rfl
@[simp] theorem updLane_ring (i : Nat) (f : Lane → Lane) : (s.updLane i f).ring = s.ring := rfl
@[simp] theorem updLane_host (i : Nat) (f : Lane → Lane) : (s.updLane i f).host = s.host := rfl
@[simp] theorem updLane_spi (i : Nat) (f : Lane → Lane) : (s.updLane i f).spi = s.spi := rfl
@[simp] theorem updLane_teller (i : Nat) (f : Lane → Lane) : (s.updLane i f).teller = s.teller := rfl
@[simp] theorem updLane_handles (i : Nat) (f : Lane → Lane) : (s.updLane i f).handles = s.handles := rfl
@[simp] theorem updLane_service (i : Nat) (f : Lane → Lane) : (s.updLane i f).service = s.service := rfl
@[simp] theorem updLane_octets (i : Nat) (f : Lane → Lane) : (s.updLane i f).octets = s.octets := rfl
@[simp] theorem updLane_lanes (i : Nat) (f : Lane → Lane) : (s.updLane i f).lanes = s.lanes.modify i f := rfl
@[simp] theorem updLane_links (i : Nat) (f : Lane → Lane) : (s.updLane i f).links = s.links := rfl
@[simp] theorem updLane_laneHeld (i : Nat) (f : Lane → Lane) : (s.updLane i f).laneHeld = s.laneHeld := rfl
@[simp] theorem updLane_egress (i : Nat) (f : Lane → Lane) : (s.updLane i f).egress = s.egress := rfl
@[simp] theorem updLane_ports (i : Nat) (f : Lane → Lane) : (s.updLane i f).ports = s.ports := rfl
@[simp] theorem updLane_plane (i : Nat) (f : Lane → Lane) : (s.updLane i f).plane = s.plane := rfl
@[simp] theorem updLane_fe (i : Nat) (f : Lane → Lane) : (s.updLane i f).fe = s.fe := rfl
@[simp] theorem updLane_xa (i : Nat) (f : Lane → Lane) : (s.updLane i f).xa = s.xa := rfl
@[simp] theorem updLane_coarse (i : Nat) (f : Lane → Lane) : (s.updLane i f).coarse = s.coarse := rfl
@[simp] theorem updLane_vault (i : Nat) (f : Lane → Lane) : (s.updLane i f).vault = s.vault := rfl
@[simp] theorem updLane_reserve (i : Nat) (f : Lane → Lane) : (s.updLane i f).reserve = s.reserve := rfl
@[simp] theorem updLane_log (i : Nat) (f : Lane → Lane) : (s.updLane i f).log = s.log := rfl
@[simp] theorem updLane_vx (i : Nat) (f : Lane → Lane) : (s.updLane i f).vx = s.vx := rfl
@[simp] theorem updLane_clerks (i : Nat) (f : Lane → Lane) : (s.updLane i f).clerks = s.clerks := rfl
@[simp] theorem updLane_dma (i : Nat) (f : Lane → Lane) : (s.updLane i f).dma = s.dma := rfl
@[simp] theorem updLane_matrix (i : Nat) (f : Lane → Lane) : (s.updLane i f).matrix = s.matrix := rfl
@[simp] theorem updLane_tk (i : Nat) (f : Lane → Lane) : (s.updLane i f).tk = s.tk := rfl
@[simp] theorem updLane_health (i : Nat) (f : Lane → Lane) : (s.updLane i f).health = s.health := rfl
@[simp] theorem updLane_pending (i : Nat) (f : Lane → Lane) : (s.updLane i f).pending = s.pending := rfl
@[simp] theorem updLane_out (i : Nat) (f : Lane → Lane) : (s.updLane i f).out = s.out := rfl
@[simp] theorem updLane_freeCtr (i : Nat) (f : Lane → Lane) : (s.updLane i f).freeCtr = s.freeCtr := rfl

/-! ### updOctet -/

@[simp] theorem updOctet_fuse (i : Nat) (f : Octet → Octet) : (s.updOctet i f).fuse = s.fuse := rfl
@[simp] theorem updOctet_boot (i : Nat) (f : Octet → Octet) : (s.updOctet i f).boot = s.boot := rfl
@[simp] theorem updOctet_pins (i : Nat) (f : Octet → Octet) : (s.updOctet i f).pins = s.pins := rfl
@[simp] theorem updOctet_jtag (i : Nat) (f : Octet → Octet) : (s.updOctet i f).jtag = s.jtag := rfl
@[simp] theorem updOctet_ledger (i : Nat) (f : Octet → Octet) : (s.updOctet i f).ledger = s.ledger := rfl
@[simp] theorem updOctet_ring (i : Nat) (f : Octet → Octet) : (s.updOctet i f).ring = s.ring := rfl
@[simp] theorem updOctet_host (i : Nat) (f : Octet → Octet) : (s.updOctet i f).host = s.host := rfl
@[simp] theorem updOctet_spi (i : Nat) (f : Octet → Octet) : (s.updOctet i f).spi = s.spi := rfl
@[simp] theorem updOctet_teller (i : Nat) (f : Octet → Octet) : (s.updOctet i f).teller = s.teller := rfl
@[simp] theorem updOctet_handles (i : Nat) (f : Octet → Octet) : (s.updOctet i f).handles = s.handles := rfl
@[simp] theorem updOctet_service (i : Nat) (f : Octet → Octet) : (s.updOctet i f).service = s.service := rfl
@[simp] theorem updOctet_octets (i : Nat) (f : Octet → Octet) : (s.updOctet i f).octets = s.octets.modify i f := rfl
@[simp] theorem updOctet_lanes (i : Nat) (f : Octet → Octet) : (s.updOctet i f).lanes = s.lanes := rfl
@[simp] theorem updOctet_links (i : Nat) (f : Octet → Octet) : (s.updOctet i f).links = s.links := rfl
@[simp] theorem updOctet_laneHeld (i : Nat) (f : Octet → Octet) : (s.updOctet i f).laneHeld = s.laneHeld := rfl
@[simp] theorem updOctet_egress (i : Nat) (f : Octet → Octet) : (s.updOctet i f).egress = s.egress := rfl
@[simp] theorem updOctet_ports (i : Nat) (f : Octet → Octet) : (s.updOctet i f).ports = s.ports := rfl
@[simp] theorem updOctet_plane (i : Nat) (f : Octet → Octet) : (s.updOctet i f).plane = s.plane := rfl
@[simp] theorem updOctet_fe (i : Nat) (f : Octet → Octet) : (s.updOctet i f).fe = s.fe := rfl
@[simp] theorem updOctet_xa (i : Nat) (f : Octet → Octet) : (s.updOctet i f).xa = s.xa := rfl
@[simp] theorem updOctet_coarse (i : Nat) (f : Octet → Octet) : (s.updOctet i f).coarse = s.coarse := rfl
@[simp] theorem updOctet_vault (i : Nat) (f : Octet → Octet) : (s.updOctet i f).vault = s.vault := rfl
@[simp] theorem updOctet_reserve (i : Nat) (f : Octet → Octet) : (s.updOctet i f).reserve = s.reserve := rfl
@[simp] theorem updOctet_log (i : Nat) (f : Octet → Octet) : (s.updOctet i f).log = s.log := rfl
@[simp] theorem updOctet_vx (i : Nat) (f : Octet → Octet) : (s.updOctet i f).vx = s.vx := rfl
@[simp] theorem updOctet_clerks (i : Nat) (f : Octet → Octet) : (s.updOctet i f).clerks = s.clerks := rfl
@[simp] theorem updOctet_dma (i : Nat) (f : Octet → Octet) : (s.updOctet i f).dma = s.dma := rfl
@[simp] theorem updOctet_matrix (i : Nat) (f : Octet → Octet) : (s.updOctet i f).matrix = s.matrix := rfl
@[simp] theorem updOctet_tk (i : Nat) (f : Octet → Octet) : (s.updOctet i f).tk = s.tk := rfl
@[simp] theorem updOctet_health (i : Nat) (f : Octet → Octet) : (s.updOctet i f).health = s.health := rfl
@[simp] theorem updOctet_pending (i : Nat) (f : Octet → Octet) : (s.updOctet i f).pending = s.pending := rfl
@[simp] theorem updOctet_out (i : Nat) (f : Octet → Octet) : (s.updOctet i f).out = s.out := rfl
@[simp] theorem updOctet_freeCtr (i : Nat) (f : Octet → Octet) : (s.updOctet i f).freeCtr = s.freeCtr := rfl

/-! ### updPort -/

@[simp] theorem updPort_fuse (i : Nat) (f : Port → Port) : (s.updPort i f).fuse = s.fuse := rfl
@[simp] theorem updPort_boot (i : Nat) (f : Port → Port) : (s.updPort i f).boot = s.boot := rfl
@[simp] theorem updPort_pins (i : Nat) (f : Port → Port) : (s.updPort i f).pins = s.pins := rfl
@[simp] theorem updPort_jtag (i : Nat) (f : Port → Port) : (s.updPort i f).jtag = s.jtag := rfl
@[simp] theorem updPort_ledger (i : Nat) (f : Port → Port) : (s.updPort i f).ledger = s.ledger := rfl
@[simp] theorem updPort_ring (i : Nat) (f : Port → Port) : (s.updPort i f).ring = s.ring := rfl
@[simp] theorem updPort_host (i : Nat) (f : Port → Port) : (s.updPort i f).host = s.host := rfl
@[simp] theorem updPort_spi (i : Nat) (f : Port → Port) : (s.updPort i f).spi = s.spi := rfl
@[simp] theorem updPort_teller (i : Nat) (f : Port → Port) : (s.updPort i f).teller = s.teller := rfl
@[simp] theorem updPort_handles (i : Nat) (f : Port → Port) : (s.updPort i f).handles = s.handles := rfl
@[simp] theorem updPort_service (i : Nat) (f : Port → Port) : (s.updPort i f).service = s.service := rfl
@[simp] theorem updPort_octets (i : Nat) (f : Port → Port) : (s.updPort i f).octets = s.octets := rfl
@[simp] theorem updPort_lanes (i : Nat) (f : Port → Port) : (s.updPort i f).lanes = s.lanes := rfl
@[simp] theorem updPort_links (i : Nat) (f : Port → Port) : (s.updPort i f).links = s.links := rfl
@[simp] theorem updPort_laneHeld (i : Nat) (f : Port → Port) : (s.updPort i f).laneHeld = s.laneHeld := rfl
@[simp] theorem updPort_egress (i : Nat) (f : Port → Port) : (s.updPort i f).egress = s.egress := rfl
@[simp] theorem updPort_ports (i : Nat) (f : Port → Port) : (s.updPort i f).ports = s.ports.modify i f := rfl
@[simp] theorem updPort_plane (i : Nat) (f : Port → Port) : (s.updPort i f).plane = s.plane := rfl
@[simp] theorem updPort_fe (i : Nat) (f : Port → Port) : (s.updPort i f).fe = s.fe := rfl
@[simp] theorem updPort_xa (i : Nat) (f : Port → Port) : (s.updPort i f).xa = s.xa := rfl
@[simp] theorem updPort_coarse (i : Nat) (f : Port → Port) : (s.updPort i f).coarse = s.coarse := rfl
@[simp] theorem updPort_vault (i : Nat) (f : Port → Port) : (s.updPort i f).vault = s.vault := rfl
@[simp] theorem updPort_reserve (i : Nat) (f : Port → Port) : (s.updPort i f).reserve = s.reserve := rfl
@[simp] theorem updPort_log (i : Nat) (f : Port → Port) : (s.updPort i f).log = s.log := rfl
@[simp] theorem updPort_vx (i : Nat) (f : Port → Port) : (s.updPort i f).vx = s.vx := rfl
@[simp] theorem updPort_clerks (i : Nat) (f : Port → Port) : (s.updPort i f).clerks = s.clerks := rfl
@[simp] theorem updPort_dma (i : Nat) (f : Port → Port) : (s.updPort i f).dma = s.dma := rfl
@[simp] theorem updPort_matrix (i : Nat) (f : Port → Port) : (s.updPort i f).matrix = s.matrix := rfl
@[simp] theorem updPort_tk (i : Nat) (f : Port → Port) : (s.updPort i f).tk = s.tk := rfl
@[simp] theorem updPort_health (i : Nat) (f : Port → Port) : (s.updPort i f).health = s.health := rfl
@[simp] theorem updPort_pending (i : Nat) (f : Port → Port) : (s.updPort i f).pending = s.pending := rfl
@[simp] theorem updPort_out (i : Nat) (f : Port → Port) : (s.updPort i f).out = s.out := rfl
@[simp] theorem updPort_freeCtr (i : Nat) (f : Port → Port) : (s.updPort i f).freeCtr = s.freeCtr := rfl

/-! ### updXa -/

@[simp] theorem updXa_fuse (f : XArray → XArray) : (s.updXa f).fuse = s.fuse := rfl
@[simp] theorem updXa_boot (f : XArray → XArray) : (s.updXa f).boot = s.boot := rfl
@[simp] theorem updXa_pins (f : XArray → XArray) : (s.updXa f).pins = s.pins := rfl
@[simp] theorem updXa_jtag (f : XArray → XArray) : (s.updXa f).jtag = s.jtag := rfl
@[simp] theorem updXa_ledger (f : XArray → XArray) : (s.updXa f).ledger = s.ledger := rfl
@[simp] theorem updXa_ring (f : XArray → XArray) : (s.updXa f).ring = s.ring := rfl
@[simp] theorem updXa_host (f : XArray → XArray) : (s.updXa f).host = s.host := rfl
@[simp] theorem updXa_spi (f : XArray → XArray) : (s.updXa f).spi = s.spi := rfl
@[simp] theorem updXa_teller (f : XArray → XArray) : (s.updXa f).teller = s.teller := rfl
@[simp] theorem updXa_handles (f : XArray → XArray) : (s.updXa f).handles = s.handles := rfl
@[simp] theorem updXa_service (f : XArray → XArray) : (s.updXa f).service = s.service := rfl
@[simp] theorem updXa_octets (f : XArray → XArray) : (s.updXa f).octets = s.octets := rfl
@[simp] theorem updXa_lanes (f : XArray → XArray) : (s.updXa f).lanes = s.lanes := rfl
@[simp] theorem updXa_links (f : XArray → XArray) : (s.updXa f).links = s.links := rfl
@[simp] theorem updXa_laneHeld (f : XArray → XArray) : (s.updXa f).laneHeld = s.laneHeld := rfl
@[simp] theorem updXa_egress (f : XArray → XArray) : (s.updXa f).egress = s.egress := rfl
@[simp] theorem updXa_ports (f : XArray → XArray) : (s.updXa f).ports = s.ports := rfl
@[simp] theorem updXa_plane (f : XArray → XArray) : (s.updXa f).plane = s.plane := rfl
@[simp] theorem updXa_fe (f : XArray → XArray) : (s.updXa f).fe = s.fe := rfl
@[simp] theorem updXa_xa (f : XArray → XArray) : (s.updXa f).xa = f s.xa := rfl
@[simp] theorem updXa_coarse (f : XArray → XArray) : (s.updXa f).coarse = s.coarse := rfl
@[simp] theorem updXa_vault (f : XArray → XArray) : (s.updXa f).vault = s.vault := rfl
@[simp] theorem updXa_reserve (f : XArray → XArray) : (s.updXa f).reserve = s.reserve := rfl
@[simp] theorem updXa_log (f : XArray → XArray) : (s.updXa f).log = s.log := rfl
@[simp] theorem updXa_vx (f : XArray → XArray) : (s.updXa f).vx = s.vx := rfl
@[simp] theorem updXa_clerks (f : XArray → XArray) : (s.updXa f).clerks = s.clerks := rfl
@[simp] theorem updXa_dma (f : XArray → XArray) : (s.updXa f).dma = s.dma := rfl
@[simp] theorem updXa_matrix (f : XArray → XArray) : (s.updXa f).matrix = s.matrix := rfl
@[simp] theorem updXa_tk (f : XArray → XArray) : (s.updXa f).tk = s.tk := rfl
@[simp] theorem updXa_health (f : XArray → XArray) : (s.updXa f).health = s.health := rfl
@[simp] theorem updXa_pending (f : XArray → XArray) : (s.updXa f).pending = s.pending := rfl
@[simp] theorem updXa_out (f : XArray → XArray) : (s.updXa f).out = s.out := rfl
@[simp] theorem updXa_freeCtr (f : XArray → XArray) : (s.updXa f).freeCtr = s.freeCtr := rfl

/-! ### updVault -/

@[simp] theorem updVault_fuse (f : Vault → Vault) : (s.updVault f).fuse = s.fuse := rfl
@[simp] theorem updVault_boot (f : Vault → Vault) : (s.updVault f).boot = s.boot := rfl
@[simp] theorem updVault_pins (f : Vault → Vault) : (s.updVault f).pins = s.pins := rfl
@[simp] theorem updVault_jtag (f : Vault → Vault) : (s.updVault f).jtag = s.jtag := rfl
@[simp] theorem updVault_ledger (f : Vault → Vault) : (s.updVault f).ledger = s.ledger := rfl
@[simp] theorem updVault_ring (f : Vault → Vault) : (s.updVault f).ring = s.ring := rfl
@[simp] theorem updVault_host (f : Vault → Vault) : (s.updVault f).host = s.host := rfl
@[simp] theorem updVault_spi (f : Vault → Vault) : (s.updVault f).spi = s.spi := rfl
@[simp] theorem updVault_teller (f : Vault → Vault) : (s.updVault f).teller = s.teller := rfl
@[simp] theorem updVault_handles (f : Vault → Vault) : (s.updVault f).handles = s.handles := rfl
@[simp] theorem updVault_service (f : Vault → Vault) : (s.updVault f).service = s.service := rfl
@[simp] theorem updVault_octets (f : Vault → Vault) : (s.updVault f).octets = s.octets := rfl
@[simp] theorem updVault_lanes (f : Vault → Vault) : (s.updVault f).lanes = s.lanes := rfl
@[simp] theorem updVault_links (f : Vault → Vault) : (s.updVault f).links = s.links := rfl
@[simp] theorem updVault_laneHeld (f : Vault → Vault) : (s.updVault f).laneHeld = s.laneHeld := rfl
@[simp] theorem updVault_egress (f : Vault → Vault) : (s.updVault f).egress = s.egress := rfl
@[simp] theorem updVault_ports (f : Vault → Vault) : (s.updVault f).ports = s.ports := rfl
@[simp] theorem updVault_plane (f : Vault → Vault) : (s.updVault f).plane = s.plane := rfl
@[simp] theorem updVault_fe (f : Vault → Vault) : (s.updVault f).fe = s.fe := rfl
@[simp] theorem updVault_xa (f : Vault → Vault) : (s.updVault f).xa = s.xa := rfl
@[simp] theorem updVault_coarse (f : Vault → Vault) : (s.updVault f).coarse = s.coarse := rfl
@[simp] theorem updVault_vault (f : Vault → Vault) : (s.updVault f).vault = f s.vault := rfl
@[simp] theorem updVault_reserve (f : Vault → Vault) : (s.updVault f).reserve = s.reserve := rfl
@[simp] theorem updVault_log (f : Vault → Vault) : (s.updVault f).log = s.log := rfl
@[simp] theorem updVault_vx (f : Vault → Vault) : (s.updVault f).vx = s.vx := rfl
@[simp] theorem updVault_clerks (f : Vault → Vault) : (s.updVault f).clerks = s.clerks := rfl
@[simp] theorem updVault_dma (f : Vault → Vault) : (s.updVault f).dma = s.dma := rfl
@[simp] theorem updVault_matrix (f : Vault → Vault) : (s.updVault f).matrix = s.matrix := rfl
@[simp] theorem updVault_tk (f : Vault → Vault) : (s.updVault f).tk = s.tk := rfl
@[simp] theorem updVault_health (f : Vault → Vault) : (s.updVault f).health = s.health := rfl
@[simp] theorem updVault_pending (f : Vault → Vault) : (s.updVault f).pending = s.pending := rfl
@[simp] theorem updVault_out (f : Vault → Vault) : (s.updVault f).out = s.out := rfl
@[simp] theorem updVault_freeCtr (f : Vault → Vault) : (s.updVault f).freeCtr = s.freeCtr := rfl

/-! ### updRes -/

@[simp] theorem updRes_fuse (f : Reserve → Reserve) : (s.updRes f).fuse = s.fuse := rfl
@[simp] theorem updRes_boot (f : Reserve → Reserve) : (s.updRes f).boot = s.boot := rfl
@[simp] theorem updRes_pins (f : Reserve → Reserve) : (s.updRes f).pins = s.pins := rfl
@[simp] theorem updRes_jtag (f : Reserve → Reserve) : (s.updRes f).jtag = s.jtag := rfl
@[simp] theorem updRes_ledger (f : Reserve → Reserve) : (s.updRes f).ledger = s.ledger := rfl
@[simp] theorem updRes_ring (f : Reserve → Reserve) : (s.updRes f).ring = s.ring := rfl
@[simp] theorem updRes_host (f : Reserve → Reserve) : (s.updRes f).host = s.host := rfl
@[simp] theorem updRes_spi (f : Reserve → Reserve) : (s.updRes f).spi = s.spi := rfl
@[simp] theorem updRes_teller (f : Reserve → Reserve) : (s.updRes f).teller = s.teller := rfl
@[simp] theorem updRes_handles (f : Reserve → Reserve) : (s.updRes f).handles = s.handles := rfl
@[simp] theorem updRes_service (f : Reserve → Reserve) : (s.updRes f).service = s.service := rfl
@[simp] theorem updRes_octets (f : Reserve → Reserve) : (s.updRes f).octets = s.octets := rfl
@[simp] theorem updRes_lanes (f : Reserve → Reserve) : (s.updRes f).lanes = s.lanes := rfl
@[simp] theorem updRes_links (f : Reserve → Reserve) : (s.updRes f).links = s.links := rfl
@[simp] theorem updRes_laneHeld (f : Reserve → Reserve) : (s.updRes f).laneHeld = s.laneHeld := rfl
@[simp] theorem updRes_egress (f : Reserve → Reserve) : (s.updRes f).egress = s.egress := rfl
@[simp] theorem updRes_ports (f : Reserve → Reserve) : (s.updRes f).ports = s.ports := rfl
@[simp] theorem updRes_plane (f : Reserve → Reserve) : (s.updRes f).plane = s.plane := rfl
@[simp] theorem updRes_fe (f : Reserve → Reserve) : (s.updRes f).fe = s.fe := rfl
@[simp] theorem updRes_xa (f : Reserve → Reserve) : (s.updRes f).xa = s.xa := rfl
@[simp] theorem updRes_coarse (f : Reserve → Reserve) : (s.updRes f).coarse = s.coarse := rfl
@[simp] theorem updRes_vault (f : Reserve → Reserve) : (s.updRes f).vault = s.vault := rfl
@[simp] theorem updRes_reserve (f : Reserve → Reserve) : (s.updRes f).reserve = f s.reserve := rfl
@[simp] theorem updRes_log (f : Reserve → Reserve) : (s.updRes f).log = s.log := rfl
@[simp] theorem updRes_vx (f : Reserve → Reserve) : (s.updRes f).vx = s.vx := rfl
@[simp] theorem updRes_clerks (f : Reserve → Reserve) : (s.updRes f).clerks = s.clerks := rfl
@[simp] theorem updRes_dma (f : Reserve → Reserve) : (s.updRes f).dma = s.dma := rfl
@[simp] theorem updRes_matrix (f : Reserve → Reserve) : (s.updRes f).matrix = s.matrix := rfl
@[simp] theorem updRes_tk (f : Reserve → Reserve) : (s.updRes f).tk = s.tk := rfl
@[simp] theorem updRes_health (f : Reserve → Reserve) : (s.updRes f).health = s.health := rfl
@[simp] theorem updRes_pending (f : Reserve → Reserve) : (s.updRes f).pending = s.pending := rfl
@[simp] theorem updRes_out (f : Reserve → Reserve) : (s.updRes f).out = s.out := rfl
@[simp] theorem updRes_freeCtr (f : Reserve → Reserve) : (s.updRes f).freeCtr = s.freeCtr := rfl

/-! ### updCh -/

@[simp] theorem updCh_fuse (i : Nat) (f : ResCh → ResCh) : (s.updCh i f).fuse = s.fuse := rfl
@[simp] theorem updCh_boot (i : Nat) (f : ResCh → ResCh) : (s.updCh i f).boot = s.boot := rfl
@[simp] theorem updCh_pins (i : Nat) (f : ResCh → ResCh) : (s.updCh i f).pins = s.pins := rfl
@[simp] theorem updCh_jtag (i : Nat) (f : ResCh → ResCh) : (s.updCh i f).jtag = s.jtag := rfl
@[simp] theorem updCh_ledger (i : Nat) (f : ResCh → ResCh) : (s.updCh i f).ledger = s.ledger := rfl
@[simp] theorem updCh_ring (i : Nat) (f : ResCh → ResCh) : (s.updCh i f).ring = s.ring := rfl
@[simp] theorem updCh_host (i : Nat) (f : ResCh → ResCh) : (s.updCh i f).host = s.host := rfl
@[simp] theorem updCh_spi (i : Nat) (f : ResCh → ResCh) : (s.updCh i f).spi = s.spi := rfl
@[simp] theorem updCh_teller (i : Nat) (f : ResCh → ResCh) : (s.updCh i f).teller = s.teller := rfl
@[simp] theorem updCh_handles (i : Nat) (f : ResCh → ResCh) : (s.updCh i f).handles = s.handles := rfl
@[simp] theorem updCh_service (i : Nat) (f : ResCh → ResCh) : (s.updCh i f).service = s.service := rfl
@[simp] theorem updCh_octets (i : Nat) (f : ResCh → ResCh) : (s.updCh i f).octets = s.octets := rfl
@[simp] theorem updCh_lanes (i : Nat) (f : ResCh → ResCh) : (s.updCh i f).lanes = s.lanes := rfl
@[simp] theorem updCh_links (i : Nat) (f : ResCh → ResCh) : (s.updCh i f).links = s.links := rfl
@[simp] theorem updCh_laneHeld (i : Nat) (f : ResCh → ResCh) : (s.updCh i f).laneHeld = s.laneHeld := rfl
@[simp] theorem updCh_egress (i : Nat) (f : ResCh → ResCh) : (s.updCh i f).egress = s.egress := rfl
@[simp] theorem updCh_ports (i : Nat) (f : ResCh → ResCh) : (s.updCh i f).ports = s.ports := rfl
@[simp] theorem updCh_plane (i : Nat) (f : ResCh → ResCh) : (s.updCh i f).plane = s.plane := rfl
@[simp] theorem updCh_fe (i : Nat) (f : ResCh → ResCh) : (s.updCh i f).fe = s.fe := rfl
@[simp] theorem updCh_xa (i : Nat) (f : ResCh → ResCh) : (s.updCh i f).xa = s.xa := rfl
@[simp] theorem updCh_coarse (i : Nat) (f : ResCh → ResCh) : (s.updCh i f).coarse = s.coarse := rfl
@[simp] theorem updCh_vault (i : Nat) (f : ResCh → ResCh) : (s.updCh i f).vault = s.vault := rfl
@[simp] theorem updCh_log (i : Nat) (f : ResCh → ResCh) : (s.updCh i f).log = s.log := rfl
@[simp] theorem updCh_vx (i : Nat) (f : ResCh → ResCh) : (s.updCh i f).vx = s.vx := rfl
@[simp] theorem updCh_clerks (i : Nat) (f : ResCh → ResCh) : (s.updCh i f).clerks = s.clerks := rfl
@[simp] theorem updCh_dma (i : Nat) (f : ResCh → ResCh) : (s.updCh i f).dma = s.dma := rfl
@[simp] theorem updCh_matrix (i : Nat) (f : ResCh → ResCh) : (s.updCh i f).matrix = s.matrix := rfl
@[simp] theorem updCh_tk (i : Nat) (f : ResCh → ResCh) : (s.updCh i f).tk = s.tk := rfl
@[simp] theorem updCh_health (i : Nat) (f : ResCh → ResCh) : (s.updCh i f).health = s.health := rfl
@[simp] theorem updCh_pending (i : Nat) (f : ResCh → ResCh) : (s.updCh i f).pending = s.pending := rfl
@[simp] theorem updCh_out (i : Nat) (f : ResCh → ResCh) : (s.updCh i f).out = s.out := rfl
@[simp] theorem updCh_freeCtr (i : Nat) (f : ResCh → ResCh) : (s.updCh i f).freeCtr = s.freeCtr := rfl

/-! ### updInput -/

@[simp] theorem updInput_fuse (i : Nat) (f : FeInput → FeInput) : (s.updInput i f).fuse = s.fuse := rfl
@[simp] theorem updInput_boot (i : Nat) (f : FeInput → FeInput) : (s.updInput i f).boot = s.boot := rfl
@[simp] theorem updInput_pins (i : Nat) (f : FeInput → FeInput) : (s.updInput i f).pins = s.pins := rfl
@[simp] theorem updInput_jtag (i : Nat) (f : FeInput → FeInput) : (s.updInput i f).jtag = s.jtag := rfl
@[simp] theorem updInput_ledger (i : Nat) (f : FeInput → FeInput) : (s.updInput i f).ledger = s.ledger := rfl
@[simp] theorem updInput_ring (i : Nat) (f : FeInput → FeInput) : (s.updInput i f).ring = s.ring := rfl
@[simp] theorem updInput_host (i : Nat) (f : FeInput → FeInput) : (s.updInput i f).host = s.host := rfl
@[simp] theorem updInput_spi (i : Nat) (f : FeInput → FeInput) : (s.updInput i f).spi = s.spi := rfl
@[simp] theorem updInput_teller (i : Nat) (f : FeInput → FeInput) : (s.updInput i f).teller = s.teller := rfl
@[simp] theorem updInput_handles (i : Nat) (f : FeInput → FeInput) : (s.updInput i f).handles = s.handles := rfl
@[simp] theorem updInput_service (i : Nat) (f : FeInput → FeInput) : (s.updInput i f).service = s.service := rfl
@[simp] theorem updInput_octets (i : Nat) (f : FeInput → FeInput) : (s.updInput i f).octets = s.octets := rfl
@[simp] theorem updInput_lanes (i : Nat) (f : FeInput → FeInput) : (s.updInput i f).lanes = s.lanes := rfl
@[simp] theorem updInput_links (i : Nat) (f : FeInput → FeInput) : (s.updInput i f).links = s.links := rfl
@[simp] theorem updInput_laneHeld (i : Nat) (f : FeInput → FeInput) : (s.updInput i f).laneHeld = s.laneHeld := rfl
@[simp] theorem updInput_egress (i : Nat) (f : FeInput → FeInput) : (s.updInput i f).egress = s.egress := rfl
@[simp] theorem updInput_ports (i : Nat) (f : FeInput → FeInput) : (s.updInput i f).ports = s.ports := rfl
@[simp] theorem updInput_plane (i : Nat) (f : FeInput → FeInput) : (s.updInput i f).plane = s.plane := rfl
@[simp] theorem updInput_xa (i : Nat) (f : FeInput → FeInput) : (s.updInput i f).xa = s.xa := rfl
@[simp] theorem updInput_coarse (i : Nat) (f : FeInput → FeInput) : (s.updInput i f).coarse = s.coarse := rfl
@[simp] theorem updInput_vault (i : Nat) (f : FeInput → FeInput) : (s.updInput i f).vault = s.vault := rfl
@[simp] theorem updInput_reserve (i : Nat) (f : FeInput → FeInput) : (s.updInput i f).reserve = s.reserve := rfl
@[simp] theorem updInput_log (i : Nat) (f : FeInput → FeInput) : (s.updInput i f).log = s.log := rfl
@[simp] theorem updInput_vx (i : Nat) (f : FeInput → FeInput) : (s.updInput i f).vx = s.vx := rfl
@[simp] theorem updInput_clerks (i : Nat) (f : FeInput → FeInput) : (s.updInput i f).clerks = s.clerks := rfl
@[simp] theorem updInput_dma (i : Nat) (f : FeInput → FeInput) : (s.updInput i f).dma = s.dma := rfl
@[simp] theorem updInput_matrix (i : Nat) (f : FeInput → FeInput) : (s.updInput i f).matrix = s.matrix := rfl
@[simp] theorem updInput_tk (i : Nat) (f : FeInput → FeInput) : (s.updInput i f).tk = s.tk := rfl
@[simp] theorem updInput_health (i : Nat) (f : FeInput → FeInput) : (s.updInput i f).health = s.health := rfl
@[simp] theorem updInput_pending (i : Nat) (f : FeInput → FeInput) : (s.updInput i f).pending = s.pending := rfl
@[simp] theorem updInput_out (i : Nat) (f : FeInput → FeInput) : (s.updInput i f).out = s.out := rfl
@[simp] theorem updInput_freeCtr (i : Nat) (f : FeInput → FeInput) : (s.updInput i f).freeCtr = s.freeCtr := rfl

/-! ### updDma -/

@[simp] theorem updDma_fuse (i : Nat) (f : DmaCh → DmaCh) : (s.updDma i f).fuse = s.fuse := rfl
@[simp] theorem updDma_boot (i : Nat) (f : DmaCh → DmaCh) : (s.updDma i f).boot = s.boot := rfl
@[simp] theorem updDma_pins (i : Nat) (f : DmaCh → DmaCh) : (s.updDma i f).pins = s.pins := rfl
@[simp] theorem updDma_jtag (i : Nat) (f : DmaCh → DmaCh) : (s.updDma i f).jtag = s.jtag := rfl
@[simp] theorem updDma_ledger (i : Nat) (f : DmaCh → DmaCh) : (s.updDma i f).ledger = s.ledger := rfl
@[simp] theorem updDma_ring (i : Nat) (f : DmaCh → DmaCh) : (s.updDma i f).ring = s.ring := rfl
@[simp] theorem updDma_host (i : Nat) (f : DmaCh → DmaCh) : (s.updDma i f).host = s.host := rfl
@[simp] theorem updDma_spi (i : Nat) (f : DmaCh → DmaCh) : (s.updDma i f).spi = s.spi := rfl
@[simp] theorem updDma_teller (i : Nat) (f : DmaCh → DmaCh) : (s.updDma i f).teller = s.teller := rfl
@[simp] theorem updDma_handles (i : Nat) (f : DmaCh → DmaCh) : (s.updDma i f).handles = s.handles := rfl
@[simp] theorem updDma_service (i : Nat) (f : DmaCh → DmaCh) : (s.updDma i f).service = s.service := rfl
@[simp] theorem updDma_octets (i : Nat) (f : DmaCh → DmaCh) : (s.updDma i f).octets = s.octets := rfl
@[simp] theorem updDma_lanes (i : Nat) (f : DmaCh → DmaCh) : (s.updDma i f).lanes = s.lanes := rfl
@[simp] theorem updDma_links (i : Nat) (f : DmaCh → DmaCh) : (s.updDma i f).links = s.links := rfl
@[simp] theorem updDma_laneHeld (i : Nat) (f : DmaCh → DmaCh) : (s.updDma i f).laneHeld = s.laneHeld := rfl
@[simp] theorem updDma_egress (i : Nat) (f : DmaCh → DmaCh) : (s.updDma i f).egress = s.egress := rfl
@[simp] theorem updDma_ports (i : Nat) (f : DmaCh → DmaCh) : (s.updDma i f).ports = s.ports := rfl
@[simp] theorem updDma_plane (i : Nat) (f : DmaCh → DmaCh) : (s.updDma i f).plane = s.plane := rfl
@[simp] theorem updDma_fe (i : Nat) (f : DmaCh → DmaCh) : (s.updDma i f).fe = s.fe := rfl
@[simp] theorem updDma_xa (i : Nat) (f : DmaCh → DmaCh) : (s.updDma i f).xa = s.xa := rfl
@[simp] theorem updDma_coarse (i : Nat) (f : DmaCh → DmaCh) : (s.updDma i f).coarse = s.coarse := rfl
@[simp] theorem updDma_vault (i : Nat) (f : DmaCh → DmaCh) : (s.updDma i f).vault = s.vault := rfl
@[simp] theorem updDma_reserve (i : Nat) (f : DmaCh → DmaCh) : (s.updDma i f).reserve = s.reserve := rfl
@[simp] theorem updDma_log (i : Nat) (f : DmaCh → DmaCh) : (s.updDma i f).log = s.log := rfl
@[simp] theorem updDma_vx (i : Nat) (f : DmaCh → DmaCh) : (s.updDma i f).vx = s.vx := rfl
@[simp] theorem updDma_clerks (i : Nat) (f : DmaCh → DmaCh) : (s.updDma i f).clerks = s.clerks := rfl
@[simp] theorem updDma_dma (i : Nat) (f : DmaCh → DmaCh) : (s.updDma i f).dma = s.dma.modify i f := rfl
@[simp] theorem updDma_matrix (i : Nat) (f : DmaCh → DmaCh) : (s.updDma i f).matrix = s.matrix := rfl
@[simp] theorem updDma_tk (i : Nat) (f : DmaCh → DmaCh) : (s.updDma i f).tk = s.tk := rfl
@[simp] theorem updDma_health (i : Nat) (f : DmaCh → DmaCh) : (s.updDma i f).health = s.health := rfl
@[simp] theorem updDma_pending (i : Nat) (f : DmaCh → DmaCh) : (s.updDma i f).pending = s.pending := rfl
@[simp] theorem updDma_out (i : Nat) (f : DmaCh → DmaCh) : (s.updDma i f).out = s.out := rfl
@[simp] theorem updDma_freeCtr (i : Nat) (f : DmaCh → DmaCh) : (s.updDma i f).freeCtr = s.freeCtr := rfl

/-! ### updClerk -/

@[simp] theorem updClerk_fuse (i : Nat) (f : Clerk → Clerk) : (s.updClerk i f).fuse = s.fuse := rfl
@[simp] theorem updClerk_boot (i : Nat) (f : Clerk → Clerk) : (s.updClerk i f).boot = s.boot := rfl
@[simp] theorem updClerk_pins (i : Nat) (f : Clerk → Clerk) : (s.updClerk i f).pins = s.pins := rfl
@[simp] theorem updClerk_jtag (i : Nat) (f : Clerk → Clerk) : (s.updClerk i f).jtag = s.jtag := rfl
@[simp] theorem updClerk_ledger (i : Nat) (f : Clerk → Clerk) : (s.updClerk i f).ledger = s.ledger := rfl
@[simp] theorem updClerk_ring (i : Nat) (f : Clerk → Clerk) : (s.updClerk i f).ring = s.ring := rfl
@[simp] theorem updClerk_host (i : Nat) (f : Clerk → Clerk) : (s.updClerk i f).host = s.host := rfl
@[simp] theorem updClerk_spi (i : Nat) (f : Clerk → Clerk) : (s.updClerk i f).spi = s.spi := rfl
@[simp] theorem updClerk_teller (i : Nat) (f : Clerk → Clerk) : (s.updClerk i f).teller = s.teller := rfl
@[simp] theorem updClerk_handles (i : Nat) (f : Clerk → Clerk) : (s.updClerk i f).handles = s.handles := rfl
@[simp] theorem updClerk_service (i : Nat) (f : Clerk → Clerk) : (s.updClerk i f).service = s.service := rfl
@[simp] theorem updClerk_octets (i : Nat) (f : Clerk → Clerk) : (s.updClerk i f).octets = s.octets := rfl
@[simp] theorem updClerk_lanes (i : Nat) (f : Clerk → Clerk) : (s.updClerk i f).lanes = s.lanes := rfl
@[simp] theorem updClerk_links (i : Nat) (f : Clerk → Clerk) : (s.updClerk i f).links = s.links := rfl
@[simp] theorem updClerk_laneHeld (i : Nat) (f : Clerk → Clerk) : (s.updClerk i f).laneHeld = s.laneHeld := rfl
@[simp] theorem updClerk_egress (i : Nat) (f : Clerk → Clerk) : (s.updClerk i f).egress = s.egress := rfl
@[simp] theorem updClerk_ports (i : Nat) (f : Clerk → Clerk) : (s.updClerk i f).ports = s.ports := rfl
@[simp] theorem updClerk_plane (i : Nat) (f : Clerk → Clerk) : (s.updClerk i f).plane = s.plane := rfl
@[simp] theorem updClerk_fe (i : Nat) (f : Clerk → Clerk) : (s.updClerk i f).fe = s.fe := rfl
@[simp] theorem updClerk_xa (i : Nat) (f : Clerk → Clerk) : (s.updClerk i f).xa = s.xa := rfl
@[simp] theorem updClerk_coarse (i : Nat) (f : Clerk → Clerk) : (s.updClerk i f).coarse = s.coarse := rfl
@[simp] theorem updClerk_vault (i : Nat) (f : Clerk → Clerk) : (s.updClerk i f).vault = s.vault := rfl
@[simp] theorem updClerk_reserve (i : Nat) (f : Clerk → Clerk) : (s.updClerk i f).reserve = s.reserve := rfl
@[simp] theorem updClerk_log (i : Nat) (f : Clerk → Clerk) : (s.updClerk i f).log = s.log := rfl
@[simp] theorem updClerk_vx (i : Nat) (f : Clerk → Clerk) : (s.updClerk i f).vx = s.vx := rfl
@[simp] theorem updClerk_clerks (i : Nat) (f : Clerk → Clerk) : (s.updClerk i f).clerks = s.clerks.modify i f := rfl
@[simp] theorem updClerk_dma (i : Nat) (f : Clerk → Clerk) : (s.updClerk i f).dma = s.dma := rfl
@[simp] theorem updClerk_matrix (i : Nat) (f : Clerk → Clerk) : (s.updClerk i f).matrix = s.matrix := rfl
@[simp] theorem updClerk_tk (i : Nat) (f : Clerk → Clerk) : (s.updClerk i f).tk = s.tk := rfl
@[simp] theorem updClerk_health (i : Nat) (f : Clerk → Clerk) : (s.updClerk i f).health = s.health := rfl
@[simp] theorem updClerk_pending (i : Nat) (f : Clerk → Clerk) : (s.updClerk i f).pending = s.pending := rfl
@[simp] theorem updClerk_out (i : Nat) (f : Clerk → Clerk) : (s.updClerk i f).out = s.out := rfl
@[simp] theorem updClerk_freeCtr (i : Nat) (f : Clerk → Clerk) : (s.updClerk i f).freeCtr = s.freeCtr := rfl

/-! ### updUsable -/

@[simp] theorem updUsable_fuse (f : Usable → Usable) : (s.updUsable f).fuse = s.fuse := rfl
@[simp] theorem updUsable_boot (f : Usable → Usable) : (s.updUsable f).boot = s.boot := rfl
@[simp] theorem updUsable_pins (f : Usable → Usable) : (s.updUsable f).pins = s.pins := rfl
@[simp] theorem updUsable_jtag (f : Usable → Usable) : (s.updUsable f).jtag = s.jtag := rfl
@[simp] theorem updUsable_ring (f : Usable → Usable) : (s.updUsable f).ring = s.ring := rfl
@[simp] theorem updUsable_host (f : Usable → Usable) : (s.updUsable f).host = s.host := rfl
@[simp] theorem updUsable_spi (f : Usable → Usable) : (s.updUsable f).spi = s.spi := rfl
@[simp] theorem updUsable_teller (f : Usable → Usable) : (s.updUsable f).teller = s.teller := rfl
@[simp] theorem updUsable_handles (f : Usable → Usable) : (s.updUsable f).handles = s.handles := rfl
@[simp] theorem updUsable_service (f : Usable → Usable) : (s.updUsable f).service = s.service := rfl
@[simp] theorem updUsable_octets (f : Usable → Usable) : (s.updUsable f).octets = s.octets := rfl
@[simp] theorem updUsable_lanes (f : Usable → Usable) : (s.updUsable f).lanes = s.lanes := rfl
@[simp] theorem updUsable_links (f : Usable → Usable) : (s.updUsable f).links = s.links := rfl
@[simp] theorem updUsable_laneHeld (f : Usable → Usable) : (s.updUsable f).laneHeld = s.laneHeld := rfl
@[simp] theorem updUsable_egress (f : Usable → Usable) : (s.updUsable f).egress = s.egress := rfl
@[simp] theorem updUsable_ports (f : Usable → Usable) : (s.updUsable f).ports = s.ports := rfl
@[simp] theorem updUsable_plane (f : Usable → Usable) : (s.updUsable f).plane = s.plane := rfl
@[simp] theorem updUsable_fe (f : Usable → Usable) : (s.updUsable f).fe = s.fe := rfl
@[simp] theorem updUsable_xa (f : Usable → Usable) : (s.updUsable f).xa = s.xa := rfl
@[simp] theorem updUsable_coarse (f : Usable → Usable) : (s.updUsable f).coarse = s.coarse := rfl
@[simp] theorem updUsable_vault (f : Usable → Usable) : (s.updUsable f).vault = s.vault := rfl
@[simp] theorem updUsable_reserve (f : Usable → Usable) : (s.updUsable f).reserve = s.reserve := rfl
@[simp] theorem updUsable_log (f : Usable → Usable) : (s.updUsable f).log = s.log := rfl
@[simp] theorem updUsable_vx (f : Usable → Usable) : (s.updUsable f).vx = s.vx := rfl
@[simp] theorem updUsable_clerks (f : Usable → Usable) : (s.updUsable f).clerks = s.clerks := rfl
@[simp] theorem updUsable_dma (f : Usable → Usable) : (s.updUsable f).dma = s.dma := rfl
@[simp] theorem updUsable_matrix (f : Usable → Usable) : (s.updUsable f).matrix = s.matrix := rfl
@[simp] theorem updUsable_tk (f : Usable → Usable) : (s.updUsable f).tk = s.tk := rfl
@[simp] theorem updUsable_health (f : Usable → Usable) : (s.updUsable f).health = s.health := rfl
@[simp] theorem updUsable_pending (f : Usable → Usable) : (s.updUsable f).pending = s.pending := rfl
@[simp] theorem updUsable_out (f : Usable → Usable) : (s.updUsable f).out = s.out := rfl
@[simp] theorem updUsable_freeCtr (f : Usable → Usable) : (s.updUsable f).freeCtr = s.freeCtr := rfl

/-! ### updKey -/

@[simp] theorem updKey_fuse (i : Nat) (f : KeySlot → KeySlot) : (s.updKey i f).fuse = s.fuse := rfl
@[simp] theorem updKey_boot (i : Nat) (f : KeySlot → KeySlot) : (s.updKey i f).boot = s.boot := rfl
@[simp] theorem updKey_pins (i : Nat) (f : KeySlot → KeySlot) : (s.updKey i f).pins = s.pins := rfl
@[simp] theorem updKey_jtag (i : Nat) (f : KeySlot → KeySlot) : (s.updKey i f).jtag = s.jtag := rfl
@[simp] theorem updKey_ring (i : Nat) (f : KeySlot → KeySlot) : (s.updKey i f).ring = s.ring := rfl
@[simp] theorem updKey_host (i : Nat) (f : KeySlot → KeySlot) : (s.updKey i f).host = s.host := rfl
@[simp] theorem updKey_spi (i : Nat) (f : KeySlot → KeySlot) : (s.updKey i f).spi = s.spi := rfl
@[simp] theorem updKey_teller (i : Nat) (f : KeySlot → KeySlot) : (s.updKey i f).teller = s.teller := rfl
@[simp] theorem updKey_handles (i : Nat) (f : KeySlot → KeySlot) : (s.updKey i f).handles = s.handles := rfl
@[simp] theorem updKey_service (i : Nat) (f : KeySlot → KeySlot) : (s.updKey i f).service = s.service := rfl
@[simp] theorem updKey_octets (i : Nat) (f : KeySlot → KeySlot) : (s.updKey i f).octets = s.octets := rfl
@[simp] theorem updKey_lanes (i : Nat) (f : KeySlot → KeySlot) : (s.updKey i f).lanes = s.lanes := rfl
@[simp] theorem updKey_links (i : Nat) (f : KeySlot → KeySlot) : (s.updKey i f).links = s.links := rfl
@[simp] theorem updKey_laneHeld (i : Nat) (f : KeySlot → KeySlot) : (s.updKey i f).laneHeld = s.laneHeld := rfl
@[simp] theorem updKey_egress (i : Nat) (f : KeySlot → KeySlot) : (s.updKey i f).egress = s.egress := rfl
@[simp] theorem updKey_ports (i : Nat) (f : KeySlot → KeySlot) : (s.updKey i f).ports = s.ports := rfl
@[simp] theorem updKey_plane (i : Nat) (f : KeySlot → KeySlot) : (s.updKey i f).plane = s.plane := rfl
@[simp] theorem updKey_fe (i : Nat) (f : KeySlot → KeySlot) : (s.updKey i f).fe = s.fe := rfl
@[simp] theorem updKey_xa (i : Nat) (f : KeySlot → KeySlot) : (s.updKey i f).xa = s.xa := rfl
@[simp] theorem updKey_coarse (i : Nat) (f : KeySlot → KeySlot) : (s.updKey i f).coarse = s.coarse := rfl
@[simp] theorem updKey_vault (i : Nat) (f : KeySlot → KeySlot) : (s.updKey i f).vault = s.vault := rfl
@[simp] theorem updKey_reserve (i : Nat) (f : KeySlot → KeySlot) : (s.updKey i f).reserve = s.reserve := rfl
@[simp] theorem updKey_log (i : Nat) (f : KeySlot → KeySlot) : (s.updKey i f).log = s.log := rfl
@[simp] theorem updKey_vx (i : Nat) (f : KeySlot → KeySlot) : (s.updKey i f).vx = s.vx := rfl
@[simp] theorem updKey_clerks (i : Nat) (f : KeySlot → KeySlot) : (s.updKey i f).clerks = s.clerks := rfl
@[simp] theorem updKey_dma (i : Nat) (f : KeySlot → KeySlot) : (s.updKey i f).dma = s.dma := rfl
@[simp] theorem updKey_matrix (i : Nat) (f : KeySlot → KeySlot) : (s.updKey i f).matrix = s.matrix := rfl
@[simp] theorem updKey_tk (i : Nat) (f : KeySlot → KeySlot) : (s.updKey i f).tk = s.tk := rfl
@[simp] theorem updKey_health (i : Nat) (f : KeySlot → KeySlot) : (s.updKey i f).health = s.health := rfl
@[simp] theorem updKey_pending (i : Nat) (f : KeySlot → KeySlot) : (s.updKey i f).pending = s.pending := rfl
@[simp] theorem updKey_out (i : Nat) (f : KeySlot → KeySlot) : (s.updKey i f).out = s.out := rfl
@[simp] theorem updKey_freeCtr (i : Nat) (f : KeySlot → KeySlot) : (s.updKey i f).freeCtr = s.freeCtr := rfl

/-! ### updEntry -/

@[simp] theorem updEntry_fuse (h : Handle) (f : Entry → Entry) : (s.updEntry h f).fuse = s.fuse := rfl
@[simp] theorem updEntry_boot (h : Handle) (f : Entry → Entry) : (s.updEntry h f).boot = s.boot := rfl
@[simp] theorem updEntry_pins (h : Handle) (f : Entry → Entry) : (s.updEntry h f).pins = s.pins := rfl
@[simp] theorem updEntry_jtag (h : Handle) (f : Entry → Entry) : (s.updEntry h f).jtag = s.jtag := rfl
@[simp] theorem updEntry_ledger (h : Handle) (f : Entry → Entry) : (s.updEntry h f).ledger = s.ledger := rfl
@[simp] theorem updEntry_ring (h : Handle) (f : Entry → Entry) : (s.updEntry h f).ring = s.ring := rfl
@[simp] theorem updEntry_host (h : Handle) (f : Entry → Entry) : (s.updEntry h f).host = s.host := rfl
@[simp] theorem updEntry_spi (h : Handle) (f : Entry → Entry) : (s.updEntry h f).spi = s.spi := rfl
@[simp] theorem updEntry_teller (h : Handle) (f : Entry → Entry) : (s.updEntry h f).teller = s.teller := rfl
@[simp] theorem updEntry_service (h : Handle) (f : Entry → Entry) : (s.updEntry h f).service = s.service := rfl
@[simp] theorem updEntry_octets (h : Handle) (f : Entry → Entry) : (s.updEntry h f).octets = s.octets := rfl
@[simp] theorem updEntry_lanes (h : Handle) (f : Entry → Entry) : (s.updEntry h f).lanes = s.lanes := rfl
@[simp] theorem updEntry_links (h : Handle) (f : Entry → Entry) : (s.updEntry h f).links = s.links := rfl
@[simp] theorem updEntry_laneHeld (h : Handle) (f : Entry → Entry) : (s.updEntry h f).laneHeld = s.laneHeld := rfl
@[simp] theorem updEntry_egress (h : Handle) (f : Entry → Entry) : (s.updEntry h f).egress = s.egress := rfl
@[simp] theorem updEntry_ports (h : Handle) (f : Entry → Entry) : (s.updEntry h f).ports = s.ports := rfl
@[simp] theorem updEntry_plane (h : Handle) (f : Entry → Entry) : (s.updEntry h f).plane = s.plane := rfl
@[simp] theorem updEntry_fe (h : Handle) (f : Entry → Entry) : (s.updEntry h f).fe = s.fe := rfl
@[simp] theorem updEntry_xa (h : Handle) (f : Entry → Entry) : (s.updEntry h f).xa = s.xa := rfl
@[simp] theorem updEntry_coarse (h : Handle) (f : Entry → Entry) : (s.updEntry h f).coarse = s.coarse := rfl
@[simp] theorem updEntry_vault (h : Handle) (f : Entry → Entry) : (s.updEntry h f).vault = s.vault := rfl
@[simp] theorem updEntry_reserve (h : Handle) (f : Entry → Entry) : (s.updEntry h f).reserve = s.reserve := rfl
@[simp] theorem updEntry_log (h : Handle) (f : Entry → Entry) : (s.updEntry h f).log = s.log := rfl
@[simp] theorem updEntry_vx (h : Handle) (f : Entry → Entry) : (s.updEntry h f).vx = s.vx := rfl
@[simp] theorem updEntry_clerks (h : Handle) (f : Entry → Entry) : (s.updEntry h f).clerks = s.clerks := rfl
@[simp] theorem updEntry_dma (h : Handle) (f : Entry → Entry) : (s.updEntry h f).dma = s.dma := rfl
@[simp] theorem updEntry_matrix (h : Handle) (f : Entry → Entry) : (s.updEntry h f).matrix = s.matrix := rfl
@[simp] theorem updEntry_tk (h : Handle) (f : Entry → Entry) : (s.updEntry h f).tk = s.tk := rfl
@[simp] theorem updEntry_health (h : Handle) (f : Entry → Entry) : (s.updEntry h f).health = s.health := rfl
@[simp] theorem updEntry_pending (h : Handle) (f : Entry → Entry) : (s.updEntry h f).pending = s.pending := rfl
@[simp] theorem updEntry_out (h : Handle) (f : Entry → Entry) : (s.updEntry h f).out = s.out := rfl
@[simp] theorem updEntry_freeCtr (h : Handle) (f : Entry → Entry) : (s.updEntry h f).freeCtr = s.freeCtr := rfl

/-! ### setState -/

@[simp] theorem setState_fuse (h : Handle) (st : HState) : (s.setState h st).fuse = s.fuse := rfl
@[simp] theorem setState_boot (h : Handle) (st : HState) : (s.setState h st).boot = s.boot := rfl
@[simp] theorem setState_pins (h : Handle) (st : HState) : (s.setState h st).pins = s.pins := rfl
@[simp] theorem setState_jtag (h : Handle) (st : HState) : (s.setState h st).jtag = s.jtag := rfl
@[simp] theorem setState_ledger (h : Handle) (st : HState) : (s.setState h st).ledger = s.ledger := rfl
@[simp] theorem setState_ring (h : Handle) (st : HState) : (s.setState h st).ring = s.ring := rfl
@[simp] theorem setState_host (h : Handle) (st : HState) : (s.setState h st).host = s.host := rfl
@[simp] theorem setState_spi (h : Handle) (st : HState) : (s.setState h st).spi = s.spi := rfl
@[simp] theorem setState_teller (h : Handle) (st : HState) : (s.setState h st).teller = s.teller := rfl
@[simp] theorem setState_service (h : Handle) (st : HState) : (s.setState h st).service = s.service := rfl
@[simp] theorem setState_octets (h : Handle) (st : HState) : (s.setState h st).octets = s.octets := rfl
@[simp] theorem setState_lanes (h : Handle) (st : HState) : (s.setState h st).lanes = s.lanes := rfl
@[simp] theorem setState_links (h : Handle) (st : HState) : (s.setState h st).links = s.links := rfl
@[simp] theorem setState_laneHeld (h : Handle) (st : HState) : (s.setState h st).laneHeld = s.laneHeld := rfl
@[simp] theorem setState_egress (h : Handle) (st : HState) : (s.setState h st).egress = s.egress := rfl
@[simp] theorem setState_ports (h : Handle) (st : HState) : (s.setState h st).ports = s.ports := rfl
@[simp] theorem setState_plane (h : Handle) (st : HState) : (s.setState h st).plane = s.plane := rfl
@[simp] theorem setState_fe (h : Handle) (st : HState) : (s.setState h st).fe = s.fe := rfl
@[simp] theorem setState_xa (h : Handle) (st : HState) : (s.setState h st).xa = s.xa := rfl
@[simp] theorem setState_coarse (h : Handle) (st : HState) : (s.setState h st).coarse = s.coarse := rfl
@[simp] theorem setState_vault (h : Handle) (st : HState) : (s.setState h st).vault = s.vault := rfl
@[simp] theorem setState_reserve (h : Handle) (st : HState) : (s.setState h st).reserve = s.reserve := rfl
@[simp] theorem setState_log (h : Handle) (st : HState) : (s.setState h st).log = s.log := rfl
@[simp] theorem setState_vx (h : Handle) (st : HState) : (s.setState h st).vx = s.vx := rfl
@[simp] theorem setState_clerks (h : Handle) (st : HState) : (s.setState h st).clerks = s.clerks := rfl
@[simp] theorem setState_dma (h : Handle) (st : HState) : (s.setState h st).dma = s.dma := rfl
@[simp] theorem setState_matrix (h : Handle) (st : HState) : (s.setState h st).matrix = s.matrix := rfl
@[simp] theorem setState_tk (h : Handle) (st : HState) : (s.setState h st).tk = s.tk := rfl
@[simp] theorem setState_health (h : Handle) (st : HState) : (s.setState h st).health = s.health := rfl
@[simp] theorem setState_pending (h : Handle) (st : HState) : (s.setState h st).pending = s.pending := rfl
@[simp] theorem setState_out (h : Handle) (st : HState) : (s.setState h st).out = s.out := rfl
@[simp] theorem setState_freeCtr (h : Handle) (st : HState) : (s.setState h st).freeCtr = s.freeCtr := rfl

/-! ### emit -/

@[simp] theorem emit_fuse (o : Output) : (s.emit o).fuse = s.fuse := rfl
@[simp] theorem emit_boot (o : Output) : (s.emit o).boot = s.boot := rfl
@[simp] theorem emit_pins (o : Output) : (s.emit o).pins = s.pins := rfl
@[simp] theorem emit_jtag (o : Output) : (s.emit o).jtag = s.jtag := rfl
@[simp] theorem emit_ledger (o : Output) : (s.emit o).ledger = s.ledger := rfl
@[simp] theorem emit_ring (o : Output) : (s.emit o).ring = s.ring := rfl
@[simp] theorem emit_host (o : Output) : (s.emit o).host = s.host := rfl
@[simp] theorem emit_spi (o : Output) : (s.emit o).spi = s.spi := rfl
@[simp] theorem emit_teller (o : Output) : (s.emit o).teller = s.teller := rfl
@[simp] theorem emit_handles (o : Output) : (s.emit o).handles = s.handles := rfl
@[simp] theorem emit_service (o : Output) : (s.emit o).service = s.service := rfl
@[simp] theorem emit_octets (o : Output) : (s.emit o).octets = s.octets := rfl
@[simp] theorem emit_lanes (o : Output) : (s.emit o).lanes = s.lanes := rfl
@[simp] theorem emit_links (o : Output) : (s.emit o).links = s.links := rfl
@[simp] theorem emit_laneHeld (o : Output) : (s.emit o).laneHeld = s.laneHeld := rfl
@[simp] theorem emit_egress (o : Output) : (s.emit o).egress = s.egress := rfl
@[simp] theorem emit_ports (o : Output) : (s.emit o).ports = s.ports := rfl
@[simp] theorem emit_plane (o : Output) : (s.emit o).plane = s.plane := rfl
@[simp] theorem emit_fe (o : Output) : (s.emit o).fe = s.fe := rfl
@[simp] theorem emit_xa (o : Output) : (s.emit o).xa = s.xa := rfl
@[simp] theorem emit_coarse (o : Output) : (s.emit o).coarse = s.coarse := rfl
@[simp] theorem emit_vault (o : Output) : (s.emit o).vault = s.vault := rfl
@[simp] theorem emit_reserve (o : Output) : (s.emit o).reserve = s.reserve := rfl
@[simp] theorem emit_log (o : Output) : (s.emit o).log = s.log := rfl
@[simp] theorem emit_vx (o : Output) : (s.emit o).vx = s.vx := rfl
@[simp] theorem emit_clerks (o : Output) : (s.emit o).clerks = s.clerks := rfl
@[simp] theorem emit_dma (o : Output) : (s.emit o).dma = s.dma := rfl
@[simp] theorem emit_matrix (o : Output) : (s.emit o).matrix = s.matrix := rfl
@[simp] theorem emit_tk (o : Output) : (s.emit o).tk = s.tk := rfl
@[simp] theorem emit_health (o : Output) : (s.emit o).health = s.health := rfl
@[simp] theorem emit_pending (o : Output) : (s.emit o).pending = s.pending := rfl
@[simp] theorem emit_out (o : Output) : (s.emit o).out = s.out ++ [o] := rfl
@[simp] theorem emit_freeCtr (o : Output) : (s.emit o).freeCtr = s.freeCtr := rfl

/-! ### raise -/

@[simp] theorem raise_fuse (i : Nat) : (s.raise i).fuse = s.fuse := rfl
@[simp] theorem raise_boot (i : Nat) : (s.raise i).boot = s.boot := rfl
@[simp] theorem raise_pins (i : Nat) : (s.raise i).pins = s.pins := rfl
@[simp] theorem raise_jtag (i : Nat) : (s.raise i).jtag = s.jtag := rfl
@[simp] theorem raise_ledger (i : Nat) : (s.raise i).ledger = s.ledger := rfl
@[simp] theorem raise_ring (i : Nat) : (s.raise i).ring = s.ring := rfl
@[simp] theorem raise_host (i : Nat) : (s.raise i).host = s.host := rfl
@[simp] theorem raise_spi (i : Nat) : (s.raise i).spi = s.spi := rfl
@[simp] theorem raise_teller (i : Nat) : (s.raise i).teller = s.teller := rfl
@[simp] theorem raise_handles (i : Nat) : (s.raise i).handles = s.handles := rfl
@[simp] theorem raise_service (i : Nat) : (s.raise i).service = s.service := rfl
@[simp] theorem raise_octets (i : Nat) : (s.raise i).octets = s.octets := rfl
@[simp] theorem raise_lanes (i : Nat) : (s.raise i).lanes = s.lanes := rfl
@[simp] theorem raise_links (i : Nat) : (s.raise i).links = s.links := rfl
@[simp] theorem raise_laneHeld (i : Nat) : (s.raise i).laneHeld = s.laneHeld := rfl
@[simp] theorem raise_egress (i : Nat) : (s.raise i).egress = s.egress := rfl
@[simp] theorem raise_ports (i : Nat) : (s.raise i).ports = s.ports := rfl
@[simp] theorem raise_plane (i : Nat) : (s.raise i).plane = s.plane := rfl
@[simp] theorem raise_fe (i : Nat) : (s.raise i).fe = s.fe := rfl
@[simp] theorem raise_xa (i : Nat) : (s.raise i).xa = s.xa := rfl
@[simp] theorem raise_coarse (i : Nat) : (s.raise i).coarse = s.coarse := rfl
@[simp] theorem raise_vault (i : Nat) : (s.raise i).vault = s.vault := rfl
@[simp] theorem raise_reserve (i : Nat) : (s.raise i).reserve = s.reserve := rfl
@[simp] theorem raise_log (i : Nat) : (s.raise i).log = s.log := rfl
@[simp] theorem raise_vx (i : Nat) : (s.raise i).vx = s.vx := rfl
@[simp] theorem raise_clerks (i : Nat) : (s.raise i).clerks = s.clerks := rfl
@[simp] theorem raise_dma (i : Nat) : (s.raise i).dma = s.dma := rfl
@[simp] theorem raise_matrix (i : Nat) : (s.raise i).matrix = s.matrix := rfl
@[simp] theorem raise_tk (i : Nat) : (s.raise i).tk = s.tk := rfl
@[simp] theorem raise_health (i : Nat) : (s.raise i).health = { s.health with events := s.health.events ||| BitVec.ofNat 32 (2 ^ i) } := rfl
@[simp] theorem raise_pending (i : Nat) : (s.raise i).pending = s.pending := rfl
@[simp] theorem raise_out (i : Nat) : (s.raise i).out = s.out := rfl
@[simp] theorem raise_freeCtr (i : Nat) : (s.raise i).freeCtr = s.freeCtr := rfl

/-! ### countPort -/

@[simp] theorem countPort_fuse (p : Nat) (f : PortCounters → PortCounters) : (s.countPort p f).fuse = s.fuse := rfl
@[simp] theorem countPort_boot (p : Nat) (f : PortCounters → PortCounters) : (s.countPort p f).boot = s.boot := rfl
@[simp] theorem countPort_pins (p : Nat) (f : PortCounters → PortCounters) : (s.countPort p f).pins = s.pins := rfl
@[simp] theorem countPort_jtag (p : Nat) (f : PortCounters → PortCounters) : (s.countPort p f).jtag = s.jtag := rfl
@[simp] theorem countPort_ledger (p : Nat) (f : PortCounters → PortCounters) : (s.countPort p f).ledger = s.ledger := rfl
@[simp] theorem countPort_ring (p : Nat) (f : PortCounters → PortCounters) : (s.countPort p f).ring = s.ring := rfl
@[simp] theorem countPort_host (p : Nat) (f : PortCounters → PortCounters) : (s.countPort p f).host = s.host := rfl
@[simp] theorem countPort_spi (p : Nat) (f : PortCounters → PortCounters) : (s.countPort p f).spi = s.spi := rfl
@[simp] theorem countPort_teller (p : Nat) (f : PortCounters → PortCounters) : (s.countPort p f).teller = s.teller := rfl
@[simp] theorem countPort_handles (p : Nat) (f : PortCounters → PortCounters) : (s.countPort p f).handles = s.handles := rfl
@[simp] theorem countPort_service (p : Nat) (f : PortCounters → PortCounters) : (s.countPort p f).service = s.service := rfl
@[simp] theorem countPort_octets (p : Nat) (f : PortCounters → PortCounters) : (s.countPort p f).octets = s.octets := rfl
@[simp] theorem countPort_lanes (p : Nat) (f : PortCounters → PortCounters) : (s.countPort p f).lanes = s.lanes := rfl
@[simp] theorem countPort_links (p : Nat) (f : PortCounters → PortCounters) : (s.countPort p f).links = s.links := rfl
@[simp] theorem countPort_laneHeld (p : Nat) (f : PortCounters → PortCounters) : (s.countPort p f).laneHeld = s.laneHeld := rfl
@[simp] theorem countPort_egress (p : Nat) (f : PortCounters → PortCounters) : (s.countPort p f).egress = s.egress := rfl
@[simp] theorem countPort_ports (p : Nat) (f : PortCounters → PortCounters) : (s.countPort p f).ports = s.ports.modify p fun q => { q with cnt := f q.cnt } := rfl
@[simp] theorem countPort_plane (p : Nat) (f : PortCounters → PortCounters) : (s.countPort p f).plane = s.plane := rfl
@[simp] theorem countPort_fe (p : Nat) (f : PortCounters → PortCounters) : (s.countPort p f).fe = s.fe := rfl
@[simp] theorem countPort_xa (p : Nat) (f : PortCounters → PortCounters) : (s.countPort p f).xa = s.xa := rfl
@[simp] theorem countPort_coarse (p : Nat) (f : PortCounters → PortCounters) : (s.countPort p f).coarse = s.coarse := rfl
@[simp] theorem countPort_vault (p : Nat) (f : PortCounters → PortCounters) : (s.countPort p f).vault = s.vault := rfl
@[simp] theorem countPort_reserve (p : Nat) (f : PortCounters → PortCounters) : (s.countPort p f).reserve = s.reserve := rfl
@[simp] theorem countPort_log (p : Nat) (f : PortCounters → PortCounters) : (s.countPort p f).log = s.log := rfl
@[simp] theorem countPort_vx (p : Nat) (f : PortCounters → PortCounters) : (s.countPort p f).vx = s.vx := rfl
@[simp] theorem countPort_clerks (p : Nat) (f : PortCounters → PortCounters) : (s.countPort p f).clerks = s.clerks := rfl
@[simp] theorem countPort_dma (p : Nat) (f : PortCounters → PortCounters) : (s.countPort p f).dma = s.dma := rfl
@[simp] theorem countPort_matrix (p : Nat) (f : PortCounters → PortCounters) : (s.countPort p f).matrix = s.matrix := rfl
@[simp] theorem countPort_tk (p : Nat) (f : PortCounters → PortCounters) : (s.countPort p f).tk = s.tk := rfl
@[simp] theorem countPort_health (p : Nat) (f : PortCounters → PortCounters) : (s.countPort p f).health = s.health := rfl
@[simp] theorem countPort_pending (p : Nat) (f : PortCounters → PortCounters) : (s.countPort p f).pending = s.pending := rfl
@[simp] theorem countPort_out (p : Nat) (f : PortCounters → PortCounters) : (s.countPort p f).out = s.out := rfl
@[simp] theorem countPort_freeCtr (p : Nat) (f : PortCounters → PortCounters) : (s.countPort p f).freeCtr = s.freeCtr := rfl

/-! ### logAdd -/

@[simp] theorem logAdd_fuse (kind cls unit : Nat) (detail : List Byte) : (s.logAdd kind cls unit detail).fuse = s.fuse := rfl
@[simp] theorem logAdd_boot (kind cls unit : Nat) (detail : List Byte) : (s.logAdd kind cls unit detail).boot = s.boot := rfl
@[simp] theorem logAdd_pins (kind cls unit : Nat) (detail : List Byte) : (s.logAdd kind cls unit detail).pins = s.pins := rfl
@[simp] theorem logAdd_jtag (kind cls unit : Nat) (detail : List Byte) : (s.logAdd kind cls unit detail).jtag = s.jtag := rfl
@[simp] theorem logAdd_ledger (kind cls unit : Nat) (detail : List Byte) : (s.logAdd kind cls unit detail).ledger = s.ledger := rfl
@[simp] theorem logAdd_ring (kind cls unit : Nat) (detail : List Byte) : (s.logAdd kind cls unit detail).ring = s.ring := rfl
@[simp] theorem logAdd_host (kind cls unit : Nat) (detail : List Byte) : (s.logAdd kind cls unit detail).host = s.host := rfl
@[simp] theorem logAdd_spi (kind cls unit : Nat) (detail : List Byte) : (s.logAdd kind cls unit detail).spi = s.spi := rfl
@[simp] theorem logAdd_teller (kind cls unit : Nat) (detail : List Byte) : (s.logAdd kind cls unit detail).teller = s.teller := rfl
@[simp] theorem logAdd_handles (kind cls unit : Nat) (detail : List Byte) : (s.logAdd kind cls unit detail).handles = s.handles := rfl
@[simp] theorem logAdd_service (kind cls unit : Nat) (detail : List Byte) : (s.logAdd kind cls unit detail).service = s.service := rfl
@[simp] theorem logAdd_octets (kind cls unit : Nat) (detail : List Byte) : (s.logAdd kind cls unit detail).octets = s.octets := rfl
@[simp] theorem logAdd_lanes (kind cls unit : Nat) (detail : List Byte) : (s.logAdd kind cls unit detail).lanes = s.lanes := rfl
@[simp] theorem logAdd_links (kind cls unit : Nat) (detail : List Byte) : (s.logAdd kind cls unit detail).links = s.links := rfl
@[simp] theorem logAdd_laneHeld (kind cls unit : Nat) (detail : List Byte) : (s.logAdd kind cls unit detail).laneHeld = s.laneHeld := rfl
@[simp] theorem logAdd_egress (kind cls unit : Nat) (detail : List Byte) : (s.logAdd kind cls unit detail).egress = s.egress := rfl
@[simp] theorem logAdd_ports (kind cls unit : Nat) (detail : List Byte) : (s.logAdd kind cls unit detail).ports = s.ports := rfl
@[simp] theorem logAdd_plane (kind cls unit : Nat) (detail : List Byte) : (s.logAdd kind cls unit detail).plane = s.plane := rfl
@[simp] theorem logAdd_fe (kind cls unit : Nat) (detail : List Byte) : (s.logAdd kind cls unit detail).fe = s.fe := rfl
@[simp] theorem logAdd_xa (kind cls unit : Nat) (detail : List Byte) : (s.logAdd kind cls unit detail).xa = s.xa := rfl
@[simp] theorem logAdd_coarse (kind cls unit : Nat) (detail : List Byte) : (s.logAdd kind cls unit detail).coarse = s.coarse := rfl
@[simp] theorem logAdd_vault (kind cls unit : Nat) (detail : List Byte) : (s.logAdd kind cls unit detail).vault = s.vault := rfl
@[simp] theorem logAdd_reserve (kind cls unit : Nat) (detail : List Byte) : (s.logAdd kind cls unit detail).reserve = s.reserve := rfl
@[simp] theorem logAdd_log (kind cls unit : Nat) (detail : List Byte) : (s.logAdd kind cls unit detail).log = s.log.add (logEntry kind cls unit 1 s.stamp detail) := rfl
@[simp] theorem logAdd_vx (kind cls unit : Nat) (detail : List Byte) : (s.logAdd kind cls unit detail).vx = s.vx := rfl
@[simp] theorem logAdd_clerks (kind cls unit : Nat) (detail : List Byte) : (s.logAdd kind cls unit detail).clerks = s.clerks := rfl
@[simp] theorem logAdd_dma (kind cls unit : Nat) (detail : List Byte) : (s.logAdd kind cls unit detail).dma = s.dma := rfl
@[simp] theorem logAdd_matrix (kind cls unit : Nat) (detail : List Byte) : (s.logAdd kind cls unit detail).matrix = s.matrix := rfl
@[simp] theorem logAdd_tk (kind cls unit : Nat) (detail : List Byte) : (s.logAdd kind cls unit detail).tk = s.tk := rfl
@[simp] theorem logAdd_health (kind cls unit : Nat) (detail : List Byte) : (s.logAdd kind cls unit detail).health = s.health := rfl
@[simp] theorem logAdd_pending (kind cls unit : Nat) (detail : List Byte) : (s.logAdd kind cls unit detail).pending = s.pending := rfl
@[simp] theorem logAdd_out (kind cls unit : Nat) (detail : List Byte) : (s.logAdd kind cls unit detail).out = s.out := rfl
@[simp] theorem logAdd_freeCtr (kind cls unit : Nat) (detail : List Byte) : (s.logAdd kind cls unit detail).freeCtr = s.freeCtr := rfl

/-! ### ledgerChange -/

@[simp] theorem ledgerChange_fuse  : (s.ledgerChange).fuse = s.fuse := rfl
@[simp] theorem ledgerChange_boot  : (s.ledgerChange).boot = s.boot := rfl
@[simp] theorem ledgerChange_pins  : (s.ledgerChange).pins = s.pins := rfl
@[simp] theorem ledgerChange_jtag  : (s.ledgerChange).jtag = s.jtag := rfl
@[simp] theorem ledgerChange_ring  : (s.ledgerChange).ring = s.ring := rfl
@[simp] theorem ledgerChange_host  : (s.ledgerChange).host = s.host := rfl
@[simp] theorem ledgerChange_spi  : (s.ledgerChange).spi = s.spi := rfl
@[simp] theorem ledgerChange_teller  : (s.ledgerChange).teller = s.teller := rfl
@[simp] theorem ledgerChange_handles  : (s.ledgerChange).handles = s.handles := rfl
@[simp] theorem ledgerChange_service  : (s.ledgerChange).service = s.service := rfl
@[simp] theorem ledgerChange_octets  : (s.ledgerChange).octets = s.octets := rfl
@[simp] theorem ledgerChange_lanes  : (s.ledgerChange).lanes = s.lanes := rfl
@[simp] theorem ledgerChange_links  : (s.ledgerChange).links = s.links := rfl
@[simp] theorem ledgerChange_laneHeld  : (s.ledgerChange).laneHeld = s.laneHeld := rfl
@[simp] theorem ledgerChange_egress  : (s.ledgerChange).egress = s.egress := rfl
@[simp] theorem ledgerChange_ports  : (s.ledgerChange).ports = s.ports := rfl
@[simp] theorem ledgerChange_plane  : (s.ledgerChange).plane = s.plane := rfl
@[simp] theorem ledgerChange_fe  : (s.ledgerChange).fe = s.fe := rfl
@[simp] theorem ledgerChange_xa  : (s.ledgerChange).xa = s.xa := rfl
@[simp] theorem ledgerChange_coarse  : (s.ledgerChange).coarse = s.coarse := rfl
@[simp] theorem ledgerChange_vault  : (s.ledgerChange).vault = s.vault := rfl
@[simp] theorem ledgerChange_reserve  : (s.ledgerChange).reserve = s.reserve := rfl
@[simp] theorem ledgerChange_log  : (s.ledgerChange).log = s.log := rfl
@[simp] theorem ledgerChange_vx  : (s.ledgerChange).vx = s.vx := rfl
@[simp] theorem ledgerChange_clerks  : (s.ledgerChange).clerks = s.clerks := rfl
@[simp] theorem ledgerChange_dma  : (s.ledgerChange).dma = s.dma := rfl
@[simp] theorem ledgerChange_matrix  : (s.ledgerChange).matrix = s.matrix := rfl
@[simp] theorem ledgerChange_tk  : (s.ledgerChange).tk = s.tk := rfl
@[simp] theorem ledgerChange_health  : (s.ledgerChange).health = s.health := rfl
@[simp] theorem ledgerChange_pending  : (s.ledgerChange).pending = s.pending := rfl
@[simp] theorem ledgerChange_out  : (s.ledgerChange).out = s.out := rfl
@[simp] theorem ledgerChange_freeCtr  : (s.ledgerChange).freeCtr = s.freeCtr := rfl

/-! ### record -/

@[simp] theorem record_fuse (p : Pkt) (status : Nat) : (s.record p status).fuse = s.fuse := rfl
@[simp] theorem record_boot (p : Pkt) (status : Nat) : (s.record p status).boot = s.boot := rfl
@[simp] theorem record_pins (p : Pkt) (status : Nat) : (s.record p status).pins = s.pins := rfl
@[simp] theorem record_jtag (p : Pkt) (status : Nat) : (s.record p status).jtag = s.jtag := rfl
@[simp] theorem record_ledger (p : Pkt) (status : Nat) : (s.record p status).ledger = s.ledger := rfl
@[simp] theorem record_ring (p : Pkt) (status : Nat) : (s.record p status).ring = s.ring := rfl
@[simp] theorem record_host (p : Pkt) (status : Nat) : (s.record p status).host = s.host := rfl
@[simp] theorem record_spi (p : Pkt) (status : Nat) : (s.record p status).spi = s.spi := rfl
@[simp] theorem record_handles (p : Pkt) (status : Nat) : (s.record p status).handles = s.handles := rfl
@[simp] theorem record_service (p : Pkt) (status : Nat) : (s.record p status).service = s.service := rfl
@[simp] theorem record_octets (p : Pkt) (status : Nat) : (s.record p status).octets = s.octets := rfl
@[simp] theorem record_lanes (p : Pkt) (status : Nat) : (s.record p status).lanes = s.lanes := rfl
@[simp] theorem record_links (p : Pkt) (status : Nat) : (s.record p status).links = s.links := rfl
@[simp] theorem record_laneHeld (p : Pkt) (status : Nat) : (s.record p status).laneHeld = s.laneHeld := rfl
@[simp] theorem record_egress (p : Pkt) (status : Nat) : (s.record p status).egress = s.egress := rfl
@[simp] theorem record_ports (p : Pkt) (status : Nat) : (s.record p status).ports = s.ports := rfl
@[simp] theorem record_plane (p : Pkt) (status : Nat) : (s.record p status).plane = s.plane := rfl
@[simp] theorem record_fe (p : Pkt) (status : Nat) : (s.record p status).fe = s.fe := rfl
@[simp] theorem record_xa (p : Pkt) (status : Nat) : (s.record p status).xa = s.xa := rfl
@[simp] theorem record_coarse (p : Pkt) (status : Nat) : (s.record p status).coarse = s.coarse := rfl
@[simp] theorem record_vault (p : Pkt) (status : Nat) : (s.record p status).vault = s.vault := rfl
@[simp] theorem record_reserve (p : Pkt) (status : Nat) : (s.record p status).reserve = s.reserve := rfl
@[simp] theorem record_log (p : Pkt) (status : Nat) : (s.record p status).log = s.log := rfl
@[simp] theorem record_vx (p : Pkt) (status : Nat) : (s.record p status).vx = s.vx := rfl
@[simp] theorem record_clerks (p : Pkt) (status : Nat) : (s.record p status).clerks = s.clerks := rfl
@[simp] theorem record_dma (p : Pkt) (status : Nat) : (s.record p status).dma = s.dma := rfl
@[simp] theorem record_matrix (p : Pkt) (status : Nat) : (s.record p status).matrix = s.matrix := rfl
@[simp] theorem record_tk (p : Pkt) (status : Nat) : (s.record p status).tk = s.tk := rfl
@[simp] theorem record_health (p : Pkt) (status : Nat) : (s.record p status).health = s.health := rfl
@[simp] theorem record_pending (p : Pkt) (status : Nat) : (s.record p status).pending = s.pending := rfl
@[simp] theorem record_out (p : Pkt) (status : Nat) : (s.record p status).out = s.out := rfl
@[simp] theorem record_freeCtr (p : Pkt) (status : Nat) : (s.record p status).freeCtr = s.freeCtr := rfl

/-! ### The two outcomes -/

theorem settle_eq (s' : State) : settle s s' = .next (settled s s') := rfl

/-- A commit changes the Ledger only, beside what it keeps. -/
theorem ledgerCommit_frame (s' : State) : State.ledgerCommit s s' = { s' with ledger := (State.ledgerCommit s s').ledger } := by
  unfold State.ledgerCommit; split; rfl; split; rfl; split <;> rfl

theorem settled_frame (s' : State) :
    settled s s' = { s' with ledger := (State.ledgerCommit s s').ledger, fuse := s.fuse, pending := s.pending } := by
  unfold settled; rw [ledgerCommit_frame]

/-- A command that changes nothing of what the Ledger records starts no rewrite. -/
theorem settled_same (s' : State) (h : s'.ledger.changes = s.ledger.changes) :
    settled s s' = { s' with fuse := s.fuse, pending := s.pending } := by
  unfold settled State.ledgerCommit; rw [if_pos h]

@[simp] theorem settled_fuse (s' : State) : (settled s s').fuse = s.fuse := rfl
@[simp] theorem settled_pending (s' : State) : (settled s s').pending = s.pending := rfl
@[simp] theorem settled_boot (s' : State) : (settled s s').boot = s'.boot := by rw [settled_frame]
@[simp] theorem settled_pins (s' : State) : (settled s s').pins = s'.pins := by rw [settled_frame]
@[simp] theorem settled_jtag (s' : State) : (settled s s').jtag = s'.jtag := by rw [settled_frame]
@[simp] theorem settled_ring (s' : State) : (settled s s').ring = s'.ring := by rw [settled_frame]
@[simp] theorem settled_host (s' : State) : (settled s s').host = s'.host := by rw [settled_frame]
@[simp] theorem settled_spi (s' : State) : (settled s s').spi = s'.spi := by rw [settled_frame]
@[simp] theorem settled_teller (s' : State) : (settled s s').teller = s'.teller := by rw [settled_frame]
@[simp] theorem settled_handles (s' : State) : (settled s s').handles = s'.handles := by rw [settled_frame]
@[simp] theorem settled_service (s' : State) : (settled s s').service = s'.service := by rw [settled_frame]
@[simp] theorem settled_octets (s' : State) : (settled s s').octets = s'.octets := by rw [settled_frame]
@[simp] theorem settled_lanes (s' : State) : (settled s s').lanes = s'.lanes := by rw [settled_frame]
@[simp] theorem settled_links (s' : State) : (settled s s').links = s'.links := by rw [settled_frame]
@[simp] theorem settled_laneHeld (s' : State) : (settled s s').laneHeld = s'.laneHeld := by rw [settled_frame]
@[simp] theorem settled_egress (s' : State) : (settled s s').egress = s'.egress := by rw [settled_frame]
@[simp] theorem settled_ports (s' : State) : (settled s s').ports = s'.ports := by rw [settled_frame]
@[simp] theorem settled_plane (s' : State) : (settled s s').plane = s'.plane := by rw [settled_frame]
@[simp] theorem settled_fe (s' : State) : (settled s s').fe = s'.fe := by rw [settled_frame]
@[simp] theorem settled_xa (s' : State) : (settled s s').xa = s'.xa := by rw [settled_frame]
@[simp] theorem settled_coarse (s' : State) : (settled s s').coarse = s'.coarse := by rw [settled_frame]
@[simp] theorem settled_vault (s' : State) : (settled s s').vault = s'.vault := by rw [settled_frame]
@[simp] theorem settled_reserve (s' : State) : (settled s s').reserve = s'.reserve := by rw [settled_frame]
@[simp] theorem settled_log (s' : State) : (settled s s').log = s'.log := by rw [settled_frame]
@[simp] theorem settled_vx (s' : State) : (settled s s').vx = s'.vx := by rw [settled_frame]
@[simp] theorem settled_clerks (s' : State) : (settled s s').clerks = s'.clerks := by rw [settled_frame]
@[simp] theorem settled_dma (s' : State) : (settled s s').dma = s'.dma := by rw [settled_frame]
@[simp] theorem settled_matrix (s' : State) : (settled s s').matrix = s'.matrix := by rw [settled_frame]
@[simp] theorem settled_tk (s' : State) : (settled s s').tk = s'.tk := by rw [settled_frame]
@[simp] theorem settled_health (s' : State) : (settled s s').health = s'.health := by rw [settled_frame]
@[simp] theorem settled_out (s' : State) : (settled s s').out = s'.out := by rw [settled_frame]
@[simp] theorem settled_freeCtr (s' : State) : (settled s s').freeCtr = s'.freeCtr := by rw [settled_frame]

/-! ### Vectors and notices change the host port and the outputs only -/

theorem sendVector_frame (v : Nat) :
    s.sendVector v = { s with host := (s.sendVector v).host, out := (s.sendVector v).out } := by
  unfold State.sendVector; split; rfl; split <;> rfl
theorem sendVector0_frame :
    s.sendVector0 = { s with host := (s.sendVector0).host, out := (s.sendVector0).out } := by
  unfold State.sendVector0; split
  · rfl
  · dsimp only; rw [sendVector_frame]
theorem sendVector2_frame :
    s.sendVector2 = { s with host := (s.sendVector2).host, out := (s.sendVector2).out } := by
  unfold State.sendVector2; split
  · rfl
  · dsimp only; rw [sendVector_frame]
theorem noticeFlags_frame (s' : State) :
    noticeFlags s s' = { s' with host := (noticeFlags s s').host, out := (noticeFlags s s').out } := by
  unfold noticeFlags; split
  · exact sendVector2_frame s'
  · rfl

@[simp] theorem sendVector_fuse (v : Nat) : (s.sendVector v).fuse = s.fuse := by rw [sendVector_frame]
@[simp] theorem sendVector_boot (v : Nat) : (s.sendVector v).boot = s.boot := by rw [sendVector_frame]
@[simp] theorem sendVector_pins (v : Nat) : (s.sendVector v).pins = s.pins := by rw [sendVector_frame]
@[simp] theorem sendVector_jtag (v : Nat) : (s.sendVector v).jtag = s.jtag := by rw [sendVector_frame]
@[simp] theorem sendVector_ledger (v : Nat) : (s.sendVector v).ledger = s.ledger := by rw [sendVector_frame]
@[simp] theorem sendVector_ring (v : Nat) : (s.sendVector v).ring = s.ring := by rw [sendVector_frame]
@[simp] theorem sendVector_spi (v : Nat) : (s.sendVector v).spi = s.spi := by rw [sendVector_frame]
@[simp] theorem sendVector_teller (v : Nat) : (s.sendVector v).teller = s.teller := by rw [sendVector_frame]
@[simp] theorem sendVector_handles (v : Nat) : (s.sendVector v).handles = s.handles := by rw [sendVector_frame]
@[simp] theorem sendVector_service (v : Nat) : (s.sendVector v).service = s.service := by rw [sendVector_frame]
@[simp] theorem sendVector_octets (v : Nat) : (s.sendVector v).octets = s.octets := by rw [sendVector_frame]
@[simp] theorem sendVector_lanes (v : Nat) : (s.sendVector v).lanes = s.lanes := by rw [sendVector_frame]
@[simp] theorem sendVector_links (v : Nat) : (s.sendVector v).links = s.links := by rw [sendVector_frame]
@[simp] theorem sendVector_laneHeld (v : Nat) : (s.sendVector v).laneHeld = s.laneHeld := by rw [sendVector_frame]
@[simp] theorem sendVector_egress (v : Nat) : (s.sendVector v).egress = s.egress := by rw [sendVector_frame]
@[simp] theorem sendVector_ports (v : Nat) : (s.sendVector v).ports = s.ports := by rw [sendVector_frame]
@[simp] theorem sendVector_plane (v : Nat) : (s.sendVector v).plane = s.plane := by rw [sendVector_frame]
@[simp] theorem sendVector_fe (v : Nat) : (s.sendVector v).fe = s.fe := by rw [sendVector_frame]
@[simp] theorem sendVector_xa (v : Nat) : (s.sendVector v).xa = s.xa := by rw [sendVector_frame]
@[simp] theorem sendVector_coarse (v : Nat) : (s.sendVector v).coarse = s.coarse := by rw [sendVector_frame]
@[simp] theorem sendVector_vault (v : Nat) : (s.sendVector v).vault = s.vault := by rw [sendVector_frame]
@[simp] theorem sendVector_reserve (v : Nat) : (s.sendVector v).reserve = s.reserve := by rw [sendVector_frame]
@[simp] theorem sendVector_log (v : Nat) : (s.sendVector v).log = s.log := by rw [sendVector_frame]
@[simp] theorem sendVector_vx (v : Nat) : (s.sendVector v).vx = s.vx := by rw [sendVector_frame]
@[simp] theorem sendVector_clerks (v : Nat) : (s.sendVector v).clerks = s.clerks := by rw [sendVector_frame]
@[simp] theorem sendVector_dma (v : Nat) : (s.sendVector v).dma = s.dma := by rw [sendVector_frame]
@[simp] theorem sendVector_matrix (v : Nat) : (s.sendVector v).matrix = s.matrix := by rw [sendVector_frame]
@[simp] theorem sendVector_tk (v : Nat) : (s.sendVector v).tk = s.tk := by rw [sendVector_frame]
@[simp] theorem sendVector_health (v : Nat) : (s.sendVector v).health = s.health := by rw [sendVector_frame]
@[simp] theorem sendVector_pending (v : Nat) : (s.sendVector v).pending = s.pending := by rw [sendVector_frame]
@[simp] theorem sendVector_freeCtr (v : Nat) : (s.sendVector v).freeCtr = s.freeCtr := by rw [sendVector_frame]
@[simp] theorem sendVector0_fuse : (s.sendVector0).fuse = s.fuse := by rw [sendVector0_frame]
@[simp] theorem sendVector0_boot : (s.sendVector0).boot = s.boot := by rw [sendVector0_frame]
@[simp] theorem sendVector0_pins : (s.sendVector0).pins = s.pins := by rw [sendVector0_frame]
@[simp] theorem sendVector0_jtag : (s.sendVector0).jtag = s.jtag := by rw [sendVector0_frame]
@[simp] theorem sendVector0_ledger : (s.sendVector0).ledger = s.ledger := by rw [sendVector0_frame]
@[simp] theorem sendVector0_ring : (s.sendVector0).ring = s.ring := by rw [sendVector0_frame]
@[simp] theorem sendVector0_spi : (s.sendVector0).spi = s.spi := by rw [sendVector0_frame]
@[simp] theorem sendVector0_teller : (s.sendVector0).teller = s.teller := by rw [sendVector0_frame]
@[simp] theorem sendVector0_handles : (s.sendVector0).handles = s.handles := by rw [sendVector0_frame]
@[simp] theorem sendVector0_service : (s.sendVector0).service = s.service := by rw [sendVector0_frame]
@[simp] theorem sendVector0_octets : (s.sendVector0).octets = s.octets := by rw [sendVector0_frame]
@[simp] theorem sendVector0_lanes : (s.sendVector0).lanes = s.lanes := by rw [sendVector0_frame]
@[simp] theorem sendVector0_links : (s.sendVector0).links = s.links := by rw [sendVector0_frame]
@[simp] theorem sendVector0_laneHeld : (s.sendVector0).laneHeld = s.laneHeld := by rw [sendVector0_frame]
@[simp] theorem sendVector0_egress : (s.sendVector0).egress = s.egress := by rw [sendVector0_frame]
@[simp] theorem sendVector0_ports : (s.sendVector0).ports = s.ports := by rw [sendVector0_frame]
@[simp] theorem sendVector0_plane : (s.sendVector0).plane = s.plane := by rw [sendVector0_frame]
@[simp] theorem sendVector0_fe : (s.sendVector0).fe = s.fe := by rw [sendVector0_frame]
@[simp] theorem sendVector0_xa : (s.sendVector0).xa = s.xa := by rw [sendVector0_frame]
@[simp] theorem sendVector0_coarse : (s.sendVector0).coarse = s.coarse := by rw [sendVector0_frame]
@[simp] theorem sendVector0_vault : (s.sendVector0).vault = s.vault := by rw [sendVector0_frame]
@[simp] theorem sendVector0_reserve : (s.sendVector0).reserve = s.reserve := by rw [sendVector0_frame]
@[simp] theorem sendVector0_log : (s.sendVector0).log = s.log := by rw [sendVector0_frame]
@[simp] theorem sendVector0_vx : (s.sendVector0).vx = s.vx := by rw [sendVector0_frame]
@[simp] theorem sendVector0_clerks : (s.sendVector0).clerks = s.clerks := by rw [sendVector0_frame]
@[simp] theorem sendVector0_dma : (s.sendVector0).dma = s.dma := by rw [sendVector0_frame]
@[simp] theorem sendVector0_matrix : (s.sendVector0).matrix = s.matrix := by rw [sendVector0_frame]
@[simp] theorem sendVector0_tk : (s.sendVector0).tk = s.tk := by rw [sendVector0_frame]
@[simp] theorem sendVector0_health : (s.sendVector0).health = s.health := by rw [sendVector0_frame]
@[simp] theorem sendVector0_pending : (s.sendVector0).pending = s.pending := by rw [sendVector0_frame]
@[simp] theorem sendVector0_freeCtr : (s.sendVector0).freeCtr = s.freeCtr := by rw [sendVector0_frame]
@[simp] theorem sendVector2_fuse : (s.sendVector2).fuse = s.fuse := by rw [sendVector2_frame]
@[simp] theorem sendVector2_boot : (s.sendVector2).boot = s.boot := by rw [sendVector2_frame]
@[simp] theorem sendVector2_pins : (s.sendVector2).pins = s.pins := by rw [sendVector2_frame]
@[simp] theorem sendVector2_jtag : (s.sendVector2).jtag = s.jtag := by rw [sendVector2_frame]
@[simp] theorem sendVector2_ledger : (s.sendVector2).ledger = s.ledger := by rw [sendVector2_frame]
@[simp] theorem sendVector2_ring : (s.sendVector2).ring = s.ring := by rw [sendVector2_frame]
@[simp] theorem sendVector2_spi : (s.sendVector2).spi = s.spi := by rw [sendVector2_frame]
@[simp] theorem sendVector2_teller : (s.sendVector2).teller = s.teller := by rw [sendVector2_frame]
@[simp] theorem sendVector2_handles : (s.sendVector2).handles = s.handles := by rw [sendVector2_frame]
@[simp] theorem sendVector2_service : (s.sendVector2).service = s.service := by rw [sendVector2_frame]
@[simp] theorem sendVector2_octets : (s.sendVector2).octets = s.octets := by rw [sendVector2_frame]
@[simp] theorem sendVector2_lanes : (s.sendVector2).lanes = s.lanes := by rw [sendVector2_frame]
@[simp] theorem sendVector2_links : (s.sendVector2).links = s.links := by rw [sendVector2_frame]
@[simp] theorem sendVector2_laneHeld : (s.sendVector2).laneHeld = s.laneHeld := by rw [sendVector2_frame]
@[simp] theorem sendVector2_egress : (s.sendVector2).egress = s.egress := by rw [sendVector2_frame]
@[simp] theorem sendVector2_ports : (s.sendVector2).ports = s.ports := by rw [sendVector2_frame]
@[simp] theorem sendVector2_plane : (s.sendVector2).plane = s.plane := by rw [sendVector2_frame]
@[simp] theorem sendVector2_fe : (s.sendVector2).fe = s.fe := by rw [sendVector2_frame]
@[simp] theorem sendVector2_xa : (s.sendVector2).xa = s.xa := by rw [sendVector2_frame]
@[simp] theorem sendVector2_coarse : (s.sendVector2).coarse = s.coarse := by rw [sendVector2_frame]
@[simp] theorem sendVector2_vault : (s.sendVector2).vault = s.vault := by rw [sendVector2_frame]
@[simp] theorem sendVector2_reserve : (s.sendVector2).reserve = s.reserve := by rw [sendVector2_frame]
@[simp] theorem sendVector2_log : (s.sendVector2).log = s.log := by rw [sendVector2_frame]
@[simp] theorem sendVector2_vx : (s.sendVector2).vx = s.vx := by rw [sendVector2_frame]
@[simp] theorem sendVector2_clerks : (s.sendVector2).clerks = s.clerks := by rw [sendVector2_frame]
@[simp] theorem sendVector2_dma : (s.sendVector2).dma = s.dma := by rw [sendVector2_frame]
@[simp] theorem sendVector2_matrix : (s.sendVector2).matrix = s.matrix := by rw [sendVector2_frame]
@[simp] theorem sendVector2_tk : (s.sendVector2).tk = s.tk := by rw [sendVector2_frame]
@[simp] theorem sendVector2_health : (s.sendVector2).health = s.health := by rw [sendVector2_frame]
@[simp] theorem sendVector2_pending : (s.sendVector2).pending = s.pending := by rw [sendVector2_frame]
@[simp] theorem sendVector2_freeCtr : (s.sendVector2).freeCtr = s.freeCtr := by rw [sendVector2_frame]
@[simp] theorem noticeFlags_fuse (s' : State) : (noticeFlags s s').fuse = s'.fuse := by rw [noticeFlags_frame]
@[simp] theorem noticeFlags_boot (s' : State) : (noticeFlags s s').boot = s'.boot := by rw [noticeFlags_frame]
@[simp] theorem noticeFlags_pins (s' : State) : (noticeFlags s s').pins = s'.pins := by rw [noticeFlags_frame]
@[simp] theorem noticeFlags_jtag (s' : State) : (noticeFlags s s').jtag = s'.jtag := by rw [noticeFlags_frame]
@[simp] theorem noticeFlags_ledger (s' : State) : (noticeFlags s s').ledger = s'.ledger := by rw [noticeFlags_frame]
@[simp] theorem noticeFlags_ring (s' : State) : (noticeFlags s s').ring = s'.ring := by rw [noticeFlags_frame]
@[simp] theorem noticeFlags_spi (s' : State) : (noticeFlags s s').spi = s'.spi := by rw [noticeFlags_frame]
@[simp] theorem noticeFlags_teller (s' : State) : (noticeFlags s s').teller = s'.teller := by rw [noticeFlags_frame]
@[simp] theorem noticeFlags_handles (s' : State) : (noticeFlags s s').handles = s'.handles := by rw [noticeFlags_frame]
@[simp] theorem noticeFlags_service (s' : State) : (noticeFlags s s').service = s'.service := by rw [noticeFlags_frame]
@[simp] theorem noticeFlags_octets (s' : State) : (noticeFlags s s').octets = s'.octets := by rw [noticeFlags_frame]
@[simp] theorem noticeFlags_lanes (s' : State) : (noticeFlags s s').lanes = s'.lanes := by rw [noticeFlags_frame]
@[simp] theorem noticeFlags_links (s' : State) : (noticeFlags s s').links = s'.links := by rw [noticeFlags_frame]
@[simp] theorem noticeFlags_laneHeld (s' : State) : (noticeFlags s s').laneHeld = s'.laneHeld := by rw [noticeFlags_frame]
@[simp] theorem noticeFlags_egress (s' : State) : (noticeFlags s s').egress = s'.egress := by rw [noticeFlags_frame]
@[simp] theorem noticeFlags_ports (s' : State) : (noticeFlags s s').ports = s'.ports := by rw [noticeFlags_frame]
@[simp] theorem noticeFlags_plane (s' : State) : (noticeFlags s s').plane = s'.plane := by rw [noticeFlags_frame]
@[simp] theorem noticeFlags_fe (s' : State) : (noticeFlags s s').fe = s'.fe := by rw [noticeFlags_frame]
@[simp] theorem noticeFlags_xa (s' : State) : (noticeFlags s s').xa = s'.xa := by rw [noticeFlags_frame]
@[simp] theorem noticeFlags_coarse (s' : State) : (noticeFlags s s').coarse = s'.coarse := by rw [noticeFlags_frame]
@[simp] theorem noticeFlags_vault (s' : State) : (noticeFlags s s').vault = s'.vault := by rw [noticeFlags_frame]
@[simp] theorem noticeFlags_reserve (s' : State) : (noticeFlags s s').reserve = s'.reserve := by rw [noticeFlags_frame]
@[simp] theorem noticeFlags_log (s' : State) : (noticeFlags s s').log = s'.log := by rw [noticeFlags_frame]
@[simp] theorem noticeFlags_vx (s' : State) : (noticeFlags s s').vx = s'.vx := by rw [noticeFlags_frame]
@[simp] theorem noticeFlags_clerks (s' : State) : (noticeFlags s s').clerks = s'.clerks := by rw [noticeFlags_frame]
@[simp] theorem noticeFlags_dma (s' : State) : (noticeFlags s s').dma = s'.dma := by rw [noticeFlags_frame]
@[simp] theorem noticeFlags_matrix (s' : State) : (noticeFlags s s').matrix = s'.matrix := by rw [noticeFlags_frame]
@[simp] theorem noticeFlags_tk (s' : State) : (noticeFlags s s').tk = s'.tk := by rw [noticeFlags_frame]
@[simp] theorem noticeFlags_health (s' : State) : (noticeFlags s s').health = s'.health := by rw [noticeFlags_frame]
@[simp] theorem noticeFlags_pending (s' : State) : (noticeFlags s s').pending = s'.pending := by rw [noticeFlags_frame]
@[simp] theorem noticeFlags_freeCtr (s' : State) : (noticeFlags s s').freeCtr = s'.freeCtr := by rw [noticeFlags_frame]

end Sys2Proof.Laws
end

