-- ==== Sys2Proof/Laws/Teller.lean ====
section
/-! SUPPORT. What the shared operations of the Teller can do: posting a reply, recording a commit, and running one
command of a source. Provers cite these and unfold none of it. -/
namespace Sys2Proof.Laws
open Sys2Proof.Machine

/-- EVENT_FLAGS that did not rise send no vector. -/
theorem noticeFlags_same (s s' : State) (h : s'.eventFlags = s.eventFlags) : noticeFlags s s' = s' := by
  unfold noticeFlags
  rw [h]
  simp

/-- EVENT_FLAGS depend on these parts only. -/
theorem eventFlags_congr (s s' : State) (h : s'.health.events = s.health.events) (ht : s'.health.throttle = s.health.throttle)
    (hc : s'.teller.channels = s.teller.channels) (hs : s'.teller.safe = s.teller.safe) (hk : s'.tk.state = s.tk.state)
    (hx : s'.xa = s.xa) (hv : s'.vault.auditHold = s.vault.auditHold) : s'.eventFlags = s.eventFlags := by
  simp [State.eventFlags, State.degraded, State.holdover, h, ht, hc, hs, hk, hx, hv]

/-- A reply on the path of a source touches that path only. -/
theorem post_frame (src : Source) (n l : Bool) (f : Bool → List Byte) (s : State) :
    s.post src n l f = { s with
      ring := (s.post src n l f).ring, spi := (s.post src n l f).spi, host := (s.post src n l f).host,
      out := (s.post src n l f).out, ports := (s.post src n l f).ports, health := (s.post src n l f).health } := by
  unfold State.post
  split
  · rfl
  · split
    · unfold State.ringReply
      split
      · rfl
      · dsimp only
        split
        · unfold State.sendVector0
          split
          · rfl
          · dsimp only
            rw [sendVector_frame]
            rfl
        · rfl
    · rfl
    · unfold State.fabricReply
      dsimp only
      split <;> rfl

/-- A reply changes nothing of the Teller. -/
@[simp] theorem post_teller (src : Source) (n l : Bool) (f : Bool → List Byte) (s : State) :
    (s.post src n l f).teller = s.teller := by rw [post_frame]

/-- A reply of a command changes only its path. -/
theorem reply_frame (p : Pkt) (final : Bool) (r : Res) (s : State) :
    p.reply final r s = { s with
      ring := (p.reply final r s).ring, spi := (p.reply final r s).spi, host := (p.reply final r s).host,
      out := (p.reply final r s).out, ports := (p.reply final r s).ports, health := (p.reply final r s).health } := by
  unfold Pkt.reply
  dsimp only
  rw [← post_frame]

/-- Taking the head of a source changes the Teller and the SPI queues only. -/
theorem pop_frame (src : Source) (s : State) :
    s.pop src = { s with teller := (s.pop src).teller, spi := (s.pop src).spi } := by
  cases src <;> rfl

/-- Taking the head of a source is no commit. -/
@[simp] theorem pop_commits (src : Source) (s : State) : (s.pop src).teller.commits = s.teller.commits := by
  cases src <;> rfl

/-- A turn runs the packet against its body on the state without it. -/
theorem runOp_turn {op : Nat} {body : Pkt → State → Body} {src : Source} {wr : Bool} {image : ReadResult} {p : Pkt} {s : State}
    (h : Turn op src wr image p s) : runOp op body src wr image s = p.run (body p (s.pop src)) (s.pop src) := by
  obtain ⟨h1, h2, h3, h4⟩ := h
  simp [runOp, h1, h2, h3, h4]

/-- An accepted command with nothing to wait for: effect, commit record, final reply. -/
theorem run_done {p : Pkt} {body : Body} {s s' : State} {r : Res} (h : p.refusal body s = none)
    (he : body.effect s = (s', r, .done)) : p.run body s = p.reply true r (s'.record p r.status) := by
  simp [Pkt.run, h, he]

/-- The packet of a turn comes from the source. -/
theorem turn_src {op : Nat} {src : Source} {wr : Bool} {image : ReadResult} {p : Pkt} {s : State}
    (h : Turn op src wr image p s) : p.src = src := by
  obtain ⟨h1, -, -, -⟩ := h
  unfold State.pktOf at h1
  cases hh : s.head? src with
  | none => simp [hh] at h1
  | some c => rw [hh] at h1; simp at h1; rw [← h1]

/-- A part that every step of a fold keeps is kept by the fold. -/
theorem foldl_keeps {σ α β : Type} (proj : σ → β) (f : σ → α → σ) (hf : ∀ s x, proj (f s x) = proj s) (l : List α) (s : σ) :
    proj (l.foldl f s) = proj s := by
  induction l generalizing s with
  | nil => rfl
  | cons a t ih => rw [List.foldl_cons, ih, hf]

@[simp] theorem pop_fuse (src : Source) (s : State) : (s.pop src).fuse = s.fuse := by cases src <;> rfl
@[simp] theorem pop_pending (src : Source) (s : State) : (s.pop src).pending = s.pending := by cases src <;> rfl
@[simp] theorem pop_ledger (src : Source) (s : State) : (s.pop src).ledger = s.ledger := by cases src <;> rfl
@[simp] theorem pop_plane (src : Source) (s : State) : (s.pop src).plane = s.plane := by cases src <;> rfl
@[simp] theorem pop_lanes (src : Source) (s : State) : (s.pop src).lanes = s.lanes := by cases src <;> rfl
@[simp] theorem pop_ports (src : Source) (s : State) : (s.pop src).ports = s.ports := by cases src <;> rfl
@[simp] theorem pop_handles (src : Source) (s : State) : (s.pop src).handles = s.handles := by cases src <;> rfl
@[simp] theorem pop_port (src : Source) (s : State) (n : Nat) : (s.pop src).port n = s.port n := by cases src <;> rfl
@[simp] theorem pop_keySlot (src : Source) (s : State) (n : Nat) : (s.pop src).keySlot n = s.keySlot n := by cases src <;> rfl
@[simp] theorem pop_ledgerImage (src : Source) (s : State) : (s.pop src).ledgerImage = s.ledgerImage := by cases src <;> rfl
@[simp] theorem reply_fuse (p : Pkt) (final : Bool) (r : Res) (s : State) : (p.reply final r s).fuse = s.fuse := by rw [reply_frame]
@[simp] theorem reply_pending (p : Pkt) (final : Bool) (r : Res) (s : State) : (p.reply final r s).pending = s.pending := by rw [reply_frame]
@[simp] theorem reply_teller (p : Pkt) (final : Bool) (r : Res) (s : State) : (p.reply final r s).teller = s.teller := by rw [reply_frame]

/-- The outcome of a command whose effect and reply are given. -/
theorem ran_outcome {p : Pkt} {s u : State} {r : Res} :
    settleFlags s (p.reply true r (u.record p r.status)) = .next (replied s p r u) := rfl

/-- The outcome of an accepted command with nothing to wait for. -/
theorem done_outcome {op : Nat} {body : Pkt → State → Body} {src : Source} {wr : Bool} {image : ReadResult} {p : Pkt}
    {s u : State} {r : Res} (h : Accepted op body src wr image p s)
    (he : (body p (s.pop src)).effect (s.pop src) = (u, r, .done)) :
    settleFlags s (runOp op body src wr image s) = .next (replied s p r u) := by
  rw [runOp_turn h.1, run_done h.2 he]
  rfl

/-- The outcome of an accepted command that waits. -/
theorem wait_outcome {op : Nat} {body : Pkt → State → Body} {src : Source} {wr : Bool} {image : ReadResult} {p : Pkt}
    {s u : State} {r : Res} {w : Wait} (h : Accepted op body src wr image p s)
    (he : (body p (s.pop src)).effect (s.pop src) = (u, r, .wait w)) :
    settleFlags s (runOp op body src wr image s) = .next (queued s p r w u) := by
  rw [runOp_turn h.1]
  simp only [Pkt.run, h.2, he]
  rfl

/-- The outcome of an accepted DEFERRED command that completes at once. -/
theorem final_outcome {op : Nat} {body : Pkt → State → Body} {src : Source} {wr : Bool} {image : ReadResult} {p : Pkt}
    {s u : State} {r f : Res} (h : Accepted op body src wr image p s)
    (he : (body p (s.pop src)).effect (s.pop src) = (u, r, .final f)) :
    settleFlags s (runOp op body src wr image s) = .next (repliedTwice s p r f u) := by
  rw [runOp_turn h.1]
  simp only [Pkt.run, h.2, he]
  rfl

/-- A vector adds to the outputs. -/
theorem sendVector_out (v : Nat) (s : State) (o : Output) (h : o ∈ s.out) : o ∈ (s.sendVector v).out := by
  unfold State.sendVector
  split
  · exact h
  · split
    · exact h
    · exact List.mem_append_left _ h

theorem sendVector0_out (s : State) (o : Output) (h : o ∈ s.out) : o ∈ s.sendVector0.out := by
  unfold State.sendVector0
  split
  · exact h
  · exact sendVector_out 0 s o h

theorem sendVector2_out (s : State) (o : Output) (h : o ∈ s.out) : o ∈ s.sendVector2.out := by
  unfold State.sendVector2
  split
  · exact h
  · exact sendVector_out 2 s o h

/-- A notice adds to the outputs. -/
theorem noticeFlags_out (s s' : State) (o : Output) (h : o ∈ s'.out) : o ∈ (noticeFlags s s').out := by
  unfold noticeFlags
  split
  · exact sendVector2_out s' o h
  · exact h

/-- A reply to the ring of a link that is up: a write at RPL_TAIL. -/
theorem ringReply_out (n : Bool) (f : Bool → List Byte) (s : State) (h : s.host.linkUp = true) :
    Output.hostWrite (s.rplAddr s.ring.rplTail) (f (decide (s.ring.rplTail.toNat < 4096))) ∈ (s.ringReply n f).out := by
  unfold State.ringReply
  rw [h]
  dsimp only [Bool.not_true]
  split
  · contradiction
  · split
    · exact sendVector0_out _ _ (by simp [State.emit])
    · simp [State.emit]

theorem ringReply_tail (n : Bool) (f : Bool → List Byte) (s : State) (h : s.host.linkUp = true) :
    (s.ringReply n f).ring.rplTail = s.ring.rplTail + 1 := by
  unfold State.ringReply
  rw [h]
  dsimp only [Bool.not_true]
  split
  · contradiction
  · split
    · simp
    · rfl

/-- What delivering bulk data leaves alone, and how many bytes it takes (R325, R357). -/
theorem deliver_spec (p : Pkt) (oa ol : Nat) (part : List Byte) (s : State) (hd : (p.deliver oa ol part s).2.2.2 = false) :
    (p.deliver oa ol part s).1.fuse = s.fuse ∧ (p.deliver oa ol part s).1.pending = s.pending ∧
    (p.deliver oa ol part s).2.1 = min (p.room ol) part.length ∧
    (p.deliver oa ol part s).2.2.1 = part.length - min (p.room ol) part.length := by
  unfold Pkt.deliver at *
  generalize hm : min (p.room ol) part.length = m at *
  cases hs : p.src with
  | ring =>
    rw [hs] at hd
    cases hw : p.wr with
    | true =>
      by_cases hz : m = 0 <;> simp [hz]
    | false => rw [hw] at hd; simp at hd
  | spi => simp
  | fabric q =>
    have : m = 0 := by rw [← hm]; simp [Pkt.room, hs]
    simp [this]

/-- A command that is not refused passes every check of its opcode. -/
theorem checks_none {p : Pkt} {body : Body} {s : State} (h : p.refusal body s = none) : ∀ c ∈ body.checks, c = none := by
  unfold Pkt.refusal stallRefusal at h
  intro c hc
  have key : ∀ l : List (Option Res), firstFailure l = none → ∀ x ∈ l, x = none := by
    intro l hl x hx
    simpa using List.findSome?_eq_none_iff.1 hl x hx
  split at h
  · split at h
    · split at h <;> simp_all
    · simp at h
  · refine key _ h c ?_
    simp [hc]

/-- A change of the Ledger only marks the commit. -/
@[simp] theorem ledgerChange_keys (s : State) : s.ledgerChange.ledger.keys = s.ledger.keys := rfl

end Sys2Proof.Laws
end

