-- ==== Sys2Proof/Laws/Ports.lean ====
section
/-! SUPPORT. What the operations on fabric ports can do: a port that changes state touches the ports, the Timekeeper's choice
of source and the Statement only, and of the ports only itself. -/
namespace Sys2Proof.Laws
open Sys2Proof.Machine

/-- The state without its ports, Timekeeper and Statement. -/
def besidePorts (s : State) : State := { s with ports := [], tk := {}, health := {} }

theorem portTo_beside (p : Nat) (st : PortState) (q : Bool) (s : State) : besidePorts (s.portTo p st q) = besidePorts s := by
  unfold State.portTo
  dsimp only
  split
  · rfl
  · repeat' split
    all_goals rfl

theorem portEval_beside (p : Nat) (s : State) : besidePorts (s.portEval p) = besidePorts s := by
  unfold State.portEval
  split
  · rfl
  · exact portTo_beside _ _ _ _

theorem evalPorts_beside (s : State) : besidePorts s.evalPorts = besidePorts s :=
  foldl_keeps besidePorts (fun s p => s.portEval p) (fun s p => portEval_beside p s) _ _

/-- A port's change of state leaves every other port alone. -/
theorem portTo_other (p n : Nat) (st : PortState) (q : Bool) (s : State) (h : n ≠ p) : (s.portTo p st q).port n = s.port n := by
  have key : ∀ f : Port → Port, (s.ports.modify p f).getD n {} = s.ports.getD n {} := by
    intro f
    simp [List.getD_eq_getElem?_getD, Ne.symm h]
  unfold State.portTo
  dsimp only
  split
  · rfl
  · repeat' split
    all_goals exact key _

theorem portEval_other (p n : Nat) (s : State) (h : n ≠ p) : (s.portEval p).port n = s.port n := by
  unfold State.portEval
  split
  · rfl
  · exact portTo_other _ _ _ _ _ h

/-- A port's change of state leaves its expected-peer entry alone. -/
theorem portTo_entry (p n : Nat) (st : PortState) (q : Bool) (s : State) : ((s.portTo p st q).port n).entry = (s.port n).entry := by
  by_cases h : n = p
  · subst h
    have key : ∀ (l : List Port) (x : Port), x.entry = (l.getD n {}).entry → ((l.modify n fun _ => x).getD n {}).entry = (l.getD n {}).entry := by
      intro l x hx
      simp only [List.getD_eq_getElem?_getD, List.getElem?_modify] at *
      cases hy : l[n]? with
      | none => rfl
      | some y => rw [hy] at hx; simpa using hx
    unfold State.portTo
    dsimp only
    split
    · rfl
    · repeat' split
      all_goals exact key _ _ rfl
  · rw [portTo_other _ _ _ _ _ h]

theorem portEval_entry (p n : Nat) (s : State) : ((s.portEval p).port n).entry = (s.port n).entry := by
  unfold State.portEval
  split
  · rfl
  · exact portTo_entry _ _ _ _ _

end Sys2Proof.Laws
end

