-- ==== Sys2Proof/Laws/Line.lean ====
section
/-! SUPPORT. What the line layer and the bus matrix can do: giving packets to a transmitter, counting what arrives and sending blocks
touch ports, lanes, octets and what leaves; a grant without a waiting request occupies its port only. -/
namespace Sys2Proof.Laws
open Sys2Proof.Machine

/-- The state without its lanes, octets, ports and what it has put out. -/
def besideLine (s : State) : State := { s with lanes := [], octets := [], ports := [], out := [] }

theorem countUnsound_beside (p : Nat) (v : Sound) (s : State) : besideLine (s.countUnsound p v) = besideLine s := by
  cases v <;> rfl

theorem portDiscard_beside (p : Nat) (t : Option Nat) (s : State) : besideLine (s.portDiscard p t) = besideLine s := by
  unfold State.portDiscard
  dsimp only
  rw [countUnsound_beside]
  split <;> rfl

/-- R109: an urgent packet given to a port waits there, or is counted. -/
theorem sendUrgent_cases (p : Nat) (trig : Bool) (b : List Byte) (s : State) :
    (s.urgentFull p = true ∧ s.sendUrgent p trig b = s.countPort p fun c => { c with ctrlDrop := satAdd 32 c.ctrlDrop 1 }) ∨
    (s.urgentFull p = false ∧ s.sendUrgent p trig b = (s.updTx p fun t => t.addUrgent trig (frameBlocks true false b)).emit (.fabric p b)) := by
  unfold State.sendUrgent
  cases s.urgentFull p <;> simp

theorem sendUrgent_beside (p : Nat) (trig : Bool) (b : List Byte) (s : State) : besideLine (s.sendUrgent p trig b) = besideLine s := by
  obtain ⟨-, h⟩ | ⟨-, h⟩ := sendUrgent_cases p trig b s <;> rw [h] <;> rfl

theorem sendBulk_beside (p rank : Nat) (b : List Byte) (s : State) : besideLine (s.sendBulk p rank b) = besideLine s := rfl

/-- R108: the blocks of an urgent packet go before every other block. -/
theorem nextBlock_urgent (t : PortTx) (credit b : Block) (l : List Block) (h : t.urgentNow = b :: l) :
    t.nextBlock credit = (b, { t with urgentNow := l }) := by
  unfold PortTx.nextBlock
  rw [h]

theorem laneSend_beside (i : Nat) (b : Block) (m : Bool) (s : State) : besideLine (s.laneSend i b m) = besideLine s := by
  unfold State.laneSend
  dsimp only
  split <;> rfl

theorem sendColumn_beside (p : Nat) (s : State) : besideLine (s.sendColumn p) = besideLine s := by
  unfold State.sendColumn
  dsimp only
  rw [foldl_keeps besideLine _ (fun s (e : Block × Nat) => laneSend_beside _ _ _ s)]
  rfl

theorem sendOctet_beside (o : Nat) (s : State) : besideLine (s.sendOctet o) = besideLine s := by
  unfold State.sendOctet
  dsimp only
  split
  · exact foldl_keeps besideLine _ (fun s i => laneSend_beside _ _ _ s) _ _
  · exact sendColumn_beside _ _
  · refine foldl_keeps besideLine _ (fun s i => ?_) _ _
    split <;> exact laneSend_beside _ _ _ _
  · rfl

theorem octetTick_beside (o : Nat) (s : State) : besideLine (s.octetTick o) = besideLine s := by
  unfold State.octetTick
  dsimp only
  repeat' split
  all_goals first | rfl | exact sendOctet_beside _ _

/-- A tick of the lines touches lanes, octets, ports and what leaves. -/
theorem lineTick_beside (s : State) : besideLine s.lineTick = besideLine s := by
  unfold State.lineTick
  split
  · rfl
  · exact foldl_keeps besideLine _ (fun s o => octetTick_beside o s) _ _

/-- R469: where no request waits, a grant occupies its port and changes nothing else. -/
theorem granted_alone (m : Master) (write : Bool) (a n : Nat) (s : State) (h : s.matrix.waiting = []) :
    s.granted m write a n = s.parkOn (portOf m write a) m n := by
  simp [State.granted, State.grantAhead, h]

end Sys2Proof.Laws
end

