-- ==== Sys2Proof/Laws/Memory.lean ====
section
/-! SUPPORT. The sparse memories of the model: reads after writes, and the canonical form that every operation of
Machine/Ops.lean keeps. -/
namespace Sys2Proof.Laws
open Sys2Proof.Machine

variable {α : Type} [DecidableEq α]

/-- Every entry of a memory in canonical form differs from what an unlisted address holds. -/
theorem memory_wf_cons (d : α) (a : Nat) (v : α) (t : Mem α) :
    Memory.wf d ((a, v) :: t) = true ↔ v ≠ d ∧ (∀ e ∈ t, a < e.1) ∧ Memory.wf d t = true := by
  simp [Memory.wf, bne_iff_ne, and_assoc]

/-- The empty memory is in canonical form. -/
@[simp] theorem memory_wf_nil (d : α) : Memory.wf d ([] : Mem α) = true := rfl

/-- A read of the address just written answers the value written. -/
theorem memory_get_set_same (d : α) (m : Mem α) (a : Nat) (v : α) (h : Memory.wf d m = true) :
    Memory.get d (Memory.set d m a v) a = v := by
  induction m with
  | nil => unfold Memory.set; split <;> simp_all [Memory.get]
  | cons e t ih =>
    obtain ⟨b, w⟩ := e
    obtain ⟨-, lt, wt⟩ := (memory_wf_cons d b w t).1 h
    have miss : ∀ l : Mem α, (∀ e ∈ l, a < e.1) → Memory.get d l a = d := by
      intro l hl
      induction l with
      | nil => rfl
      | cons e l ihl =>
        have := hl e (by simp)
        simp only [Memory.get, if_neg (Nat.ne_of_lt this)]
        exact ihl fun e he => hl e (by simp [he])
    unfold Memory.set
    split
    · rename_i hab
      split
      · subst_vars
        exact miss _ (by
          intro e he
          cases he with
          | head => exact hab
          | tail _ he => exact Nat.lt_trans hab (lt e he))
      · simp [Memory.get]
    · split
      · subst_vars
        split
        · subst_vars; exact miss t lt
        · simp [Memory.get]
      · rename_i hn
        simp only [Memory.get, if_neg hn]
        exact ih wt

/-- A write leaves every other address alone. -/
theorem memory_get_set_other (d : α) (m : Mem α) (a b : Nat) (v : α) (h : b ≠ a) :
    Memory.get d (Memory.set d m a v) b = Memory.get d m b := by
  induction m with
  | nil => unfold Memory.set; split <;> simp [Memory.get, h]
  | cons e t ih =>
    obtain ⟨c, w⟩ := e
    unfold Memory.set
    split
    · split <;> simp [Memory.get, h]
    · split
      · rename_i hac
        subst hac
        split <;> simp [Memory.get, h]
      · simp only [Memory.get]
        split
        · rfl
        · exact ih

/-- The addresses of a memory after a write were there before or are the one written. -/
theorem memory_set_mem (d : α) (m : Mem α) (a : Nat) (v : α) (e : Nat × α) (h : e ∈ Memory.set d m a v) :
    e.1 = a ∨ e ∈ m := by
  induction m with
  | nil => unfold Memory.set at h; split at h <;> simp_all
  | cons f t ih =>
    obtain ⟨c, w⟩ := f
    unfold Memory.set at h
    split at h
    · split at h
      · exact Or.inr h
      · cases h with
        | head => exact Or.inl rfl
        | tail _ h => exact Or.inr h
    · split at h
      · split at h
        · exact Or.inr (List.mem_cons_of_mem _ h)
        · cases h with
          | head => exact Or.inl rfl
          | tail _ h => exact Or.inr (List.mem_cons_of_mem _ h)
      · cases h with
        | head => exact Or.inr (by simp)
        | tail _ h =>
          rcases ih h with h | h
          · exact Or.inl h
          · exact Or.inr (List.mem_cons_of_mem _ h)

/-- A write keeps the canonical form. -/
theorem memory_set_wf (d : α) (m : Mem α) (a : Nat) (v : α) (h : Memory.wf d m = true) :
    Memory.wf d (Memory.set d m a v) = true := by
  induction m with
  | nil =>
    unfold Memory.set
    split
    · rfl
    · rename_i hv
      exact (memory_wf_cons d a v []).2 ⟨hv, by simp, rfl⟩
  | cons e t ih =>
    obtain ⟨b, w⟩ := e
    obtain ⟨hw, lt, wt⟩ := (memory_wf_cons d b w t).1 h
    unfold Memory.set
    split
    · rename_i hab
      split
      · exact h
      · rename_i hv
        refine (memory_wf_cons d a v _).2 ⟨hv, ?_, h⟩
        intro e he
        cases he with
        | head => exact hab
        | tail _ he => exact Nat.lt_trans hab (lt e he)
    · split
      · subst_vars
        split
        · exact wt
        · rename_i hv
          exact (memory_wf_cons d b v t).2 ⟨hv, lt, wt⟩
      · rename_i h1 h2
        refine (memory_wf_cons d b w _).2 ⟨hw, ?_, ih wt⟩
        intro e he
        rcases memory_set_mem d t a v e he with hea | het
        · omega
        · exact lt e het

/-- A write of a range keeps the canonical form. -/
theorem memory_setRange_wf (d : α) (m : Mem α) (a : Nat) (l : List α) (h : Memory.wf d m = true) :
    Memory.wf d (Memory.setRange d m a l) = true := by
  induction l generalizing m a with
  | nil => exact h
  | cons v t ih => exact ih _ _ (memory_set_wf d m a v h)

/-- Dropping entries keeps the canonical form. -/
theorem memory_filter_wf (d : α) (m : Mem α) (p : Nat × α → Bool) (h : Memory.wf d m = true) :
    Memory.wf d (m.filter p) = true := by
  induction m with
  | nil => rfl
  | cons e t ih =>
    obtain ⟨b, w⟩ := e
    obtain ⟨hw, lt, wt⟩ := (memory_wf_cons d b w t).1 h
    simp only [List.filter_cons]
    split
    · refine (memory_wf_cons d b w _).2 ⟨hw, ?_, ih wt⟩
      intro e he
      exact lt e (List.mem_filter.1 he).1
    · exact ih wt

/-- Clearing a range keeps the canonical form. -/
theorem memory_clear_wf (d : α) (m : Mem α) (lo hi : Nat) (h : Memory.wf d m = true) :
    Memory.wf d (Memory.clear m lo hi) = true := memory_filter_wf d m _ h

end Sys2Proof.Laws
end

