-- ==== Sys2Proof/Tests/Slice0.lean ====
section
/-! SUPPORT. Tests: an ill-formed command for each check of WellFormed, values worked out in spec/, and, for every statement of
Certificates/Slice0/Obligations.lean that has hypotheses, states and operands that meet them, clause by clause (`meets_…`). -/
set_option maxRecDepth 100000
namespace Sys2Proof.Tests
set_option Elab.async false
open Sys2Proof Sys2Proof.Machine

/-! ### Ill-formed commands -/

theorem wf_refuses : ([
    .reserveTrainingDone [], .pcieCompletion (.dma 64) .failed, .nop (.fabric 64), .eyeScanComplete 512 0 0 0 0, .eyeScanComplete 0 33 0 0 0, .eyeScanComplete 0 0 0 0 32, .dmaHead 64 0,
    .matrixBurst (.write .teller 0 [1] [] true), .matrixBurst (.read (.dma 4) 0 4 .failed), .matrixBurst (.overrun 18 0 1),
    .matrixBurst (.overrun 0 0 0), .matrixBurst (.dmaPiece 64 .failed true), .matrixTimeout .teller 16 0 false, .pllLockTimeout 64,
    .blockLock 512 0, .lockLoss 0 65, .dataReceive 0 (.stretch (List.replicate 9 [])), .multiblockRelease 512 [] [] true, .creditSend 64, .mapTakeEffect 16, .frameBoundary 512, .slotPack 0 (2 ^ 48),
    .slotStart 16 0, .parityError 0 (.fir 16), .coeffReload (.pfb 16), .trigInEdge 4 10, .trigOutPulseEnd 4,
    .passEnd { handle := 0, subint := 0, piece := 0, chan := 0, strip := 0, brick := 0, rank := 16, col := 0 } false,
    .datagramCloseTimeout 512 1, .spareMap 132 true, .refreshDue 8 0, .refreshDue 0 2, .patrol 8 0 [], .auditorVisit 2 0, .auditorVisit 0 64,
    .pageRelocate 65536, .tellerWatchdogExpiry 3, .healthRecordPost 512, .monitorSample [], .waitResume (.vx 2), .waitResume (.clerk 16),
    .vxHalt 2 { stage := 0, pred := 0, d := 0, a := 0, b := 0, imm7 := 0 },
    .clerkHalt 16 { dst := 0, s1 := 0, s2 := 0, imm := 0, mx := 0, my := 0 },
    .tkResync [0, 0], .scheduleFire 64, .syncOutPulseEnd 8, .cdcStall 18 none, .msixUnmask 64] : List Instr).all (fun i => !i.wf) = true := by
  decide +kernel

/-! ### Values that spec/ works out -/

/-- 00_scope.md, Example: encoding and comparing times. -/
theorem test_times :
    fullOf (le 4 0x00008000 ++ le 4 0x0EE6B280 ++ le 4 0x00015180 ++ le 4 0) 0 = some (ticksOf 86400 250000000 0x8000) ∧
    shortTime false false (ticksOf 86400 250000000 0x8000) = 0x0EE6B28000015180 ∧
    shortDiff (BitVec.ofNat 64 (100 * 2 ^ 32 + 5)) (BitVec.ofNat 64 (999999900 * 2 ^ 32 + 0xFFFFFFFE)) = 6000000200 := by
  decide +kernel

/-- 08_vector_engine_and_clerks.md, Example: cancellation between three compact records: the binary32 sums in both orders, and
the exact one. -/
theorem test_cancellation :
    (fpAdd (fpAdd 0x4C000001 0x40400000).1 0xCC000000).1 = 0x41000000 ∧ (fpAdd (fpAdd 0x4C000001 0xCC000000).1 0x40400000).1 = 0x40E00000 := by
  decide +kernel

/-- No word of the table spells a command. -/
theorem test_no_words : decodeTableWord 8 0 = none ∧ decodeTableWord 128 5 = none := by
  decide +kernel

/-! ### Small states -/

/-- The units of a package of variant A that passed its BIST. -/
def allUsable : Usable :=
  { tiles := List.replicate 132 true, clerks := List.replicate 16 true, dma := List.replicate 4 true, teller := List.replicate 3 true
    dies := List.replicate 2 true, resCh := List.replicate 8 true, octets := List.replicate 64 true, beamformer := true
    trigger := true, reserve := true }

/-- A package in service, 4 s after the epoch. -/
def up : State :=
  { State.reset with
    boot := { phase := .up, bistDone := true, tkrefDone := true, trained := true, image := some 0 }
    pins := { vddAo := true, resetN := true, pwrOk := true, perstN := true }
    ledger := { firstDone := true, usable := allUsable }
    teller := { channels := [{ st := .lead }, { st := .check }, { st := .check }] }
    tk := { cnt := [4000000000 * 2 ^ 64, 4000000000 * 2 ^ 64, 4000000000 * 2 ^ 64] }
    host := { State.reset.host with linkUp := true } }

/-- A command of so many words: opcode, flags, tag 7, target, then its parameters. -/
def cmd (op target : Nat) (params : List Byte) (flags : Nat := 0) : List Byte :=
  let b := pad4 params
  le 1 op ++ le 1 flags ++ le 2 (4 + b.length / 4) ++ le 4 7 ++ le 4 target ++ le 4 0 ++ b

/-- The state with one command waiting on the SPI port, and its packet. -/
def spi (b : List Byte) (s : State) : State := { s with spi := { s.spi with cmdQ := [{ src := .spi, bytes := b }] } }
def pkt (b : List Byte) : Pkt := { src := .spi, b := b, commitAt := up.now }

/-- A stream of two groups and 256 channels at 100 MHz whose channels are all peer 3's. -/
def stream0 : StreamDesc :=
  { id := 0, wide := false, firstGroup := 0, ngroups := 2, nchan := 256, dmLog2 := 9, emitDelay := 1000, lateness := 10000, fsKhz := 100000
    epoch := 0, source := [3, 5], runs := [(0, 3)], image := [] }

/-- A package in plane 9 as peer 3, its port 2 to peer 5 UP, with a CMD key in slot 0 and a TRIG key in slot 1. -/
def linked : State :=
  { up with
    ledger := { up.ledger with keys :=
      [{ state := 1, usage := 1, key := List.replicate 16 7, handle := mkHandle 7 1 0 },
       { state := 1, usage := 2, key := List.replicate 16 9, handle := mkHandle 7 1 1 }] ++ List.replicate 14 {} }
    plane := { joined := true, planeId := 9, peerId := 3 }
    octets := (List.replicate 64 {}).set 2 { role := 2 }
    lanes := List.replicate 512 { word := 0 }
    ports := (List.replicate 64 {}).set 2
      { entry := { peer := 5, bound := true, cmdSlot := 0, trigSlot := 1 }, state := .up, aligned := true } }

/-- That package with the stream in its map. -/
def mapped : State :=
  { linked with plane := { linked.plane with map := some { gen := 1, streams := [stream0] }, starts := [(0, 0)] } }

/-- The state with one input taking samples of converter 0 of link 0. -/
def inputMap : InMap := { link := 0, conv := 0, iq := false, ovr := false, n := 12, stream := some 0, gid := 0 }
def sampling (x : FeInput) : State :=
  { mapped with
    links := [{ first := 0, l := 1, m := 1, nprime := 16, s := 1, e := 1, subclass1 := false, rbd := 0, linkDelay := 0, fsKhz := 100000
                aligned := true }]
    fe := { mapped.fe with inputs := mapped.fe.inputs.set 0 { x with map := some inputMap } } }

/-- A correlation product of channel 0 and both groups of the stream, 512 channel samples a sub-integration. -/
def hx : Handle := mkHandle 1 1 0
def prod : Xprod :=
  { stream := 0, flags := 0, egress := 8, firstGroup := 0, ngroups := 2, firstChan := 0, nchan := 1, tsub := 512, k := 2, ptag := 70, origin := 0
    seed := 0, owner := 0, block := List.replicate 48 0, wide := false, cols := [some 0], ringId := 0, statePages := [1], startSlot := 8
    next := (1, 0) }
def ring0 : CtRing :=
  { id := 0, stream := 0, firstGroup := 0, ngroups := 2, firstChan := 0, nchan := 1, c := 1, wide := false, epoch := 0, q := 16, pages := [0]
    users := [hx] }

/-- The mapped package with a product in a state; lane 8 is an egress port. -/
def running (st : HState) (x : Xprod) : State :=
  { mapped with
    octets := mapped.octets.set 1 { role := 3 }
    egress := [(8, { mtu := 9000 })]
    handles := { virgin := 1, live := [{ h := hx, st := st, obj := .xprod x }] }
    xa := { mapped.xa with roles := List.replicate 16 .corr, rings := [ring0], nextRing := 1 }
    vault := { mapped.vault with pages := [(0, { owner := 0, kind := useRing }), (1, { owner := hx, kind := useState })] } }

/-- A VOLT8 beam product of channel 0, 32 beams, 128 channel samples a span; the top rank is the BEAM pool. -/
def hb : Handle := mkHandle 2 1 0
def beam0 : Beam :=
  { stream := 0, flags := 1, egress := 8, firstGroup := 0, ngroups := 2, firstChan := 0, nchan := 1, beams := 32, tb := 128, kb := 0, vshift := 0
    origin := 0, seed := 0, block := List.replicate 40 0, wide := false, cols := [some 0], ringId := 0, weightPages := [1], statePages := []
    next := (1, 0) }
def withBeam (st : HState) (b : Beam) : State :=
  let s := running .created prod
  { s with
    handles := { virgin := 1, live := [{ h := hb, st := st, obj := .beam b }] }
    xa := { s.xa with roles := List.replicate 15 .free ++ [.beam], rings := [{ ring0 with users := [hb] }] } }

/-- A package whose Reserve is trained, with a rule or a capture. -/
def trained (s : State) : State := { s with reserve := { s.reserve with ch := List.replicate 8 { state := 1, ranks := 1, capacity := 2 ^ 36 } } }
def hr : Handle := mkHandle 3 1 0
def rule0 : TrigRule :=
  { kind := 1, pin := 0, outMask := 5, minBeams := 1, tag := 44, portMask := 0, preNs := 100, postNs := 100, holdoffUs := 1, pulse := 2
    coincLog2 := 0, beams := [0] }
def withRule (r : TrigRule) : State :=
  let s := sampling {}
  { s with
    handles := { virgin := 1, live := [{ h := hr, st := .created, obj := .trigRule r }] }
    coarse := s.coarse.set 0 { owner := hr, mode := 2, eLog2 := 2, baseLog2 := 10, thresh := 3, inputs := [(0, 0, 1)] } }
def hc : Handle := mkHandle 4 1 0
def capture0 : Capture :=
  { format := 2, keep := false, rawshift := 0, stream := 0, units := 1, preMax := 1000, postMax := 1000, firstGroup := 0, ngroups := 1
    firstBlock := 0, nblocks := 1, tags := [44], chans := [0, 1, 2, 3, 4, 5, 6, 7], stripes := [(0, 129)], retentionMs := 0, rateMb := 0
    heads := [12000] }
def capturing (st : HState) (c : Capture) : State :=
  let s := trained mapped
  { s with
    handles := { virgin := 1, live := [{ h := hc, st := st, obj := .capture c }] }
    reserve := { s.reserve with used := [(0, 129)] }
    fe := { s.fe with packed := [(0, 0, 12100)] } }

/-- Lanes of a vector register, and registers with two operands in v1 and v2. -/
def lanesReg (f : Nat → Nat) : BitVec 2048 := ofLanes ((List.range 64).map f)
def regsOf (f g : Nat → Nat) : VxRegs := { v := (List.replicate 128 0).set 1 (lanesReg f) |>.set 2 (lanesReg g) }
def vxAt (slot : Nat) (g : VxRegs) : State :=
  { up with vx := { up.vx with ctx := [{ running := true, slot := slot, regs := g, issue := if slot = 0 then none else some g }, {}] } }
def word (d a b imm : Nat) (pred : Nat := 0) : VxWord :=
  { stage := 0, pred := BitVec.ofNat 3 pred, d := BitVec.ofNat 7 d, a := BitVec.ofNat 7 a, b := BitVec.ofNat 7 b, imm7 := BitVec.ofNat 7 imm }

/-- The same on the command ring. -/
def onRing (b : List Byte) (s : State) : State := { s with ring := { s.ring with enable := true }, teller := { s.teller with ringQ := [{ src := .ring, bytes := b }] } }
def rpkt (b : List Byte) : Pkt := { pkt b with src := .ring }

/-- The next state of an outcome. -/
def nx (o : Host.Outcome State Fault Refusal) : State := match o with | .next t => t | _ => State.reset

/-! ### Hypotheses met -/

namespace Teller

def nopS : State := spi (cmd 0 0 []) up

def safeS (b : List Byte) : State := spi b { up with teller := { up.teller with safe := true } }

def lrd : List Byte := cmd 2 0 (List.replicate 24 0)

def kld : List Byte := cmd 3 0 (le 1 4 ++ le 1 1 ++ le 2 0 ++ le 4 77 ++ List.replicate 16 5)

def lck : List Byte := cmd 4 0 (le 2 3 ++ le 2 0)

def pbd : List Byte := cmd 0x13 0 (le 1 3 ++ List.replicate 7 0 ++ le 8 (6 + 128 + 2 ^ 12 + 2 ^ 16 + 2 ^ 32 + 2 ^ 48))

def lk3 : State := { linked with octets := linked.octets.set 3 { role := 2 } }

def kld2 : List Byte := cmd 3 (mkHandle 7 1 0).toNat (le 1 0 ++ le 1 1 ++ le 2 0 ++ le 4 78 ++ List.replicate 16 6)

def pbd2 : List Byte := cmd 0x13 0 (le 1 2 ++ List.replicate 7 0 ++ le 8 (6 + 128 + 2 ^ 12 + 2 ^ 16 + 2 ^ 32 + 2 ^ 48))

def pjn : List Byte := cmd 0x18 0 (le 2 9 ++ le 1 3 ++ le 1 0)

def pmc : List Byte := cmd 0x19 0 (le 4 5 ++ le 1 1 ++ le 1 0 ++ le 2 0 ++ le 8 0)

def held : State := { linked with plane := { linked.plane with pending := some ({ gen := 2, streams := [stream0] }, shortTime false false (9000000000 * 65536)) } }

def pmp : List Byte := cmd 0x19 0 (le 4 5 ++ le 1 0 ++ le 1 1 ++ le 2 0 ++ le 8 (shortTime false false (9000000000 * 65536)).toNat ++
  le 1 0 ++ le 1 0 ++ le 2 1 ++ le 2 0 ++ le 2 2 ++ le 2 16 ++ le 1 7 ++ le 1 0 ++ le 4 1000 ++ le 4 10000 ++ le 4 50000 ++ fullImage 0 ++ [3, 5, 0, 0] ++ le 2 0 ++ le 1 3 ++ le 1 0)

def full32 : State := linked.updPort 2 fun q => { q with txSent := 40, txReleased := 8, txData := [{ stream := 0, deadline := 9, bytes := [] }] }

def lnk2 : State := linked.updPort 2 fun q => { q with state := .linked, txSent := 4 }

def urg8 : State := linked.updPort 2 fun q => { q with tx := { q.tx with urgent := List.replicate 8 (true, []) } }

def hello (f : Nat) : List Byte := withCrc (ctrlHead 0x10 64 5 3 9 ++ le 4 f ++ le 4 21 ++ le 8 99 ++ List.replicate 16 0 ++ le 4 6 ++ List.replicate 16 0)

def taken (urgent : Bool) (b : List Byte) (s : State) : State := (s.portTake 2 urgent (.packet b)).2

def eight : List Byte := [0x20, 1, 2, 3, 4, 5, 6, 7, 8, 9, 10, 11, 12, 13, 14, 15]

def healthPkt : List Byte := withCrc (ctrlHead 0x11 64 5 3 9 ++ List.replicate 52 0)

def timePkt : List Byte := withCrc (ctrlHead 0x20 64 5 3 9 ++ le 4 6 ++ List.replicate 28 0 ++ [4] ++ List.replicate 19 0)

def stale2 : State := linked.updPort 2 fun q => { q with helloAt := some 0, txData := [{ stream := 0, deadline := 9, bytes := [] }] }

def quar2 : State := linked.updPort 2 fun q => { q with state := .quarantined, quarantineUntil := 5 }

def cmdIn : List Byte := cmdPacket (ctrlHead 0x30 (cmdLength 24) 5 3 9) 0 0 (le 1 0 ++ le 1 1 ++ le 2 6 ++ le 4 1 ++ le 4 0 ++ le 4 17 ++ cmdTag (List.replicate 16 7) (ctrlHead 0x30 (cmdLength 24) 5 3 9) (le 1 0 ++ le 1 1 ++ le 2 6 ++ le 4 1 ++ le 4 0 ++ le 4 17 ++ []))

def trigHead : List Byte := ctrlHead 0x31 64 5 3 9 ++ [1, 0, 0, 0] ++ le 4 8 ++ le 8 (shortTime false false 1000000).toNat ++ le 4 44 ++ le 4 100 ++ le 4 100 ++ [0, 5] ++ le 2 1 ++ List.replicate 8 0

def trigIn : List Byte := withCrc (trigHead ++ tagOf (List.replicate 16 9) trigHead ++ List.replicate 4 0)

def dataHead : List Byte := [1, 1, 5, 3] ++ le 2 9 ++ [0, 0] ++ le 2 1 ++ le 2 1 ++ le 6 (stream0.slotAt mapped.now) ++ List.replicate 10 0

def dataPkt : List Byte := dataHead.take 28 ++ [143, 188, 105, 115] ++ List.replicate 8192 0

def onto (d : StreamDesc) : State := { mapped with plane := { mapped.plane with map := some { gen := 1, streams := [d] } } }

def early : StreamDesc := { stream0 with epoch := mapped.now }

def tardy : StreamDesc := { stream0 with lateness := 0, emitDelay := 0 }

def laterPkt : List Byte := patch dataPkt 12 (le 6 (stream0.slotAt mapped.now - 3))

def partHead : List Byte := [2, 1, 5, 3] ++ le 2 9 ++ le 2 0 ++ le 4 70 ++ le 2 0 ++ le 2 1 ++ le 2 4 ++ le 2 0xFFFF ++ le 4 0 ++ le 6 64 ++ le 2 0 ++ le 6 128 ++ le 2 0 ++ le 8 11 ++ le 8 0 ++ le 4 0

def partPkt : List Byte := partHead.take 60 ++ [220, 128, 92, 49] ++ le 8 1234 ++ List.replicate (8192 - 8) 0

def txd (dl : Nat) : TxData := { stream := 0, deadline := dl, bytes := List.replicate 40 1 }

def sending (a b : Nat) : State := linked.updPort 2 fun q => { q with txData := [txd a, txd b], txSent := 3 }

def newDesc : StreamDesc := { stream0 with emitDelay := 2000 }

def remapping : State := { mapped with plane := { mapped.plane with pending := some ({ gen := 2, streams := [newDesc] }, shortTime false false (3900000000 * 65536)) } }

def otherDesc : StreamDesc := { stream0 with epoch := 5, dmLog2 := 10 }

def regridding : State := { remapping with plane := { remapping.plane with pending := some ({ gen := 2, streams := [otherDesc] }, shortTime false false (3900000000 * 65536)) } }

def fwd : List Byte := [0, 1] ++ le 2 6 ++ le 4 7 ++ le 4 0 ++ le 4 0 ++ [5] ++ List.replicate 7 0

def fwdBad : List Byte := [0, 1] ++ le 2 6 ++ le 4 7 ++ le 4 0 ++ le 4 1 ++ [5] ++ List.replicate 7 0

def waitFwd : State := { linked with teller := { linked.teller with forwards := [{ src := .spi, peer := 5, op := 0, tag := 7, notify := false, sent := 0 }] } }

theorem meets_RepliesCommitOnce :
    (nopS.spi.replyQ = []) := by
  decide +kernel

theorem meets_DeviceCommandsReply :
    (Accepted 0x00 nopBody .spi true .failed (pkt (cmd 0 0 [])) nopS) ∧
    (Turn 0x00 .spi true .failed (pkt (cmd 0 0 [])) (safeS (cmd 0 0 [])) ∧ (pkt (cmd 0 0 [])).sourceLengthOk = true ∧ (pkt (cmd 0 0 [])).auth = false ∧ (safeS []).health.stalled.contains 13 = false ∧ (pkt (cmd 0 0 [])).len = 4 ∧ (pkt (cmd 0 0 [])).headerBad = false ∧ (pkt (cmd 0 0 [])).target = 0 ∧ (safeS []).ledger.firstDone = true ∧ (safeS []).teller.safe = true) ∧
    (Turn 0x00 .spi true .failed (pkt (cmd 0 0 [1])) (safeS (cmd 0 0 [1])) ∧ (pkt (cmd 0 0 [1])).sourceLengthOk = true ∧ (pkt (cmd 0 0 [1])).len ≠ 4 ∧ Turn 0x01 .spi true .failed (pkt (cmd 1 0 [1])) (safeS (cmd 1 0 [1])) ∧ (pkt (cmd 1 0 [1])).sourceLengthOk = true ∧ (pkt (cmd 1 0 [1])).auth = false ∧ (pkt (cmd 1 0 [1])).len ≠ 4) ∧
    (Accepted 0x01 identifyBody .spi true .failed (pkt (cmd 1 0 [])) (spi (cmd 1 0 []) linked)) ∧
    (Accepted 0x02 ledgerReadBody .spi true .failed (pkt lrd) (spi lrd up) ∧ ((pkt lrd).deliver 24 32 ((spi lrd up).ledgerImage.drop 0) ((spi lrd up).pop .spi)).2.2.2 = false) ∧
    ((spi (cmd 0x7F 0 []) up).pktOf .spi true .failed = some (pkt (cmd 0x7F 0 [])) ∧ (pkt (cmd 0x7F 0 [])).isForward = false ∧ (spi (cmd 0x7F 0 []) up).canTake .spi (pkt (cmd 0x7F 0 [])) = true ∧ (pkt (cmd 0x7F 0 [])).sourceLengthOk = true ∧ opcodes.contains (pkt (cmd 0x7F 0 [])).op = false ∧ (spi (cmd 0x7F 0 []) up).health.stalled.contains 13 = false) ∧
    (Accepted 0x72 fenceBody .spi true .failed (pkt (cmd 0x72 0 [])) (spi (cmd 0x72 0 []) up) ∧ (spi (cmd 0x72 0 []) up).teller.deferred = []) := by
  simp only [Accepted, Turn]
  refine ⟨?_, ?_, ?_, ?_, ?_, ?_, ?_⟩ <;> decide +kernel

theorem meets_KeysAndPortsAreSet :
    (Accepted 0x03 keyLoadBody .spi true .failed (pkt kld) (spi kld up) ∧ (pkt kld).target = 0) ∧
    (Accepted 0x04 lockBody .spi true .failed (pkt lck) (spi lck linked)) ∧
    (Accepted 0x13 portBindBody .spi true .failed (pkt pbd) (spi pbd lk3) ∧ ((spi pbd lk3).port 3).state = .unbound) ∧
    (Accepted 0x03 keyLoadBody .spi true .failed (pkt kld2) (spi kld2 { linked with handles := { virgin := 1, live := [{ h := mkHandle 7 1 0, st := .created, obj := .keySlot 0 }] } }) ∧ (pkt kld2).target ≠ 0) ∧
    (Accepted 0x13 portBindBody .spi true .failed (pkt pbd2) (spi pbd2 linked) ∧ ((spi pbd2 linked).port 2).state ≠ .unbound) := by
  simp only [Accepted, Turn]
  refine ⟨?_, ?_, ?_, ?_, ?_⟩ <;> decide +kernel

theorem meets_PlaneMembershipChanges :
    (Accepted 0x18 planeJoinBody .spi true .failed (pkt pjn) (spi pjn up)) ∧
    (Accepted 0x1A planeLeaveBody .spi true .failed (pkt (cmd 0x1A 0 [])) (spi (cmd 0x1A 0 []) linked)) ∧
    (Accepted 0x19 planeMapBody .spi true .failed (pkt pmc) (spi pmc held) ∧ bit (u8 pmc 20) 0 = true ∧ u8 pmc 21 = 0) ∧
    (Accepted 0x19 planeMapBody .spi true .failed (pkt pmp) (spi pmp linked) ∧ u8 pmp 21 ≠ 0) := by
  simp only [Accepted, Turn]
  refine ⟨?_, ?_, ?_, ?_⟩ <;> decide +kernel

theorem meets_CreditsMove :
    (2 < linked.ports.length ∧ (linked.port 2).state = .up ∧ linked.portHears 2 = true) ∧
    ((5 : BitVec 16) = ~~~(65530 : BitVec 16) ∧ ({ linked.port 2 with txSent := 9, txReleased := 5 }).outstanding ≤ 32) ∧
    (full32.creditedWaits 2 = true ∧ (full32.port 2).outstanding = 32 ∧ (full32.port 2).stalled = false ∧ (full32.port 2).state = .up) := by
  refine ⟨?_, ?_, ?_⟩ <;> decide +kernel

theorem meets_ControlPacketsLeave :
    ((linked.port 2).state = .up ∧ linked.urgentFull 2 = false ∧ (lnk2.port 2).state = .linked) ∧
    (urg8.urgentFull 2 = true ∧ (urg8.port 2).state = .up) := by
  refine ⟨?_, ?_⟩ <;> decide +kernel

theorem meets_ControlPacketsArrive :
    (eight.length % 8 = 0 ∧ eight.length < 8 * 65536) ∧
    ((lnk2.portTake 2 false (.packet (hello 1))).1 = [.packet (hello 1)] ∧ 2 < lnk2.ports.length ∧ lnk2.portHears 2 = true) ∧
    (let v := taken false (hello 1) lnk2; v.ctrlSound 2 0x10 64 [(44, 16)] (hello 1) = .good ∧ bits (u32 (hello 1) 8) 31 5 = 0 ∧ (v.port 2).state = .linked ∧ v.dieIdOf (v.port 2).entry.peer = none ∧ bit (u32 (hello 1) 8) 0 = true ∧ bit (u32 (hello 1) 8) 1 = false ∧ bit (u32 (hello 1) 8) 3 = false) ∧
    (let v := taken false (hello 3) linked; (linked.portTake 2 false (.packet (hello 3))).1 = [.packet (hello 3)] ∧ linked.portHears 2 = true ∧ v.ctrlSound 2 0x10 64 [(44, 16)] (hello 3) = .good ∧ bits (u32 (hello 3) 8) 31 5 = 0 ∧ (v.port 2).state = .up ∧ bit (u32 (hello 3) 8) 1 = true) ∧
    (let v := taken false healthPkt linked; (linked.portTake 2 false (.packet healthPkt)).1 = [.packet healthPkt] ∧ v.ctrlSound 2 0x11 64 [(10, 2), (26, 2), (48, 12)] healthPkt = .good ∧ ((v.port 2).state = .linked ∨ (v.port 2).state = .up)) ∧
    (let v := taken true timePkt linked; (linked.portTake 2 true (.packet timePkt)).1 = [.packet timePkt] ∧ v.ctrlSound 2 0x20 64 [(28, 4), (41, 19)] timePkt = .good ∧ bit (u8 timePkt 40) 3 = false ∧ (v.port 2).state = .up) := by
  simp only []
  refine ⟨?_, ?_, ?_, ?_, ?_, ?_⟩ <;> decide +kernel

theorem meets_PortsFallBack :
    ((stale2.port 2).state = .up ∧ (stale2.port 2).helloAt = some 0 ∧ 0 + 3500 * tickUs ≤ stale2.now) ∧
    ((quar2.port 2).state = .quarantined ∧ (quar2.port 2).quarantineUntil ≤ quar2.now) := by
  refine ⟨?_, ?_⟩ <;> decide +kernel

theorem meets_AuthenticatedPacketsAct :
    ((linked.portTake 2 false (.packet cmdIn)).1 = [.packet cmdIn] ∧ taken false cmdIn linked = linked ∧ linked.portHears 2 = true ∧ (linked.port 2).state = .up) ∧
    (crcLastOk cmdIn = true ∧ linked.addressed 2 (u8 cmdIn 2) (u8 cmdIn 3) (u16 cmdIn 4) = true ∧ cmdFormOk cmdIn = true ∧ u8 cmdIn 8 = 0 ∧ u8 cmdIn 9 = 0 ∧ (linked.keySlot 0).state ≠ 0 ∧ (rateStep linked.now (linked.port 2).entry.cmdRate (linked.port 2).cmdThisSecond).2 = true ∧ linked.teller.fabQ.countP (fun e => e.1 == 2) < 8 ∧ (linked.keySlot 0).highOf 5 < u32 (cmdBody cmdIn) 12) ∧
    (cmdTag (linked.keySlot 0).key cmdIn ((cmdBody cmdIn).take ((cmdBody cmdIn).length - 8)) = (cmdBody cmdIn).drop ((cmdBody cmdIn).length - 8)) ∧
    ((linked.portTake 2 true (.packet trigIn)).1 = [.packet trigIn] ∧ taken true trigIn linked = linked) ∧
    (crcLastOk trigIn = true ∧ linked.addressed 2 (u8 trigIn 2) (u8 trigIn 3) (u16 trigIn 4) = true ∧ trigFormOk trigIn = true ∧ u8 trigIn 8 = 1 ∧ (linked.keySlot 1).state ≠ 0 ∧ (rateStep linked.now (linked.port 2).entry.trigRate (linked.port 2).trigThisSecond).2 = true ∧ (linked.keySlot 1).highOf 5 < u32 trigIn 12 ∧ linked.handles.live = [] ∧ linked.teller.safe = false) ∧
    (tagOf (linked.keySlot 1).key (trigIn.take 48) = slice trigIn 48 8) := by
  refine ⟨?_, ?_, ?_, ?_, ?_, ?_⟩ <;> decide +kernel

theorem meets_CreditedPacketsArrive :
    (dataPkt.length = 8224 ∧ mapped.dataFormOk dataPkt = true ∧ mapped.descFor (u8 dataPkt 6) (u48 dataPkt 12) = some stream0 ∧ stream0.sourceOf (u16 dataPkt 8) = u8 dataPkt 2 ∧ (stream0.blockOwners (u16 dataPkt 10)).contains 3 = true ∧ stream0.slotStart (u48 dataPkt 12) ≤ mapped.now ∧ mapped.now ≤ stream0.deadline (u48 dataPkt 12) ∧ (u8 dataPkt 6, u16 dataPkt 8, u16 dataPkt 10, stream0.slotStart (u48 dataPkt 12)) ∉ mapped.plane.accepted ∧ ((mapped.port 2).finish mapped.now).rxHeld.length < 32 ∧ (mapped.port 2).state = .up ∧ mapped.addressed 2 5 3 9 = true) ∧
    (bulkCrcOk 32 dataPkt = true) ∧
    ((mapped.portTake 2 false (.packet dataPkt)).1 = [.packet dataPkt] ∧ taken false dataPkt mapped = mapped) ∧
    ((onto early).dataFormOk dataPkt = true ∧ (onto early).now < early.slotStart (u48 dataPkt 12)) ∧
    ((onto tardy).dataFormOk laterPkt = true ∧ tardy.deadline (u48 laterPkt 12) < (onto tardy).now) ∧
    ((onto { stream0 with source := [3, 4] }).dataFormOk dataPkt = true ∧ { stream0 with source := [3, 4] }.sourceOf (u16 dataPkt 8) ≠ u8 dataPkt 2) ∧
    ({ mapped with plane := { mapped.plane with accepted := [(0, 1, 1, stream0.slotStart (u48 dataPkt 12))] } }.dataFormOk dataPkt = true) ∧
    (partPkt.length = 8256 ∧ partialFormOk partPkt = true ∧ mapped.teller.safe = false ∧ mapped.handles.live = []) ∧
    (bulkCrcOk 64 partPkt = true) ∧
    ((mapped.portTake 2 false (.packet partPkt)).1 = [.packet partPkt] ∧ taken false partPkt mapped = mapped) := by
  refine ⟨?_, ?_, ?_, ?_, ?_, ?_, ?_, ?_, ?_, ?_⟩ <;> decide +kernel

theorem meets_DataLeavesByDeadline :
    (earliest ((sending 9 5).port 2).txData = some (txd 5) ∧ (txd 5).deadline < (sending 9 5).now) ∧
    (earliest ((sending (10 ^ 18) (10 ^ 17)).port 2).txData = some (txd (10 ^ 17)) ∧ linked.now ≤ 10 ^ 17 ∧ ((sending 9 5).port 2).outstanding < 32) := by
  refine ⟨?_, ?_⟩ <;> decide +kernel

theorem meets_MapTakesEffect :
    (regridding.desc 0 = some stream0 ∧ regridding.pendingDesc 0 = some otherDesc ∧ stream0.gridKey ≠ otherDesc.gridKey) ∧
    (remapping.teller.safe = false ∧ remapping.plane.switched.contains 0 = false ∧ remapping.desc 0 = some stream0 ∧ remapping.pendingDesc 0 = some newDesc ∧ stream0.gridKey = newDesc.gridKey ∧ stream0.slotStart (stream0.unitFrom stream0.l (remapping.full (shortTime false false (3900000000 * 65536)))) ≤ remapping.now) := by
  refine ⟨?_, ?_⟩ <;> decide +kernel

theorem meets_CommandsAreForwarded :
    ((spi fwd linked).pktOf .spi true .failed = some (pkt fwd) ∧ (pkt fwd).isForward = true ∧ (spi fwd linked).canTake .spi (pkt fwd) = true ∧ (pkt fwd).forwardRefusal ((spi fwd linked).pop .spi) = none ∧ ((spi fwd linked).pop .spi).portOfPeer (u8 fwd 16) = some 2) ∧
    ((pkt fwdBad).forwardRefusal ((spi fwdBad linked).pop .spi) = some { status := stParam } ∧ (pkt fwdBad).isForward = true ∧ (spi fwdBad linked).canTake .spi (pkt fwdBad) = true) ∧
    ((waitFwd.teller.forwards[0]?).isSome = true ∧ 0 + 100 * tickMs ≤ waitFwd.now) := by
  refine ⟨?_, ?_, ?_⟩ <;> decide +kernel

end Teller

namespace Intake

def imap : List Byte := cmd 0x20 0 (le 2 1 ++ le 2 0 ++ le 2 0 ++ le 2 0 ++ [0, 0, 12, 0] ++ le 2 0 ++ le 2 0)

def linkOnly : State := { sampling {} with fe := mapped.fe }

def unmapC : List Byte := cmd 0x20 0 (le 2 1 ++ le 2 0 ++ le 2 0 ++ le 2 0 ++ [0, 128, 12, 0] ++ le 2 0 ++ le 2 0)

def heard : State := sampling { path := pathReset, hist := [{}, {}], frame := some 3 }

def fset : List Byte := cmd 0x21 0 (le 2 1 ++ le 2 0 ++ le 2 0 ++ [1, 0] ++ le 4 0 ++ le 8 (pathReset + 1).toNat ++ List.replicate 16 0)

def dset : List Byte := cmd 0x23 0 (le 2 1 ++ List.replicate 6 0 ++ le 2 0 ++ List.replicate 6 0 ++ fullImage 0 ++ List.replicate 48 0)

def gset : List Byte := cmd 0x24 0 (le 2 1 ++ le 2 0 ++ le 2 0 ++ le 2 3 ++ le 2 2 ++ le 2 0 ++ le 4 4096 ++ le 4 8192)

def cld2 : List Byte := cmd 0x22 0 ([1, 2, 0, 0, 1, 0] ++ le 2 16 ++ [0, 0, 0, 0] ++ le 4 0 ++ le 4 8 ++ List.replicate 20 0 ++ (List.range 8).flatMap fun i => le 4 (i + 1))

def cldN : List Byte := cld2.set 20 0

def cldR : List Byte := cmd 0x22 0 ([4, 2, 0, 0, 0, 0] ++ le 2 0 ++ [0, 0, 0, 0] ++ le 4 0 ++ le 4 0 ++ List.replicate 20 0)

def setS : State := { up with fe := { up.fe with pfb := [(2, 4, 7, [5, -1])] } }

def cldD : List Byte := cmd 0x22 0 ([4, 2, 0, 0, 0, 0] ++ le 2 0 ++ [0, 0, 0, 0] ++ le 4 0 ++ le 4 0 ++ le 4 0 ++ le 8 4096 ++ le 4 8 ++ le 4 0)

def drd : List Byte := cmd 0x25 0 (le 2 0 ++ le 2 2 ++ [0, 0, 0, 0] ++ List.replicate 16 0)

def drc : List Byte := cmd 0x25 0 (le 2 0 ++ le 2 2 ++ [1, 0, 0, 0] ++ List.replicate 16 0)

def counted : State := sampling { det := { parity := 3, satFir := 4, record := [7] } }

def drf : List Byte := cmd 0x25 0 (le 2 0 ++ le 2 2 ++ [0, 0, 0, 0] ++ le 8 4096 ++ le 4 128 ++ le 4 0)

def smp (n : Nat) : List Sample := (List.range n).map fun (i : Nat) => { re := i, rawRe := i }

def framing : State := sampling { path := pathReset, hist := smp 2100, frame := some 0, anchor := (0, 0), nc := 0 }

def poly0 : DelayPoly := { epoch := 0, c0 := 0, c1 := 0, c2 := 0, c3 := 0, fLo := 0, ph0 := 0 }

def segs : State := let s := sampling { path := pathReset, poly := some poly0, segMissing := 1, dr := 5, frame := some 700 }
  { s with clerks := List.replicate 16 {}, fe := { s.fe with delayClerks := [(0, [3])] } }

def packedOn : State := { mapped with fe := { mapped.fe with packed := [(0, 0, 5)] } }

def detecting : State := sampling { path := BitVec.ofNat 64 (pathReset.toNat - 10 * 16), hist := smp 70 }

def usingFir : State := sampling { path := pathReset + 2 ^ 21 + 3 * 2 ^ 18 }

def reloading : State := { up with fe := { up.fe with reload := [(false, 3), (true, 3)] } }

theorem meets_FEngineIsConfigured :
    (Accepted 0x20 inputMapBody .spi true .failed (pkt imap) (spi imap linkOnly) ∧ u16 imap 16 = 1 ∧ (mapEntry imap 20).unmap = false ∧ (mapEntry imap 20).input = 0 ∧ (linkOnly.input 0).map = none ∧ (linkOnly.input 0).arrived = 0 ∧ (linkOnly.input 0).changes = []) ∧
    (Accepted 0x20 inputMapBody .spi true .failed (pkt unmapC) (spi unmapC heard) ∧ (mapEntry unmapC 20).unmap = true ∧ (heard.nextInputs.getD 0 {}).map.isSome = true ∧ (heard.input 0).arrived ≠ 0) ∧
    (Accepted 0x21 feSetBody .spi true .failed (pkt fset) (spi fset (sampling { path := pathReset })) ∧ u16 fset 16 = 1 ∧ u16 fset 20 = 0 ∧ u8 fset 22 = 1) ∧
    (Accepted 0x21 feSetBody .spi true .failed (pkt fset) (spi fset heard)) ∧
    (Accepted 0x23 delaySetBody .spi true .failed (pkt dset) (spi dset (sampling {})) ∧ u16 dset 16 = 1 ∧ u16 dset 24 = 0) ∧
    (Accepted 0x24 gainSetBody .spi true .failed (pkt gset) (spi gset (sampling { path := pathReset })) ∧ u16 gset 16 = 1) ∧
    (Accepted 0x22 coeffLoadBody .spi true .failed (pkt cld2) (spi cld2 up) ∧ u8 cld2 16 = 1 ∧ bit (u8 cld2 20) 0 = true ∧ u32 cld2 28 = 0 ∧ u32 cld2 32 ≤ 16384) ∧
    (Accepted 0x22 coeffLoadBody .spi true .failed (pkt cldN) (spi cldN up) ∧ u8 cldN 16 = 1 ∧ bit (u8 cldN 20) 0 = false ∧ u32 cldN 28 = 0) ∧
    (Accepted 0x22 coeffLoadBody .spi true .failed (pkt cldR) (spi cldR setS) ∧ u8 cldR 16 = 4 ∧ setS.coeffSet cldR = [5, -1] ∧ ((pkt cldR).deliver 40 48 (leInt 4 5 ++ leInt 4 (-1)) ((spi cldR setS).pop .spi)).2.2.2 = false) ∧
    (Accepted 0x22 coeffLoadBody .ring false .failed { rpkt cldD with wr := false } (onRing cldD setS) ∧ (({ rpkt cldD with wr := false } : Pkt).deliver 40 48 (leInt 4 5 ++ leInt 4 (-1)) ((onRing cldD setS).pop .ring)).2.2.2 = true) := by
  simp only [Accepted, Turn]
  refine ⟨?_, ?_, ?_, ?_, ?_, ?_, ?_, ?_, ?_, ?_⟩ <;> decide +kernel

theorem meets_DetectorRecordsAreRead :
    (Accepted 0x25 detectReadBody .spi true .failed (pkt drd) (spi drd (sampling {})) ∧ bit (u8 drd 20) 0 = false ∧ ((pkt drd).deliver 24 32 (((List.range 2).map (0 + ·)).flatMap (spi drd (sampling {})).detectRecord) ((spi drd (sampling {})).pop .spi)).2.2.2 = false) ∧
    (Accepted 0x25 detectReadBody .spi true .failed (pkt drc) (spi drc counted) ∧ bit (u8 drc 20) 0 = true ∧ 128 ≤ (pkt drc).room 32) ∧
    (Accepted 0x25 detectReadBody .ring false .failed { rpkt drf with wr := false } (onRing drf counted) ∧ (({ rpkt drf with wr := false } : Pkt).deliver 24 32 [] ((onRing drf counted).pop .ring)).2.2.2 = true) := by
  simp only [Accepted, Turn]
  refine ⟨?_, ?_, ?_⟩ <;> decide +kernel

theorem meets_FramesAndSegmentsAdvance :
    ((framing.input 0).map = some inputMap ∧ (framing.input 0).arrived ≠ 0 ∧ framing.fsOf inputMap ≠ 0 ∧ (framing.input 0).frame = some 0 ∧ (framing.input 0).changes = [] ∧ (framing.input 0).takeStep 100000 = framing.input 0 ∧ (framing.input 0).oldGrid = none ∧ framing.inputEpoch (framing.input 0) = 0 ∧ ((framing.input 0).left : Int) ≤ (framing.input 0).endOf 100000 0 0 ∧ (framing.input 0).endOf 100000 0 0 < ((framing.input 0).arrived + (framing.input 0).nc : Nat)) ∧
    ((segs.input 0).poly = some poly0 ∧ (segs.input 0).polyNext = none ∧ (segs.input 0).segMissing = 1 ∧ segs.teller.safe = false ∧ segs.segmentFits (segs.input 0) poly0 512 0 0 = true ∧ segs.segmentFits (segs.input 0) poly0 512 (2 ^ 40) 0 = false ∧ (delayKey (segs.input 0), [3]) ∈ segs.fe.delayClerks) := by
  refine ⟨?_, ?_⟩ <;> decide +kernel

theorem meets_PackingDetectorsAndParity :
    (mapped.plane.joined = true ∧ mapped.packDesc 0 0 = some stream0 ∧ mapped.packsNext stream0 0 = true ∧ mapped.slotFormed stream0 0 = true) ∧
    (packedOn.packDesc 0 4 = some stream0 ∧ 4 < packedOn.packedNext 0 0) ∧
    ((detecting.input 0).map = some inputMap ∧ (detectRun (pDetLog2 (detecting.input 0).path) (fun q => planeIndex (detecting.input 0).anchor 100000 q) ((detecting.input 0).hist.drop ((detecting.input 0).det.next - (detecting.input 0).first)) (detecting.input 0).det).2.2 = true) ∧
    ((framing.input 0).map.isSome = true ∧ (framing.input 0).hist ≠ []) ∧
    (((sampling { path := pathReset }).input 0).usesSet true 0 = true ∧ (usingFir.input 0).usesSet false 0 = true) ∧
    (reloading.fe.reload.contains (false, 3) = true ∧ reloading.fe.reload.contains (true, 3) = true ∧ (reloading.readTable (reloading.setLength false 3)).1 = true) := by
  refine ⟨?_, ?_, ?_, ?_, ?_, ?_⟩ <;> decide +kernel

end Intake

namespace Arrays

def xcr : List Byte := cmd 0x30 0 ([0, 0] ++ le 2 8 ++ le 2 0 ++ le 2 2 ++ le 2 0 ++ le 2 1 ++ le 4 512 ++ le 2 2 ++ le 2 0 ++ le 4 70 ++ le 6 0 ++ le 2 0 ++ le 8 0 ++ le 4 0 ++ le 4 0)

def idleX : State := { running .created prod with handles := {}, xa := mapped.xa, vault := mapped.vault }

def xst : List Byte := cmd 0x31 hx.toNat (le 8 0)

def xsp : List Byte := cmd 0x32 hx.toNat (le 8 0)

def bst : List Byte := cmd 0x31 hb.toNat (le 8 0)

def cut9 : Xprod := { prod with stopSlot := some 9 }

def ended : Xprod := { prod with stopSlot := some 8, reached := true }

def abt : List Byte := cmd 0x70 hx.toNat []

def abc : List Byte := cmd 0x70 hc.toNat []

def hk5 : Handle := mkHandle 5 1 0

def kernelUp : State := { up with handles := { virgin := 1, live := [{ h := hk5, st := .running, obj := .kernel { vx := false, clerks := [0], channels := [], regions := [], windows := [], entry := 0 } }] } }

def abk : List Byte := cmd 0x70 hk5.toNat []

def qrs : List Byte := cmd 0x71 hx.toNat ([1] ++ List.replicate 23 0)

def counted6 : Xprod := { prod with cnt := { records := 7, short := 2 } }

def qrf : List Byte := cmd 0x71 hx.toNat (List.replicate 8 0 ++ le 8 4096 ++ le 4 64 ++ le 4 0)

def qry : List Byte := cmd 0x71 hx.toNat (List.replicate 24 0)

def dirty : State := let s := running .running prod
  { s with vault := { s.vault with words := [(600, { data := 5 })] }, xa := { s.xa with rings := [{ ring0 with cells := [{ pos := 2, group := 0, block := 0, slot := 2, valid := true, settling := false }] }] } }

def ready1 : State := let s := running .running { prod with next := (2, 0) }
  { s with xa := { s.xa with ready := [(hx, 1, 0, true)] } }

def item : DrainItem := { handle := hx, subint := 1, first := 8, stop := 16, chan := 0, pair := 1, partials := (List.range 256).map (fun (i : Nat) => ((i : Int), -(i : Int))), tally := 512, settled := false, poison := false, flush := false }

def draining : State := let s := running .running prod
  { s with xa := { s.xa with drains := [item] } }

def coAdd : CoAdd := { owner := hx, subint := 1, pair := 1, chan := 0, values := List.replicate 512 3, tally := 9 }

def owned : Xprod := { prod with coOwners := [mkHandle 1 1 4] }

def closed : Closed := { handle := hx, rtype := 1, chan := 0, pair := 0, start := 8, stop := 24, tally := 4, flags := 0, holdover := true, t0 := 0, t1 := 0, image := [], payload := List.replicate 4096 1 }

def posting : State := let s := running .running prod
  { s with xa := { s.xa with closeQ := [closed] }, vx := { s.vx with ctx := s.vx.ctx.modify 0 fun c => { c with running := true } } }

def openDg : State := { posting with egress := [(8, { mtu := 9000, datagrams := [(hx, [[1, 2, 3]]), (hb, [[9]])] })], lanes := List.replicate 512 { word := 0 } }

def darkDg : State := openDg.updLane 8 fun l => { l with word := 2 ^ 11 }

def worn : State := { up with xa := { up.xa with residueTimes := [(5, up.now), (5, up.now)] } }

def merging : Xprod := { prod with flags := 8, recs := [] }

def gaining : State := let s := running .running merging
  { s with plane := { s.plane with starts := [(0, 128)], old := [{ desc := { stream0 with runs := [(0, 5)] }, first := 0, stop := 128 }] } }

def mergeHead : List Byte := [2, 1, 5, 3] ++ le 2 9 ++ le 2 0 ++ le 4 70 ++ le 2 0 ++ le 2 1 ++ le 2 0 ++ le 2 0xFFFF ++ le 4 0 ++ le 6 112 ++ le 2 0 ++ le 6 128 ++ le 2 0 ++ le 8 11 ++ le 8 0 ++ le 4 0

def mergePkt : List Byte := mergeHead.take 60 ++ [68, 169, 145, 143] ++ le 8 1234 ++ List.replicate (8192 - 8) 0

def shipment : Shipment := { record := { pair := 1, chan := 0, copy := 0, drained := true, start := 8, stop := 16, tally := 3 }, peer := 5, cut := 16, since := 0 }

def shipX : Xprod := { merging with shipping := [shipment] }

/-- 11_command_reference.md, Example: creating the Heathfield correlation product: RESULT0, RESULT1 and RESULT2. -/
def heath : StreamDesc := { id := 0, wide := false, firstGroup := 0, ngroups := 256, nchan := 256, dmLog2 := 9, emitDelay := 1000, lateness := 50000, fsKhz := 500000, epoch := 0, source := (List.range 256).map (· / 16), runs := (List.range 16).map fun p => (16 * p, p), image := [] }

def hcmd : List Byte := le 4 0x00100830 ++ le 4 0xB01 ++ le 8 0 ++ le 4 0x01380800 ++ le 4 0x01000000 ++ le 4 0x01000000 ++ le 4 0x2000 ++ le 4 0x78 ++ le 4 0x48540001 ++ List.replicate 24 0

def heathS : State := { spi hcmd up with plane := { joined := true, planeId := 9, peerId := 3, map := some { gen := 1, streams := [heath] }, starts := [(0, 0)] }, octets := up.octets.set 39 { role := 3, rate := 2 }, lanes := List.replicate 512 { word := 0, rx := .aligned }, egress := [(312, { mtu := 9000 })], vault := { up.vault with pages := (List.range 1024).map fun i => (i, { owner := 0, kind := useSystem }) } }

theorem meets_ProductsAreCreatedStartedStopped :
    (Accepted 0x30 xprodCreateBody .spi true .failed (pkt xcr) (spi xcr idleX) ∧ (spi xcr idleX).handles.Fit) ∧
    (Accepted 0x31 productStart .spi true .failed (pkt xst) (spi xst (running .created prod)) ∧ (spi xst (running .created prod)).xprod? hx = some prod ∧ (spi xst (running .created prod)).sizing 0 = some stream0) ∧
    (Accepted 0x32 productStop .spi true .failed (pkt xsp) (spi xsp (running .armed prod)) ∧ (spi xsp (running .armed prod)).hstate hx = .armed) ∧
    (Accepted 0x32 productStop .spi true .failed (pkt xsp) (spi xsp (running .running prod)) ∧ (spi xsp (running .running prod)).hstate hx = .running ∧ (spi xsp (running .running prod)).gridOf hx = some stream0) ∧
    (Accepted 0x31 productStart .spi true .failed (pkt bst) (spi bst (withBeam .created beam0))) := by
  simp only [Accepted, Handles.Fit, Turn]
  refine ⟨?_, ?_, ?_, ?_, ?_⟩ <;> decide +kernel

theorem meets_ProductsMoveThroughTheirStates :
    ((withBeam .armed { beam0 with startSlot := 8 }).gridOf hb = some stream0 ∧ (withBeam .armed { beam0 with startSlot := 8 }).hstate hb = .armed ∧ ((withBeam .armed { beam0 with startSlot := 8 }).beam? hb).map Beam.startSlot = some 8) ∧
    ((withBeam .stopping { beam0 with stopSlot := some 9 }).gridOf hb = some stream0 ∧ ((withBeam .stopping { beam0 with stopSlot := some 9 }).beam? hb).map Beam.stopSlot = some (some 9)) ∧
    ((running .armed prod).xprod? hx = some prod ∧ (running .armed prod).gridOf hx = some stream0 ∧ (running .armed prod).hstate hx = .armed ∧ stream0.slotStart 8 ≤ (running .armed prod).now) ∧
    ((running .stopping cut9).xprod? hx = some cut9 ∧ (running .stopping cut9).gridOf hx = some stream0 ∧ (running .stopping cut9).hstate hx = .stopping ∧ stream0.slotStart 9 ≤ (running .stopping cut9).now) ∧
    ((running .stopping ended).hstate hx = .stopping ∧ (running .stopping ended).drained hx = true) := by
  refine ⟨?_, ?_, ?_, ?_, ?_⟩ <;> decide +kernel

theorem meets_ProductsAreAbortedAndQueried :
    (Accepted 0x70 abortBody .spi true .failed (pkt abt) (spi abt (running .armed prod)) ∧ (spi abt (running .armed prod)).hstate hx = .armed) ∧
    (Accepted 0x70 abortBody .spi true .failed (pkt abt) (spi abt (running .running prod)) ∧ (spi abt (running .running prod)).hstate hx = .running) ∧
    (Accepted 0x70 abortBody .spi true .failed (pkt abc) (spi abc (capturing .running capture0)) ∧ ((spi abc (capturing .running capture0)).find hc).map (fun e => (e.st, e.obj.kind)) = some (.running, 4)) ∧
    (Accepted 0x70 abortBody .spi true .failed (pkt abk) (spi abk kernelUp) ∧ ((spi abk kernelUp).find hk5).map (fun e => (e.st, e.obj.kind)) = some (.running, 5)) ∧
    (Accepted 0x71 queryBody .spi true .failed (pkt qrs) (spi qrs (running .running counted6)) ∧ ((pkt qrs).deliver 24 32 ((spi qrs (running .running counted6)).queryData hx) ((spi qrs (running .running counted6)).pop .spi)).2.2.2 = false) ∧
    (Accepted 0x71 queryBody .ring false .failed { rpkt qrf with wr := false } (onRing qrf (running .running prod)) ∧ (({ rpkt qrf with wr := false } : Pkt).deliver 24 32 [] ((onRing qrf (running .running prod)).pop .ring)).2.2.2 = true ∧ u64 qrf 24 ≠ 0) ∧
    (Accepted 0x71 queryBody .ring true .failed (rpkt qry) (onRing qry (running .running prod)) ∧ (rpkt qry).target ≠ 0 ∧ u64 qry 24 = 0) := by
  simp only [Accepted, Turn]
  refine ⟨?_, ?_, ?_, ?_, ?_, ?_, ?_⟩ <;> decide +kernel

theorem meets_SlotsClearTheirPosition :
    (dirty.vault.relocate = [] ∧ dirty.descFor 0 18 = some stream0 ∧ stream0.slotStart 18 ≤ dirty.now ∧ (dirty.xa.rings.head?).map (fun r => (r.stream, r.cells.any fun x => decide (x.slot ≥ 18))) = some (0, false) ∧ Memory.wf {} dirty.vault.words = true) := by
  decide +kernel

theorem meets_PassesRunInOrder :
    ((running .running prod).hstate hx = .running ∧ prod.next = (1, 0) ∧ ((running .running prod).pieces prod 1)[0]? = some (8, 16) ∧ (running .running prod).piecePassed 0 16 = true ∧ (running .running prod).mapDue 0 16 = false ∧ (running .running prod).pieceChans prod 8 ≠ []) ∧
    (ready1.passTurn hx = true ∧ (ready1.xprod? hx).isSome = true ∧ (ready1.xa.ready.find? fun e => e.1 == hx) = some (hx, 1, 0, true) ∧ (ready1.pieceChans prod 8).contains 0 = true ∧ 0 < (ready1.ranksIn .corr).length ∧ 8 * 0 < doubles 2 ∧ passesBefore (doubles 2) 16 0 0 0 ≤ 0 ∧ 0 < passesBefore (doubles 2) 16 0 0 0 + usefulBrick (doubles 2) 16 0 0) ∧
    (draining.xa.drains = [item]) ∧
    (owned.coOwners ≠ [] ∧ owned.compact = false ∧ 1 < owned.pairs ∧ coAdd.values.length = 512 ∧ (running .running owned).drainApplied hx owned { subint := 1, pair := 1, chan := 0, values := coAdd.values, tally := 9, poison := false, settled := false } = false) := by
  refine ⟨?_, ?_, ?_, ?_⟩ <;> decide +kernel

theorem meets_FirstDrainStartsTheRecord :
    (draining.vault.relocate = [] ∧ prod.compact = false ∧ prod.aligned = false ∧ prod.aborted = false ∧ item.flush = false ∧ item.poison = false ∧ item.partials.length = 256 ∧ prod.rec? 1 0 0 = none ∧ prod.cols.idxOf? (some 0) = some 0) ∧
    (List.Nodup (prod.recAddrs { pair := 1, chan := 0, copy := 0 })) := by
  have h : prod.recAddrs { pair := 1, chan := 0, copy := 0 } = (List.range 512).map (8704 + ·) := by decide +kernel
  refine ⟨?_, ?_⟩
  · decide +kernel
  · rw [h]
    exact List.pairwise_map.2 (List.nodup_range.imp fun h e => h (Nat.add_left_cancel e))

theorem meets_RecordsLeaveAndTilesAreSpared :
    (((posting.updXa fun q => { q with closeQ := [] }).takeFree 32).2.vx.data = [] ∧ posting.teller.safe = false ∧ (posting.ctx 0).running = true ∧ posting.xa.closeQ = [closed] ∧ (posting.xprod? hx).isSome = true ∧ posting.txOn 8 = true) ∧
    ((openDg.octet 1).isEgress = true ∧ (openDg.egressOf 8).openOf hx = [[1, 2, 3]] ∧ openDg.txOn 8 = true ∧ 8 < openDg.lanes.length ∧ ([[1, 2, 3]] : List (List Byte)).flatten.length + (closed.record (digestOf prod.block closed.image []) prod.seq).length ≤ (openDg.egressOf 8).mtu - 28) ∧
    (darkDg.txOn 8 = false ∧ (darkDg.egressOf 8).openOf hx ≠ []) ∧
    (worn.boot.phase = .up ∧ worn.usable 1 5 = true ∧ 2 ≤ worn.xa.residueTimes.countP (fun e => e.1 == 5 && decide (worn.now < e.2 + tickDay))) := by
  refine ⟨?_, ?_, ?_, ?_⟩ <;> decide +kernel

theorem meets_PartialsMove :
    (((gaining.port 2).finish gaining.now).rxHeld.length < 32 ∧ gaining.portHears 2 = true ∧ (gaining.port 2).state = .up ∧ gaining.addressed 2 (u8 mergePkt 2) (u8 mergePkt 3) (u16 mergePkt 4) = true ∧ mergePkt.length = 8256 ∧ partialFormOk mergePkt = true ∧ gaining.teller.safe = false ∧ gaining.handles.live = [{ h := hx, st := .running, obj := .xprod merging }] ∧ gaining.partialFits { h := hx, st := .running, obj := .xprod merging } mergePkt = true ∧ u16 mergePkt 18 = 0xFFFF ∧ gaining.plane.partials = [] ∧ merging.aligned = false) ∧
    (bulkCrcOk 64 mergePkt = true) ∧
    ((gaining.portTake 2 false (.packet mergePkt)).1 = [.packet mergePkt] ∧ (gaining.portTake 2 false (.packet mergePkt)).2 = gaining) ∧
    (shipX.nextShip (running .running shipX).shipReady = some (shipment, none) ∧ shipment.record.tallyFlips = [] ∧ shipment.record.tallyLost = false ∧ (running .running shipX).peerUp 5 = some 0 ∧ (running .running shipX).portOfPeer 5 = some 2 ∧ ((running .running shipX).port 2).txData = [] ∧ ((running .running shipX).port 2).outstanding < 32 ∧ (((running .running shipX).vectorRec shipX shipment.record).1.any (·.2)) = false ∧ ((running .running shipX).vectorRec shipX shipment.record).2 = running .running shipX) := by
  refine ⟨?_, ?_, ?_, ?_⟩ <;> decide +kernel

theorem test_HeathfieldProduct_1 : (heathS.withXprod heath (xprodOf (pkt hcmd) false)).map (fun e => (e.2.ownedMax 0 0 256, e.2.growth, (e.2.xprodNeeds heath e.2.poolSizes.1 0 16 (xprodOf (pkt hcmd) false)).corr.ppm)) = some (16, 49408, 451758) := by
  decide +kernel

end Arrays

namespace Beams

def bcr : List Byte := cmd 0x34 0 ([0, 1] ++ le 2 8 ++ le 2 0 ++ le 2 2 ++ le 2 0 ++ le 2 1 ++ le 2 32 ++ le 2 128 ++ le 2 0 ++ [1, 0] ++ le 4 0 ++ le 6 0 ++ le 2 0 ++ le 8 0)

def beamless : State := let s := withBeam .created beam0
  { s with handles := {}, xa := { mapped.xa with roles := mapped.xa.roles }, vault := mapped.vault }

def bwt : List Byte := cmd 0x35 hb.toNat ([1, 0, 0, 0] ++ le 4 0 ++ le 4 2 ++ le 4 0 ++ [1, 2, 3, 4])

def bwz : List Byte := cmd 0x35 hb.toNat ([1, 0, 0, 0] ++ le 4 0 ++ le 4 0 ++ le 4 0)

def swapping : Beam := { beam0 with swapReq := true }

def slow : Beam := { swapping with writingTo := up.now + 1 }

def powerSwap : Beam := { swapping with flags := 3, kb := 2, next := (4, 0), recs := [{ pair := 0, chan := 0, copy := 1, drained := true }] }

def sweeping : Beam := { beam0 with next := (2, 0), ready := [(1, 0, false), (2, 0, false)] }

def deep : Beam := { sweeping with ngroups := 32, beams := 64 }

def span1 : SpanSum := { span := 1, first := 2, stop := 4, chan := 0, block := 0, values := List.replicate 32 (5, 0), bad := [], tally := 9, settled := false, weights := (0, 0), flush := false }

def powerB : Beam := { beam0 with flags := 3, kb := 2, statePages := [2], spanSums := [span1] }

def flushed : Beam := { powerB with recs := [{ pair := 0, chan := 0, copy := 0, done := true }] }

def tcr : List Byte := cmd 0x38 0 ([1, 0, 1, 1] ++ le 4 44 ++ le 8 0 ++ le 4 0 ++ le 4 0 ++ le 4 1 ++ [2, 0, 1, 0] ++ [2, 0, 2, 10] ++ le 2 3 ++ le 2 1 ++ le 4 (2 ^ 19))

def rule00 : TrigRule := { rule0 with minBeams := 0 }

def pinRule : TrigRule := { rule0 with kind := 2, pin := 1, beams := [] }

def pulsing : State := { up with pins := { up.pins with trigOut := [none, some 5, none, none] } }

def ccr : List Byte := cmd 0x39 0 ([2, 0, 0, 0] ++ le 4 1 ++ le 4 1000 ++ le 4 1000 ++ le 2 0 ++ le 2 1 ++ le 2 0 ++ le 2 1 ++ [1] ++ List.replicate 7 0 ++ le 4 44)

def car : List Byte := cmd 0x3A hc.toNat (le 8 0)

def cfz : List Byte := cmd 0x3B hc.toNat (le 8 (up.stampAt up.now).toNat ++ le 4 10 ++ le 4 10 ++ List.replicate 16 0)

def keeping : Capture := { capture0 with keep := true }

def cff : List Byte := cmd 0x3B hc.toNat (le 8 (up.stampAt up.now).toNat ++ le 4 10 ++ le 4 10 ++ [1, 0, 0, 0] ++ le 4 44 ++ le 8 4)

def fullKeep : Capture := { keeping with windows := (List.range 8).map fun i => (i, { first := 100 * i, stop := 100 * i + 1 }) }

def frozenCap : Capture := { capture0 with windows := [(0, { first := 0, stop := 5, frozen := true })] }

def crd (f : Nat) : List Byte := cmd 0x3C hc.toNat ([0] ++ le 1 f ++ le 2 8 ++ le 4 1 ++ List.replicate 16 0)

def readable : State := let s := capturing .stopped frozenCap
  { s with octets := s.octets.set 1 { role := 3 }, egress := [(8, { mtu := 9000 })] }

def hot : State := (capturing .running capture0).updCh 0 fun x => { x with throttled := true }

def delivering : Capture := { frozenCap with reading := some { window := 0, flags := 1, port := 8, rate := 1, dest := 0 } }

def toHost : Capture := { frozenCap with reading := some { window := 0, flags := 0, port := 0, rate := 1, dest := 4096 } }

theorem meets_BeamsAreCreatedAndWeighted :
    (Accepted 0x34 beamCreateBody .spi true .failed (pkt bcr) (spi bcr beamless) ∧ (spi bcr beamless).handles.Fit) ∧
    (Accepted 0x35 beamWeightsBody .spi true .failed (pkt bwt) (spi bwt (withBeam .created beam0)) ∧ (spi bwt (withBeam .created beam0)).beam? hb = some beam0) ∧
    (Accepted 0x35 beamWeightsBody .spi true .failed (pkt bwz) (spi bwz (withBeam .created beam0)) ∧ bit (u8 bwz 16) 1 = false ∧ u32 bwz 24 = 0) ∧
    ((withBeam .running swapping).beam? hb = some swapping ∧ (withBeam .running swapping).hstate hb = .running ∧ swapping.kind ≠ 3 ∧ swapping.swept = 0 ∧ swapping.ready = [] ∧ swapping.next.2 = 0 ∧ swapping.spanSums = [] ∧ swapping.writingTo ≤ (withBeam .running swapping).now) ∧
    ((withBeam .created slow).beam? hb = some slow ∧ (withBeam .created slow).now < slow.writingTo) ∧
    (powerSwap.kind = 3 ∧ powerSwap.next.1 % max powerSwap.kb 1 = 0) := by
  simp only [Accepted, Handles.Fit, Turn]
  refine ⟨?_, ?_, ?_, ?_, ?_, ?_⟩ <;> decide +kernel

theorem meets_SweepsRunInOrder :
    ((withBeam .running beam0).spanPieces beam0 1 = [(2, 4)] ∧ (withBeam .running beam0).piecePassed 0 4 = true ∧ (withBeam .running beam0).mapDue 0 4 = false ∧ (withBeam .running beam0).beamChans beam0 2 ≠ []) ∧
    ((withBeam .running sweeping).beam? hb = some sweeping ∧ ((withBeam .running sweeping).spanPieces sweeping 1)[0]? = some (2, 4) ∧ ((withBeam .running sweeping).ranksIn .beam).length = 1 ∧ ((withBeam .running sweeping).beamChans sweeping 2) = [0] ∧ 0 < ceilDiv sweeping.nbb 1 ∧ 0 < sweeping.depth ∧ sweeping.swept + 1 = 1 * ceilDiv sweeping.nbb 1 * sweeping.depth) ∧
    (((withBeam .running deep).beamChans deep 2) = [0] ∧ 0 < deep.depth ∧ deep.swept + 1 ≠ 1 * ceilDiv deep.nbb 1 * deep.depth) ∧
    ((withBeam .running powerB).beam? hb = some powerB ∧ powerB.spanSums = [span1]) ∧
    (powerB.rec? 0 0 = none ∧ powerB.rec? 0 1 = none ∧ span1.block = 0 ∧ powerB.nbb = 1) ∧
    ((flushed.recOr 0 0).done = true) ∧
    (beam0.fp = false ∧ beam0.kind = 1) := by
  refine ⟨?_, ?_, ?_, ?_, ?_, ?_, ?_⟩ <;> decide +kernel

theorem meets_TriggerRulesFire :
    (Accepted 0x38 trigRuleCreateBody .spi true .failed (pkt tcr) (spi tcr (sampling {})) ∧ (spi tcr (sampling {})).coarse.length = 32 ∧ (spi tcr (sampling {})).handles.Fit) ∧
    ((withRule rule00).rule? hr = some rule00 ∧ rule00.kind = 1 ∧ rule00.lastFire = none ∧ ((withRule rule00).withEarly []).coincidence rule00 5 = some true ∧ ((withRule rule00).withEarly []).bestMetric rule00 5 = some (0, 0) ∧ (withRule rule00).firedOnBad rule00 5 = false ∧ rule00.outMask.getLsbD 2 = true ∧ rule00.outMask.getLsbD 1 = false) ∧
    ((withRule pinRule).rule? hr = some pinRule ∧ pinRule.takesEdge 1 10 ((withRule pinRule).now / (2 * tickNs) * (2 * tickNs)) = true ∧ pinRule.outMask.getLsbD 0 = true) ∧
    (pulsing.pins.trigOut.getD 1 none = some 5 ∧ 5 ≤ pulsing.now) := by
  simp only [Accepted, Handles.Fit, Turn]
  refine ⟨?_, ?_, ?_, ?_⟩ <;> decide +kernel

theorem meets_CaptureCommandsAct :
    (Accepted 0x39 captureCreateBody .spi true .failed (pkt ccr) (spi ccr (trained mapped)) ∧ (spi ccr (trained mapped)).handles.Fit) ∧
    (Accepted 0x3A captureArmBody .spi true .failed (pkt car) (spi car (capturing .created capture0)) ∧ (spi car (capturing .created capture0)).capture? hc = some capture0) ∧
    (Accepted 0x3B captureFreezeBody .spi true .failed (pkt cfz) (spi cfz (capturing .running capture0)) ∧ (spi cfz (capturing .running capture0)).hstate hc = .running ∧ capture0.keep = false) ∧
    (Accepted 0x3B captureFreezeBody .spi true .failed (pkt cfz) (spi cfz (capturing .stopped capture0)) ∧ (spi cfz (capturing .stopped capture0)).hstate hc ≠ .running) ∧
    (Accepted 0x3B captureFreezeBody .spi true .failed (pkt cff) (spi cff (capturing .running keeping)) ∧ bit (u8 cff 32) 0 = true ∧ keeping.windows = [] ∧ (spi cff (capturing .running keeping)).hstate hc = .running) ∧
    (Accepted 0x3B captureFreezeBody .spi true .failed (pkt cff) (spi cff (capturing .running fullKeep)) ∧ ((spi cff (capturing .running fullKeep)).pop .spi).freeze hc ((spi cff (capturing .running fullKeep)).full (BitVec.ofNat 64 (u64 cff 16))) 10 10 [] = (.refused, (((spi cff (capturing .running fullKeep)).pop .spi).updCapture hc fun c => { c with freezeRefused := 1 }))) ∧
    (Accepted 0x3C captureReadBody .spi true .failed (pkt (crd 4)) (spi (crd 4) readable) ∧ bit (u8 (crd 4) 17) 2 = true) ∧
    (Accepted 0x3C captureReadBody .spi true .failed (pkt (crd 1)) (spi (crd 1) readable) ∧ bit (u8 (crd 1) 17) 2 = false) := by
  simp only [Accepted, Handles.Fit, Turn]
  refine ⟨?_, ?_, ?_, ?_, ?_, ?_, ?_, ?_⟩ <;> decide +kernel

theorem meets_CapturesWriteAndDeliver :
    ((capturing .armed capture0).hstate hc = .armed ∧ capture0.start ≤ (capturing .armed capture0).now) ∧
    ((capturing .running capture0).nextUnit capture0 = 0 ∧ capture0.heads.getD 0 0 = 12000 ∧ capture0.chOf capture0.place = 0 ∧ (capturing .running capture0).packedNext 0 0 = 12100 ∧ 12000 + 8 ≤ 12100 ∧ ((capturing .running capture0).ch 0).level < 16 ∧ ((capturing .running capture0).ch 0).throttled = false ∧ ((capturing .running capture0).ch 0).state = 1) ∧
    ((hot.ch 0).throttled = true) ∧
    ((capturing .stopped delivering).capture? hc = some delivering ∧ delivering.reading.isSome = true) ∧
    ((capturing .stopped toHost).capture? hc = some toHost) := by
  refine ⟨?_, ?_, ?_, ?_, ?_⟩ <;> decide +kernel

end Beams

namespace Engines

def ai (i : Nat) : Nat := (i * 2654435761 + 12345) % 2 ^ 32

def bi (i : Nat) : Nat := (i * i * 40503 + 7) % 2 ^ 32

def gI : VxRegs := { regsOf ai bi with m := [0, 5, 0, 0, 0, 0, 0, 0] }

def vI : State := vxAt 2 gI

def w312 : VxWord := word 3 1 2 0 1

def wI (im : Nat) : VxWord := word 3 1 2 im 1

def fa (i : Nat) : Nat := [0x3F800000, 0xC0490FDB, 0x00000001, 0x7F7FFFFF, 0x7F800000, 0x7FC00000, 0x80000000, 0x42280000].getD (i % 8) 0

def fb (i : Nat) : Nat := [0x40000000, 0x3F800000, 0x00800000, 0x7F7FFFFF, 0xFF800000, 0x3F800000, 0x00000000].getD (i % 7) 0

def gF : VxRegs := { regsOf fa fb with m := [0, 0xFFFF, 0, 0, 0, 0, 0, 0] }

def vF : State := vxAt 1 gF

def w212 : VxWord := word 2 1 2 0 1

def gX : VxRegs := { gF with x := [0, ofXlanes ((List.range 64).map fun (i : Nat) => (2 ^ 200 : Int) - 3 * i), ofXlanes ((List.range 64).map fun (i : Nat) => (2 ^ 100 : Int) - 3 * i), 0] }

def vX : State := vxAt 3 gX

def wX (im : Nat) : VxWord := word 1 1 2 im 1

def gM : VxRegs := regsOf (fun i => if i = 0 then 512 else 4 * i) (fun i => if i = 0 then 8 else 4 * i + 100)

def vM : State := let s := vxAt 0 gM
  { s with vx := { s.vx with data := [(128, { data := 77 }), (129, { data := 78 }), (192, { data := 5 }), (300, { data := 9 })] } }

def wM (d a b im : Nat) : VxWord := word d a b im

def gA : VxRegs := { gM with x := [0, ofXlanes ((List.range 64).map fun (i : Nat) => -(2 ^ 200 : Int) - 3 * i), 0, 0], xovf := [0, 3, 0, 0] }

def vA : State := { vM with vx := { vM.vx with ctx := [{ running := true, slot := 0, regs := gA }, {}] } }

def vAtX (g : VxRegs) : State := vxAt 3 g

def gC : VxRegs := { regsOf ai bi with m := [0, 5, 0, 0, 0, 0, 0, 0], pls := 2, pln := 5, plp := 1 }

def hk : Handle := mkHandle 5 1 0

def kern (st : HState) (k : Kernel) (s : State) : State := { s with handles := { virgin := 1, live := [{ h := hk, st := st, obj := .kernel k }] } }

def vxKern : Kernel := { vx := true, clerks := [], channels := [], regions := [], windows := [], entry := 2 }

def wHalt : VxWord := word 0 1 0 0

def codeAt (slot op : Nat) (w : VxWord) : BitVec 160 := BitVec.ofNat 160 (vxEncode op w * 2 ^ (40 * slot))

def halting : State := let s := kern .running vxKern up
  { s with vx := { s.vx with ctx := [{ running := true }, { running := true, slot := 3, pc := 7, regs := regsOf (fun _ => 99) (fun _ => 0), issue := some (regsOf (fun _ => 99) (fun _ => 0)) }], prog := [(7, codeAt 3 0x27 wHalt)] }, teller := { s.teller with deferred := [{ src := .spi, op := 0x41, tag := 3, notify := false, handle := hk, seq := 1, wait := .kernelRun hk, lost := false }] } }

def stopping8 (w : VxWord) (op v : Nat) : State := let g := regsOf (fun _ => v) (fun _ => 0)
  { halting with vx := { halting.vx with ctx := [{ running := true }, { running := true, slot := 3, pc := 7, regs := g, issue := some g }], prog := [(7, codeAt 3 op w)] } }

def cw (dst s1 s2 imm : Nat) : ClerkWord := { dst := BitVec.ofNat 4 dst, s1 := BitVec.ofNat 4 s1, s2 := BitVec.ofNat 4 s2, imm := BitVec.ofNat 12 imm, mx := 0, my := 0 }

def clk : Clerk := { system := true, running := true, d := (List.range 16).map fun i => BitVec.ofNat 24 (i * 1234567 + 8388600), a := [BitVec.ofNat 56 (2 ^ 55 - 5), BitVec.ofNat 56 123456789012345, BitVec.ofNat 56 (2 ^ 56 - 99999999), 7], p := (List.range 8).map fun i => BitVec.ofNat 24 (64 * i) }

def ck (k : Clerk) : State := { up with clerks := up.clerks.set 0 k }

def repK : Clerk := { clk with d := clk.d.set 1 3, st := 0x100 }

def userKern : Kernel := { vx := false, clerks := [0], channels := [], regions := [], windows := [], entry := 2 }

def haltK : Clerk := { clk with system := false, owner := some hk, pc := 2, prog := [(2, BitVec.ofNat 64 (clerkEncode 0x23 (cw 0 0 0 0)))] }

def clerkHalting : State := let s := kern .running userKern (ck haltK)
  { s with teller := { s.teller with deferred := [{ src := .spi, op := 0x41, tag := 3, notify := false, handle := hk, seq := 1, wait := .kernelRun hk, lost := false }] } }

def userClerk (k : Clerk) (op : Nat) (w : ClerkWord) : State :=
  let s := kern .running userKern (ck { k with system := false, owner := some hk, pc := 2, prog := [(2, BitVec.ofNat 64 (clerkEncode op w))] })
  { s with teller := clerkHalting.teller }

def deep8 : Clerk := { repK with reps := [{ first := 1, last := 9, left := 2 }, { first := 2, last := 3, left := 1 }] }

def mvWord (store size reg ptr mode : Nat) : BitVec 16 := BitVec.ofNat 16 (2 ^ 15 + store * 2 ^ 14 + [0, 2, 1, 0, 0].getD size 0 * 2 ^ 12 + reg * 256 + ptr * 32 + mode * 4)

def mvK : Clerk := { clk with mem := [(64, { data := 5 }), (65, { data := 6 }), (66, { data := 7 }), (67, { data := 200 }), (70, { data := 1 })], l := List.replicate 8 256 }

def mw (mx : BitVec 16) : ClerkWord := { cw 0 0 0 0 with mx := mx }

def imgBody (target clerks code : Nat) : List Byte := le 4 0x4E524B5A ++ [1] ++ le 1 target ++ le 2 clerks ++ le 4 0 ++ le 4 code ++ le 4 4 ++ le 4 0 ++ le 2 0 ++ [1, 0] ++ le 4 0 ++ List.replicate code 3 ++ [1, 2, 3, 4]

def img (target clerks code : Nat) : List Byte := let b := imgBody target clerks code
  patch b 28 (le 4 (crc32 b))

def klc (n : Nat) : List Byte := cmd 0x40 0 (le 8 0x10000 ++ le 4 n ++ [0, 0, 0, 0])

def ipkt (b i : List Byte) : Pkt := { rpkt b with image := .ok i }

def krn (post : Nat) : List Byte := cmd 0x41 hk.toNat (le 1 post ++ [0] ++ le 2 4 ++ le 4 0 ++ le 8 1000 ++ [9, 8, 7, 6])

def waitK : Clerk := { clk with waiting := true, evt := 6, evm := 2 }

def waitV : State := vxAt 3 { gI with evt := 6 }

def waitV2 : State := { waitV with vx := { waitV.vx with ctx := waitV.vx.ctx.modify 0 fun x => { x with wait := some 2 } } }

def badK : Clerk := { haltK with prog := [(2, BitVec.ofNat 64 (255 * 2 ^ 56))] }

def badS (mc : Nat) : State := let s := kern .running { userKern with maxCycles := mc } (ck { badK with cyc := 50 })
  { s with teller := clerkHalting.teller }

def lateS : State := let s := kern .running { userKern with maxCycles := 400 } (ck { haltK with cyc := 50, waiting := true })
  { s with teller := clerkHalting.teller }

def lost8 : State := userClerk { clk with progFlips := [(2, [3, 4])] } 0 (cw 0 0 0 0)

def lostV : State := { halting with vx := { halting.vx with ctx := [{ running := true }, { running := true, slot := 0, pc := 7 }], prog := [(7, codeAt 0 0 wHalt)], progFlips := [[], [(7, [3, 4])]] } }

def stopS : State := kern .running { vxKern with stopAt := some 5 } up

def fmtStopped : State := { up with vx := { up.vx with ctx := [{}, {}] } }

def halted8 : State := let s := kern .running { userKern with clerks := [0, 1], exit := 42, stopAt := some 5 } (ck { haltK with running := false, halted := true })
  s

def servantsDown : State := ck { clk with running := false, owner := some hx }

theorem meets_IntegerLanesCompute :
    (VxLive 0 .i 0x01 w312 vI gI ∧ 3 = gI.phys w312.d.toNat ∧ 5 = gI.mask w312.pred.toNat ∧ vI.unwritten 0 .i 3 ∧ [0x02, 0x03, 0x04, 0x05, 0x06, 0x07, 0x08, 0x09, 0x0B, 0x0C].all (fun op => vI.vxNext 0 .i op w312) = true) ∧
    (VxLive 0 .i 0x0A (wI 37) vI gI ∧ (wI 37).imm7.toNat / 32 ≠ 3 ∧ (wI 37).imm7.toNat % 32 = 5 ∧ vI.vxNext 0 .i 0x0D (wI 9) = true ∧ vI.vxNext 0 .i 0x0E (wI 9) = true ∧ vI.vxNext 0 .i 0x10 (wI 16) = true) ∧
    (VxLive 0 .i 0x0A (wI 32) (vxAt 2 { regsOf ai (fun i => i % 32) with m := [0, 5, 0, 0, 0, 0, 0, 0] }) { regsOf ai (fun i => i % 32) with m := [0, 5, 0, 0, 0, 0, 0, 0] }) := by
  simp only [VxLive, State.unwritten]
  refine ⟨?_, ?_, ?_⟩ <;> decide +kernel

theorem meets_FloatLanesCompute :
    (VxLive 0 .f 0x01 w312 vF gF ∧ vF.unwritten 0 .f 3 ∧ [0x02, 0x03, 0x04, 0x05, 0x06, 0x08, 0x09, 0x0A, 0x0B, 0x0C].all (fun op => vF.vxNext 0 .f op w312) = true) := by
  simp only [VxLive, State.unwritten]
  decide +kernel

theorem meets_PredicatesAndScalarsCompute :
    (VxLive 0 .f 0x07 w212 vF gF ∧ vF.unwritten 0 .f (regM 2) ∧ VxLive 0 .i 0x0F w212 vI gI ∧ VxLive 0 .i 0x12 w212 vI gI ∧ VxLive 0 .i 0x11 w212 vI gI ∧ gI.scalar w212.d = some (bi 0) ∧ VxLive 0 .x 0x09 w212 (vxAt 3 gI) gI ∧ VxLive 0 .x 0x25 w212 (vxAt 3 gI) gI ∧ gI.control 0 ≠ none) := by
  simp only [VxLive, State.unwritten]
  decide +kernel

theorem meets_LongAccumulatorsAreExact :
    (VxLive 0 .x 0x01 (wX 0) vX gX ∧ vX.unwritten 0 .x (regX 1) ∧ vX.unwritten 0 .x (gX.phys 1) ∧ [0x02, 0x03, 0x04, 0x05, 0x06, 0x07, 0x08].all (fun op => vX.vxNext 0 .x op (wX 1)) = true ∧ (wX 1).imm7.toNat ≤ 63) := by
  simp only [VxLive, State.unwritten]
  decide +kernel

theorem meets_VectorMemoryWords :
    (VxLive 0 .l 0x01 (wM 3 1 0 1) vM gM ∧ gM.scalar (wM 3 1 0 1).a = some 512 ∧ VxReach 0 allLanes (fun i => 768 + 4 * i) ∧ Memory.wf {} vM.vx.data = true ∧ [0x02, 0x03, 0x04, 0x05, 0x06, 0x07].all (fun op => vM.vxNext 0 .l op (wM 3 1 2 1)) = true ∧ VxReach 0 allLanes (fun i => 512 + 8 * i) ∧ VxReach 0 allLanes (fun i => 512 + (gM.vec 2).getD i 0)) ∧
    (VxLive 0 .l 0x02 (wM 1 1 0 1) vM gM) := by
  simp only [VxLive, VxReach]
  refine ⟨?_, ?_⟩ <;> decide +kernel

theorem meets_AccumulatorImagesMove :
    (VxLive 0 .l 0x08 (wM 1 1 0 0) vA gA ∧ VxLive 0 .l 0x09 (wM 1 1 0 0) vA gA ∧ gA.scalar (wM 1 1 0 0).a = some 512 ∧ (List.range 10).all (fun j => (List.range 64).all fun i => (512 + 40 * i + 4 * j) % 4 == 0 && decide (512 + 40 * i + 4 * j < 0x200000)) = true) := by
  simp only [VxLive]
  decide +kernel

theorem meets_VectorControlFlows :
    (VxLive 0 .f 0x00 w312 vF gF ∧ VxLive 0 .x 0x20 w312 (vAtX gC) gC ∧ [0x21, 0x22, 0x23, 0x24, 0x26].all (fun op => (vAtX gC).vxNext 0 .x op w312) = true ∧ gC.pls ≠ 0 ∧ (gC.plp + 1).toNat < gC.pln.toNat + gC.pls.toNat - 1 ∧ gC.scalar w312.a = some (ai 0) ∧ ai 0 ≠ 0) ∧
    (VxLive 1 .x 0x27 wHalt halting (regsOf (fun _ => 99) (fun _ => 0)) ∧ (regsOf (fun _ => 99) (fun _ => 0)).scalar wHalt.a = some 99 ∧ halting.vxKernel = some hk ∧ halting.kernel? hk = some vxKern ∧ halting.hstate hk = .running) ∧
    (VxLive 1 .x 0x26 wHalt (stopping8 wHalt 0x26 0) (regsOf (fun _ => 0) (fun _ => 0)) ∧ VxLive 1 .x 0x27 wHalt (stopping8 wHalt 0x27 0x80000000) (regsOf (fun _ => 0x80000000) (fun _ => 0))) ∧
    (VxLive 0 .x 0x27 w212 (vxAt 3 { gI with v := gI.v.set 1 0 }) { gI with v := gI.v.set 1 0 }) := by
  simp only [VxLive]
  refine ⟨?_, ?_, ?_, ?_⟩ <;> decide +kernel

theorem meets_ClerkAccumulatorsCompute :
    (ClerkTurn 0 0x01 (cw 1 2 3 0) (ck clk) ∧ (List.range 9).all (fun i => (ck clk).clerkNext 0 (i + 1) (cw 2 4 6 1)) = true ∧ (cw 1 2 3 0).imm.toInt.natAbs ≤ 56) := by
  simp only [ClerkTurn]
  decide +kernel

theorem meets_ClerkDataWordsCompute :
    ((List.range 10).all (fun i => (ck clk).clerkNext 0 (i + 10) (cw 2 4 6 37)) = true ∧ ClerkTurn 0 0x0D (cw 2 4 6 37) (ck clk) ∧ (cw 2 4 6 37).imm.toNat % 32 ≤ 23 ∧ (cw 2 4 6 37).imm.toNat / 32 % 4 ≠ 3) := by
  simp only [ClerkTurn]
  decide +kernel

theorem meets_ClerkControlFlows :
    (ClerkTurn 0 0x00 (cw 0 0 0 0) (ck clk) ∧ ClerkTurn 0 0x20 (cw 0 1 0 4) (ck repK) ∧ 1 ≤ repK.dn 1 ∧ repK.dn 1 ≤ 65535 ∧ repK.reps.length < 4 ∧ ClerkTurn 0 0x21 (cw 1 1 0 4) (ck repK) ∧ entersBlock repK.prog repK.pc 4 = false ∧ ClerkTurn 0 0x22 (cw 1 1 0 4) (ck repK) ∧ repK.dn 1 ≠ 0) ∧
    (ClerkTurn 0 0x23 (cw 0 0 0 0) clerkHalting ∧ haltK.owner = some hk ∧ clerkHalting.kernel? hk = some userKern ∧ userKern.clerks = [0] ∧ clerkHalting.hstate hk = .running) ∧
    (ClerkTurn 0 0x20 (cw 0 1 0 4) (userClerk deep8 0x20 (cw 0 1 0 4)) ∧ ClerkTurn 0 0x22 (cw 0 0 0 0) (userClerk { repK with d := repK.d.set 0 0 } 0x22 (cw 0 0 0 0)) ∧ ClerkTurn 0 0x20 (cw 0 0 0 4) (ck { repK with d := repK.d.set 0 0 })) := by
  simp only [ClerkTurn]
  refine ⟨?_, ?_, ?_⟩ <;> decide +kernel

theorem meets_ClerkMovesReachMemory :
    ((userClerk { clk with p := clk.p.set 1 0x40000 } 0 { cw 0 0 0 0 with mx := BitVec.ofNat 16 0x8320 }).clerkNext 0 0x00 { cw 0 0 0 0 with mx := BitVec.ofNat 16 0x8320 } = true ∧ (moveOf (BitVec.ofNat 16 0x8320)).map (·.ptr) = some 1) ∧
    ((ck mvK).clerkNext 0 0x00 (mw (mvWord 0 4 3 1 1)) = true ∧ (moveOf (mvWord 0 4 3 1 1)).map (fun m => (m.size, m.ptr, m.mode, m.store, m.reg)) = some (4, 1, 1, false, 3) ∧ moveIllegal (mvWord 0 4 3 1 1) = false ∧ mvK.pn 1 = 64 ∧ Memory.wf {} mvK.mem = true ∧ ((moveOf (mvWord 1 4 3 1 7)).bind mvK.modified).isSome = true) := by
  refine ⟨?_, ?_⟩ <;> decide +kernel

theorem meets_KernelsAreLoadedAndRun :
    (Accepted 0x40 kernelLoadBody .ring true (.ok (img 1 2 16)) (ipkt (klc 52) (img 1 2 16)) (onRing (klc 52) up) ∧ (img 1 2 16).length = 52 ∧ (onRing (klc 52) up).handles.Fit) ∧
    (Accepted 0x40 kernelLoadBody .ring true (.ok (img 2 0 40)) (ipkt (klc 76) (img 2 0 40)) (onRing (klc 76) up)) ∧
    (Accepted 0x40 kernelLoadBody .ring true .poisoned { rpkt (klc 52) with image := .poisoned } (onRing (klc 52) up)) ∧
    (Accepted 0x41 kernelRunBody .spi true .failed (pkt (krn 0)) (spi (krn 0) (kern .created vxKern up)) ∧ bit (u8 (krn 0) 16) 0 = false ∧ (spi (krn 0) (kern .created vxKern up)).vx.ctx.length = 2) ∧
    (Accepted 0x41 kernelRunBody .spi true .failed (pkt (krn 0)) (spi (krn 0) (kern .created { userKern with clerks := [3, 5] } up))) ∧
    (Accepted 0x41 kernelRunBody .spi true .failed (pkt (krn 1)) (spi (krn 1) (kern .running vxKern up)) ∧ bit (u8 (krn 1) 16) 0 = true) := by
  simp only [Accepted, Handles.Fit, Turn]
  refine ⟨?_, ?_, ?_, ?_, ?_, ?_⟩ <;> decide +kernel

theorem meets_KernelRunsEnd :
    (((ck waitK).clerk 0).running = true ∧ waitK.waiting = true ∧ waitK.evt &&& waitK.evm ≠ 0) ∧
    ((waitV2.ctx 0).wait = some 2 ∧ (waitV2.ctx 0).running = true ∧ (waitV2.ctx 0).regs.evt &&& 2 ≠ 0) ∧
    ((badS 0).overLimit (.clerk 0) = false ∧ (badS 0).nextIllegal (.clerk 0) = true ∧ (badS 0).engineRuns (.clerk 0) = true ∧ (badS 0).engineKernel (.clerk 0) = some hk ∧ (badS 0).hstate hk = .running ∧ (badS 40).overLimit (.clerk 0) = true ∧ ((badS 0).kernel? hk).map Kernel.faulted = some 0) ∧
    ((lateS.passLimit (.clerk 0)).isSome = true ∧ lateS.overLimit (.clerk 0) = false ∧ lateS.engineKernel (.clerk 0) = some hk) ∧
    (lost8.clerkNext 0 0x00 (cw 0 0 0 0) = true ∧ Memory.get [] (lost8.clerk 0).progFlips (lost8.clerk 0).pc = [3, 4]) ∧
    (lostV.vxNext 1 .l 0x00 wHalt = true ∧ Memory.get [] (lostV.vx.progFlips.getD 1 []) (lostV.ctx 1).pc = [3, 4]) ∧
    ((stopS.kernel? hk).map Kernel.stopAt = some (some 5) ∧ stopS.hstate hk = .running ∧ 5 + 10 * tickUs ≤ stopS.now) ∧
    ((fmtStopped.ctx 0).running = false ∧ fmtStopped.vx.ctx.length = 2) ∧
    ((halted8.kernel? hk).map Kernel.stopAt = some (some 5) ∧ halted8.hstate hk = .running ∧ (halted8.clerk 0).halted = true) ∧
    (((List.range 16).filter fun n => (servantsDown.clerk n).system && !(servantsDown.clerk n).running) = [0] ∧ servantsDown.clerks.length = 16) := by
  refine ⟨?_, ?_, ?_, ?_, ?_, ?_, ?_, ?_, ?_, ?_⟩ <;> decide +kernel

end Engines

namespace Memories

def wordAt (w : VWord) : State := { up with vault := { up.vault with words := [(8, w)], visit := (List.replicate 128 (0, 0)).set 0 (1, 0) } }

def lastVisit : State := { up with vault := { up.vault with visit := (List.replicate 128 (0, 1)).set 127 (524287, 0) } }

def moving (kind : Nat) : State := { up with vault := { up.vault with
  pages := [(5, { owner := 7, kind := kind })], relocate := [{ page := 5, bank := false }], lastBank := 127
  words := [(5 * 8192 + 3, { data := 9, flips := [1] }), (5 * 8192 + 4, { data := 9, flips := [0, 1, 2] })] } }

def noPage : State := let s := moving useWeights
  { s with ledger := { s.ledger with dies := s.ledger.dies.map fun m => { m with banks := List.range 64 } } }

def ret : List Byte := cmd 0x62 0 (le 1 1 ++ le 1 0 ++ le 2 32767)

def retS : State := spi ret up

def again : State := { retS with ledger := { retS.ledger with dies := retS.ledger.dies.modify 1 fun m => { m with banks := [63] } } }

def forced : List Byte := cmd 0x62 0 (le 1 1 ++ le 1 3 ++ le 2 63)

def scrub (form : Nat) (mask : Nat) (w : Nat) (tail : List Byte := [0, 0, 0, 0]) : List Byte := cmd 0x63 0 (le 1 form ++ [0, 0, 0] ++ le 1 mask ++ [0, 0, 0] ++ le 8 w ++ tail)

def inj1 : List Byte := scrub 3 0 (1 + 3 * 2 ^ 24 + 64 * 2 ^ 32) [1, 2, 79, 0]

def tillS : State := let s := capturing .running { capture0 with blocks := [{ pos := 8, first := 0, group := 0, cblock := 0, flags := 0, valid := 512, t0 := 0, t1 := 1 }] }
  s.updCh 0 fun x => { x with till := [{ handle := hc, pos := 8, q := 1, data := [1, 2] }] }

def debts (n : Nat) (d : Nat) : State := (trained up).updCh 7 fun x => { x with till := List.replicate n { handle := hc, pos := 0, q := 0, data := [] }, debt := [d, 0] }

def kept : State := capturing .running { capture0 with blocks := [{ pos := 8, first := 0, group := 0, cblock := 0, flags := fProtected, valid := 512, t0 := 0, t1 := 1 }] }

def struck : State := kept.updRes fun r => { r with bad := Memory.set ([], false) r.bad (resKey 0 1 (7 * 64) / 64) ([3], true) }

def idleRank : State := (trained up).updCh 0 fun x => { x with powerDown := [false, false] }

theorem meets_TheVaultIsAuditedAndRetired :
    (let s := wordAt { data := 5, flips := [3, 71] }; s.vault.auditHold = false ∧ s.bankAudited 0 = true ∧ s.boot.phase = .up ∧ s.vault.visit.length = 128 ∧ s.vault.visit.getD 0 (0, 0) = (1, 0) ∧ 1 + 1 < visitsPerBank ∧ s.pageAudited (wordPage 8) = true ∧ Memory.wf {} s.vault.words = true ∧ s.vword 15 = {} ∧ (s.vword 8).poison = false ∧ (s.vword 8).flips.length = 2) ∧
    (lastVisit.vault.auditHold = false ∧ lastVisit.bankAudited 127 = true ∧ lastVisit.vault.cnt.length = 2 ∧ lastVisit.vault.visit.getD 127 (0, 0) = (524287, 0) ∧ 524287 + 1 = visitsPerBank) ∧
    (((List.range 128).all fun b => b == 127 || (lastVisit.vault.visit.getD b (0, 0)).2 == 1) = true) ∧
    ((moving useWeights).vault.relocate.find? (fun m => m.page == 5) = some { page := 5, bank := false } ∧ (moving useWeights).pageMovable 5 = true ∧ (moving useWeights).nextPage = some 0 ∧ (moving useWeights).pageUse 5 ≠ freePage) ∧
    (Memory.wf freePage (moving useWeights).vault.pages = true ∧ Memory.wf {} (moving useWeights).vault.words = true) ∧
    (noPage.nextPage = none ∧ noPage.pageMovable 5 = true ∧ (noPage.vault.relocate.find? fun m => m.page == 5).bind Moving.target = none) ∧
    (Accepted 0x62 retireBody .spi true .failed (pkt ret) (retS) ∧ (retS).retired { die := 1, bank := false, n := 32767 } = false ∧ (retS).ledger.dies.length = 2) ∧
    (Accepted 0x62 retireBody .spi true .failed (pkt ret) again ∧ again.retired { die := 1, bank := false, n := 32767 } = true) ∧
    (Accepted 0x62 retireBody .spi true .failed (pkt forced) (spi forced up) ∧ (spi forced up).retired { die := 1, bank := true, n := 63 } = false) ∧
    (Accepted 0x63 scrubSetBody .spi true .failed (pkt (scrub 1 0 (20 * 2 ^ 12 + 1))) (spi (scrub 1 0 (20 * 2 ^ 12 + 1)) up)) ∧
    (Accepted 0x63 scrubSetBody .spi true .failed (pkt (scrub 2 129 0x0065100000808002)) (spi (scrub 2 129 0x0065100000808002) (trained up))) ∧
    (Accepted 0x63 scrubSetBody .spi true .failed (pkt inj1) (spi inj1 up)) := by
  simp only [Accepted, Turn]
  refine ⟨?_, ?_, ?_, ?_, ?_, ?_, ?_, ?_, ?_, ?_, ?_, ?_⟩ <;> decide +kernel

theorem meets_ReserveChannelsAct :
    (tillS.reserve.ch.length = 8 ∧ (tillS.ch 0).state = 1 ∧ tillS.teller.safe = false ∧ (tillS.ch 0).till = [{ handle := hc, pos := 8, q := 1, data := [1, 2] }] ∧ tillS.reserve.injectBurst = none ∧ (tillS.capture? hc).isSome = true) ∧
    (((debts 9 7).ch 7).panicMark = 8 ∧ ((debts 9 7).ch 7).level = 9 ∧ ((debts 9 7).ch 7).debtMax = 8 ∧ ((debts 9 7).ch 7).policyNext = none) ∧
    (((trained up).ch 7).state = 1 ∧ 1521 > 1520 ∧ ((trained up).ch 7).throttled = false) ∧
    ((tillS.ch 0).state = 1 ∧ (tillS.capture? hc).map (fun k => k.chans.contains 0) = some true) ∧
    ((kept.captures.any fun e => e.2.blocks.any fun b => e.2.chOf b.pos == 0 && e.2.qOf b.pos == 1 && b.flags &&& fProtected != 0) = true ∧ (kept.burstBad 0 1 1023).1 = []) ∧
    (struck.burstBad 0 1 7 = ([3], true) ∧ struck.burstBad 0 1 8 = ([], false) ∧ (struck.ch 0).till = [] ∧ Memory.wf ([], false) struck.reserve.bad = true) ∧
    ((idleRank.ch 0).pdIdle ≠ 0 ∧ 0 < (idleRank.ch 0).ranks ∧ (idleRank.ch 0).powerDown.getD 0 false = false) := by
  refine ⟨?_, ?_, ?_, ?_, ?_, ?_, ?_⟩ <;> decide +kernel

end Memories

namespace Ports

def hosted : State := { up with host := { up.host with ready := true } }

def ringing (tail head : BitVec 13) (q : List Cmd := []) : State :=
  { hosted with ring := { hosted.ring with enable := true, cmdTail := tail, cmdHead := head }, teller := { hosted.teller with ringQ := q } }

def waiting (c : BitVec 13) : Cmd := { src := .ring, bytes := [], ctr := c }

def entry : List Byte := cmd 0x52 0 (List.replicate 48 0)

def entryInd (n : Nat) : List Byte := le 1 0x52 ++ le 1 2 ++ le 2 n ++ le 4 7 ++ le 4 0 ++ le 4 0 ++ le 8 64 ++ List.replicate 40 0

def halfSet : State := { hosted with host := { hosted.host with half := some (0x10000, 0x5000) } }

def vectors : State := { hosted with host := { hosted.host with msix := (List.replicate 64 {}).set 63 { pending := true } |>.set 0 { masked := false }, v0Owed := true, v0Hold := true } }

def dmaOn (st : DmaSt) : State := hosted.updDma 63 fun c => { c with st := st, owner := none }

def stored : State := { hosted with vault := { hosted.vault with words := [(2 ^ 29 - 1, { data := 0x0102 })] } }

def far : State := { stored with host := { stored.host with bar2Sel := 0x0100 } }

def spiOf (q : List Cmd) (r : List (List Byte)) : State := { up with spi := { up.spi with cmdQ := q, replyQ := r } }

theorem meets_RingRegistersAct :
    (hosted.hostReaches = true ∧ hosted.ringIdle = true) ∧
    ((ringing 1 0).hostReaches = true ∧ (ringing 1 0).ringIdle = false) ∧
    (hosted.ring.enable = false ∧ (5 : BitVec 32).getLsbD 0 = true ∧ (2 : BitVec 32).getLsbD 0 = false ∧ (3 : BitVec 32).getLsbD 0 = (ringing 5 3).ring.enable) ∧
    ((ringing 8191 8190 [waiting 8189]).hostReaches = true ∧ (ringing 8191 8190 [waiting 8189]).oldestUnreplied = 8189 ∧ ((8189 + 4096 : BitVec 13) - 8189).toNat ≤ 4096) ∧
    ((ringing 1 0).canFetch = true ∧ entry.length = 64 ∧ bit (u8 entry 1) 1 = false ∧ (entryInd 5).length = 64 ∧ bit (u8 (entryInd 5) 1) 1 = true ∧ u16 (entryInd 5) 2 = 5 ∧ zeroAt (entryInd 5) 24 40 = true ∧ u64 (entryInd 5) 16 % 8 = 0) ∧
    (up.hostReaches = false ∧ up.canFetch = false) ∧
    (halfSet.ringIdle = true ∧ halfSet.host.half = some (0x10000, 0x5000) ∧ hosted.usable 3 3 = true ∧ (5 : BitVec 32).toNat % 2 ^ 24 ≠ 0) := by
  refine ⟨?_, ?_, ?_, ?_, ?_, ?_, ?_⟩ <;> decide +kernel

theorem test_RingRegistersAct_1 : nx (exec (.cmdDoorbell 8191) (ringing 8191 8190 [waiting 8189])) = ringing 8191 8190 [waiting 8189] ∧ (nx (exec (.cmdDoorbell 4093) (ringing 8191 8190 [waiting 8189]))).ring.cmdTail = 4093 ∧ (nx (exec (.cmdDoorbell 4094) (ringing 8191 8190 [waiting 8189]))).ring = { (ringing 8191 8190).ring with doorbellErr := true } ∧ (nx (exec (.cmdDoorbell 8189) (ringing 8191 8190 [waiting 8189]))).ring.doorbellErr = true ∧ (nx (exec (.rplDoorbell 8192) (ringing 8191 8190))).ring.rplHead = 0 := by
  decide +kernel

theorem meets_HostPortAndSpiAct :
    (hosted.powered = true ∧ hosted.portReady = true) ∧
    (vectors.hostReaches = true ∧ (vectors.host.msix.getD 63 {}).masked = true ∧ (vectors.host.msix.getD 63 {}).pending = true ∧ (vectors.host.msix.getD 62 {}).pending = false) ∧
    (vectors.host.linkUp = true ∧ (vectors.host.msix.getD 0 {}).masked = false ∧ vectors.host.v0Owed = true ∧ hosted.host.v0Owed = false) ∧
    ((dmaOn .running).dmaExists 63 = true ∧ 63 < (dmaOn .running).dma.length ∧ ((dmaOn .running).dmaCh 63).st = .running ∧ ((dmaOn .running).dmaCh 63).owner = none) ∧
    (hosted.host.v2Owed = false ∧ hosted.canFetch = false ∧ (ringing 1 0).canFetch = true ∧ (hosted.dmaCh 3).st ≠ .running ∧ (hosted.dmaCh 3).st ≠ .stopping) ∧
    (stored.mxWaiting 0 = [] ∧ (stored.vword 5).poison = false ∧ (2 ^ 32 - 4) % 64 + 4 ≤ 64) ∧
    (stored.hostReaches = true ∧ 2 ^ 32 - 8 + 8 ≤ 2 ^ 32 ∧ stored.host.bar2Sel = 0 ∧ stored.usable 5 1 = true ∧ stored.stalled 7 = false ∧ (stored.vword (2 ^ 29 - 1)).flips = [] ∧ (stored.vword (2 ^ 29 - 1)).poison = false) ∧
    (far.hostReaches = true ∧ far.host.bar2Sel.getLsbD 0 = false ∧ bits far.host.bar2Sel.toNat 15 8 ≠ 0) ∧
    (up.powered = true ∧ up.stalled 16 = false ∧ (cmd 0x52 0 []).length = 16 ∧ (spiOf (List.replicate 15 (waiting 0)) []).spi.cmdQ.length < 16 ∧ 16 ≤ (spiOf (List.replicate 16 (waiting 0)) []).spi.cmdQ.length) ∧
    (crcLastOk (List.replicate 22 (0 : Byte)) = false) ∧
    ((spiOf [] [List.replicate 32 5]).spi.replyQ = [List.replicate 32 5] ∧ (List.replicate 32 (5 : Byte)).length = 32) ∧
    (({} : State).powered = false ∧ up.spi.replyQ = []) := by
  refine ⟨?_, ?_, ?_, ?_, ?_, ?_, ?_, ?_, ?_, ?_, ?_, ?_⟩ <;> decide +kernel

theorem test_HostPortAndSpiAct_1 : (nx (exec (.bar2Read 0 8) far)).out = [.completion 2 []] := by
  decide +kernel

theorem test_HostPortAndSpiAct_2 : (nx (exec (.spiReadData 4092 4) up)).out = [.spi (withCrc [0, 0, 0, 0])] := by
  decide +kernel

end Ports

namespace Moves

def hosted : State := { up with host := { up.host with ready := true } }

def dma (c : DmaCh) : State := { hosted with dma := hosted.dma.set 63 c }

def desc (dst x flags next : Nat) : List Byte := le 8 0x04030201 ++ le 8 dst ++ le 4 x ++ le 4 1 ++ le 8 0 ++ le 4 flags ++ le 4 0 ++ le 8 next ++ List.replicate 16 0

def hostAt (n : Nat) : Nat := 2 ^ 63 + n

def endMark : DmaCh := { st := .running, loaded := true, chain := true, nextRead := true, active := desc (hostAt 0) 4 4 0, bytesDone := 4, chainCount := 3 }

def parked : DmaCh := { st := .parked, chain := true, curDesc := BitVec.ofNat 64 (hostAt 64), chainCount := 2 }

def fetching : DmaCh := { st := .running, chain := true, nextAddr := BitVec.ofNat 64 (hostAt 64), chainCount := 4095 }

def alone : DmaCh := { st := .running, active := desc (hostAt 0) 64 4 0 }

def single : DmaCh := { st := .running, loaded := true, active := desc (hostAt 0) 64 4 0, bytesDone := 64 }

def telling : State := let s := dma { single with active := desc (hostAt 0) 64 6 0, irqEn := true }; { s with host := { s.host with msix := s.host.msix.set 11 { masked := false } } }

def chained : DmaCh := { single with chain := true, nextRead := true, lastNext := 640, curDesc := BitVec.ofNat 64 (hostAt 64) }

def queueAt : List MxRequest := [{ port := 0, m := .hostPort, write := false, addr := 0, len := 8, since := up.now }, { port := 0, m := .dma 2, write := false, addr := 0, len := 8, since := up.now }]

def filling : DmaCh := { single with bytesDone := 0 }

def copying : State := { dma { alone with loaded := true, active := (le 8 8 ++ le 8 16 ++ le 4 8 ++ le 4 1 ++ List.replicate 40 0) } with vault := { hosted.vault with words := [(1, { data := 77 })] } }

theorem meets_DmaChannelsMove :
    ((dma { st := .halted, dbErr := false }).dmaExists 63 = true ∧ 63 < (dma {}).dma.length ∧ ((dma { st := .halted }).dmaCh 63).st = .halted) ∧
    (((dma endMark).dmaCh 63).st ≠ .parked ∧ (dma endMark).endMarkRead 63 = true) ∧
    (((dma parked).dmaCh 63).st = .parked ∧ targetOf (parked.curDesc.toNat + 40) = .host 104 ∧ (dma parked).host.linkUp = true ∧ (1 : BitVec 64) ≠ 0) ∧
    ((dma parked).mxWaiting 21 = [] ∧ up.dmaExists 64 = false ∧ hostChannel 3 = none) ∧
    (hostChannel 63 = some 7 ∧ ((dma { shadow := desc 0 4 4 0 }).dmaCh 63).shadowValid = false ∧ ((dma {}).dmaCh 63).st = .idle ∧ ((dma { st := .running }).dmaCh 63).st = .running) ∧
    ((fetching.st = .running ∧ fetching.loaded = false ∧ fetching.chainCount < fetching.chainLimit) ∧ (desc (hostAt 0) 64 4 0).length = 64 ∧ targetOf fetching.nextAddr.toNat = .host 64 ∧ fetching.nextAddr.toNat % 64 = 0 ∧ (dma fetching).descCause 63 (desc (hostAt 0) 64 4 0) true fetching.nextAddr.toNat = none ∧ (dma fetching).descHeld 63 fetching.nextAddr.toNat = none) ∧
    ((dma fetching).descCause 63 (desc (hostAt 2) 64 4 0) true fetching.nextAddr.toNat = some 6 ∧ descPlace (hostAt 4) = false ∧ descPlace (2 ^ 32) = true ∧ (dma fetching).descHeld 63 (2 ^ 32) = some 2) ∧
    (alone.chain = false ∧ alone.loaded = false ∧ (dma alone).descCause 63 alone.active false alone.nextAddr.toNat = none) ∧
    (((dma { fetching with chainCount := 4096 }).dmaCh 63).chainLimit ≤ 4096 ∧ ((dma { fetching with chainCount := 4096 }).dmaCh 63).owner = none) ∧
    (single.chain = false ∧ (descOf single.active).total ≤ single.bytesDone ∧ (descOf single.active).irqFull = false ∧ (descOf single.active).next = 0 ∧ single.shadowValid = false) ∧
    ((telling.dmaCh 63).owner = none ∧ (telling.dmaCh 63).irqEn = true ∧ telling.host.linkUp = true ∧ (telling.host.msix.getD (4 + 7) {}).masked = false ∧ (descOf (telling.dmaCh 63).active).irqFull = true) ∧
    ((chained.nextRead = true ∧ chained.doneOut = false ∧ chained.lastNext ≠ 0 ∧ (descOf chained.active).total ≤ chained.bytesDone) ∧ (dma chained).host.linkUp = true ∧ targetOf (chained.curDesc.toNat + 56) = .host 120) ∧
    (targetOf (chained.curDesc.toNat + 40) = .host 104 ∧ chained.kickPending = false ∧ chained.shadowValid = false) ∧
    (63 = 3 * 16 + 31 % 16 ∧ ((dma single).dmaCh 63).st = .running ∧ ((dma single).dmaCh 63).owner = none) := by
  refine ⟨?_, ?_, ?_, ?_, ?_, ?_, ?_, ?_, ?_, ?_, ?_, ?_, ?_, ?_⟩ <;> decide +kernel

theorem test_DmaChannelsMove_1 : nx (exec (.kick 63 .failed) (dma endMark)) = dma { endMark with chainCount := 0, kickPending := true } ∧ nx (exec (.kick 63 .failed) (dma { chainCount := 3 })) = dma {} := by
  decide +kernel

theorem test_DmaChannelsMove_2 : nx (exec (.arm 63) (dma { shadow := desc 0 4 4 0 })) = dma { shadow := desc 0 4 4 0, active := desc 0 4 4 0, st := .running } ∧ nx (exec (.arm 63) (dma { st := .running })) = dma { st := .running, shadowValid := true } ∧ nx (exec (.arm 63) (dma { st := .halted })) = dma { st := .halted, dbErr := true } ∧ nx (exec (.stop 63) (dma { st := .running })) = dma { st := .stopping } ∧ nx (exec (.stop 63) (dma { st := .parked, shadowValid := true })) = dma {} := by
  decide +kernel

theorem meets_MatrixBurstsComplete :
    (up.masterActive .teller = true ∧ up.usable 5 ((2 ^ 32 - 8) / 2 ^ 31) = true ∧ up.stalled (6 + (2 ^ 32 - 8) / 2 ^ 31) = false ∧ Memory.wf {} up.vault.words = true) ∧
    (hosted.hostReaches = true ∧ (2 ^ 32 - 64) % 64 = 0) ∧
    (up.masterActive .hostPort = false ∧ up.masterActive (.dma 3) = true ∧ 63 % 64 + 1 ≤ 64) ∧
    (up.mxWinner 0 queueAt = queueAt[1]? ∧ ({ up with tk := up.tk.setCnt ((up.now + mxAge) * 2 ^ 48) } : State).mxWinner 0 queueAt = queueAt[0]?) ∧
    (((dma filling).dmaExists 63 = true ∧ 63 < (dma filling).dma.length ∧ filling = (dma filling).dmaCh 63) ∧ (descOf filling.active).fill = true ∧ (descOf filling.active).irqHalf = false ∧ filling.bytesDone < (descOf filling.active).total ∧ 4 ≤ (descOf filling.active).xLen ∧ (descOf filling.active).piece 0 = (0x04030201, 2 ^ 63, 64) ∧ targetOf (2 ^ 63) = .host (2 ^ 63 - 2 ^ 63) ∧ (dma filling).host.linkUp = true) ∧
    ((descOf (copying.dmaCh 63).active).piece 0 = (8, 16, 8) ∧ (descOf (copying.dmaCh 63).active).fill = false ∧ copying.mxWaiting 0 = [] ∧ (copying.vword 1).flips = [] ∧ copying.usable 5 0 = true) ∧
    ((dma { chained with nextRead := false }).dmaExists 63 = true ∧ chained.kickDue = false) ∧
    (up.powered = true) := by
  refine ⟨?_, ?_, ?_, ?_, ?_, ?_, ?_, ?_⟩ <;> decide +kernel

theorem test_MatrixBurstsComplete_1 : (nx (exec (.matrixBurst (.overrun 2 16 9)) up)).health.cdcOverrun = 1 := by
  decide +kernel

end Moves

namespace Time

def tset (mode : Nat) : List Byte := cmd 0x50 0 (le 1 mode ++ List.replicate 7 0 ++ le 4 65535 ++ le 4 999999999 ++ le 6 100 ++ [0, 0])

def t100 : Nat := ticksOf 100 999999999 65535

def waitingTk : State := { up with tk := { up.tk with setWait := some t100 }, teller := { up.teller with deferred := [{ src := .spi, op := 0x50, tag := 3, notify := false, handle := 0, seq := 1, wait := .timeSet, lost := false }] } }

def adj (kind v : Nat) : List Byte := cmd 0x51 0 (le 1 kind ++ List.replicate 7 0 ++ le 8 v)

def tst : List Byte := cmd 0x52 0 (List.replicate 16 0)

def tst1 : List Byte := cmd 0x52 0 (le 8 64 ++ le 4 16 ++ le 4 0)

def edged : State := up.updTk fun k => { k with lastEdge := some (4 * tickSec) }

def byPps : State := edged.updTk fun k => { k with src := .pps, state := .locked }

def setting : State := edged.updTk fun k => { k with setWait := some t100 }

def heardPeer (n : Nat) : State := let s := up.updTk fun k => { k with src := .peer 63, state := .acquire }
  s.updPort 63 fun q => { q with state := .up, time := { q.time with rxAny := true, peerTk := 0x12, thetas := List.replicate n 300 } }

def byPeer : State := up.updTk fun k => { k with src := .peer 63, state := .locked }

def onRef : State := up.updTk fun k => { k with tkref := .mhz10, state := .locked }

def linksAt (phase : Option Nat) : State := let s := sampling {}
  { s with links := s.links.map fun k => { k with subclass1 := true, lemc := phase } }

def sched (action t : Nat) (tail : List Byte) (mask : Nat := 0) (k : Handle := 0) : List Byte :=
  cmd 0x53 0 (le 8 t ++ le 8 0 ++ le 4 0 ++ le 1 action ++ le 1 mask ++ [0, 0] ++ le 4 k.toNat ++ le 4 0 ++ tail)

def sch1 : List Byte := sched 1 (BitVec.toNat (up.stampAt (5 * tickSec))) (adj 2 44)

def hs : Handle := mkHandle 6 1 0

def slot0 : SchedSlot := { t := up.now, period := 0, count := 0, endless := false, action := 2, syncMask := 0x81, kernel := 0, carried := [], src := .spi }

def withSlot (x : SchedSlot) (s : State := up) : State := { s with handles := { virgin := 1, live := { h := hs, st := .created, obj := .schedule 63 x } :: s.handles.live } }

def entryOf (x : SchedSlot) : Entry := { h := hs, st := .created, obj := .schedule 63 x }

def hk : Handle := mkHandle 5 1 1

def kern : Kernel := { vx := false, clerks := [15], entry := 0, regions := [], channels := [], windows := [] }

def slot3 : SchedSlot := { slot0 with action := 3, syncMask := 0, kernel := hk }

def withK : State := withSlot slot3 { up with handles := { virgin := 1, live := [{ h := hk, st := .created, obj := .kernel kern }] } }

def withV : State := withSlot slot3 { up with handles := { virgin := 1, live := [{ h := hk, st := .created, obj := .kernel { kern with vx := true, clerks := [] } }] } }

def safeK : State := { withK with teller := { withK.teller with safe := true } }

def slot1 : SchedSlot := { slot0 with action := 1, carried := adj 2 44, syncMask := 0 }

def slotBad : SchedSlot := { slot1 with carried := adj 2 (2 ^ 63) }

def pulsing (t : Nat) : State := { up with pins := { up.pins with syncOut := up.pins.syncOut.set 7 (some t) } }

theorem meets_TheTimekeeperKeepsTime :
    (Accepted 0x50 timeSetBody .spi true .failed (pkt (tset 1)) (spi (tset 1) up) ∧ fullOf (tset 1) 24 = some t100 ∧ Accepted 0x50 timeSetBody .spi true .failed (pkt (tset 0)) (spi (tset 0) up) ∧ fullOf (tset 0) 24 = some t100) ∧
    (waitingTk.tk.setWait = some t100) ∧
    (Accepted 0x51 timeAdjustBody .spi true .failed (pkt (adj 0 (2 ^ 64 - 65536000000))) (spi (adj 0 (2 ^ 64 - 65536000000)) up) ∧ Accepted 0x51 timeAdjustBody .spi true .failed (pkt (adj 1 (2 ^ 64 - 1))) (spi (adj 1 (2 ^ 64 - 1)) up) ∧ Accepted 0x51 timeAdjustBody .spi true .failed (pkt (adj 2 10000000000000)) (spi (adj 2 10000000000000) up) ∧ 0 ≤ (up.now : Int) + -1) ∧
    (Accepted 0x52 timeStatusBody .ring true .failed (rpkt tst) (onRing tst up) ∧ u64 tst 16 = 0 ∧ Accepted 0x52 timeStatusBody .spi true .failed (pkt tst) (spi tst up)) ∧
    (Accepted 0x52 timeStatusBody .ring true .failed (rpkt tst1) (onRing tst1 up) ∧ u64 tst1 16 ≠ 0 ∧ Accepted 0x52 timeStatusBody .ring false .failed { rpkt tst1 with wr := false } (onRing tst1 up) ∧ up.tk.setWait = none) ∧
    (edged.tk.ppsAccepts (4 * tickSec + tickSec / 2 - 1) 100 = false ∧ edged.tk.ppsAccepts (5 * tickSec) 99 = false) ∧
    (byPps.tk.ppsAccepts (5 * tickSec + 65536000) 100 = true ∧ byPps.tk.setWait = none ∧ byPps.tk.src = .pps ∧ byPps.tk.ppsError (5 * tickSec + 65536000) = 65536000 ∧ (byPps.tk.ppsError (5 * tickSec + 65536000)).natAbs ≤ 1000 * 65536) ∧
    (byPps.tk.ppsAccepts (5 * tickSec + 1001 * 65536) 100 = true ∧ 1000 * 65536 < (byPps.tk.ppsError (5 * tickSec + 1001 * 65536)).natAbs ∧ edged.tk.src ≠ .pps ∧ edged.tk.ppsAccepts (5 * tickSec) 100 = true ∧ edged.tk.setWait = none) ∧
    (setting.tk.ppsAccepts (4 * tickSec + tickSec / 2) 100 = true ∧ setting.tk.setWait = some t100 ∧ setting.idleForStep = true ∧ (setting.updTk fun k => { k with lastEdge := none }).tk.ppsAccepts (4 * tickSec) 100 = true ∧ 4 * tickSec ≤ setting.now) ∧
    ((byPps.updTk fun k => { k with ppsValid := true }).tk.ppsValid = true ∧ byPps.tk.src = .pps ∧ byPps.tk.state = .locked) ∧
    ((up.updTk fun k => { k with ppsValid := true }).tk.src = .none ∧ up.tk.tkref ≠ .lost ∧ (up.updTk fun k => { k with ppsValid := true }).tk.ppsValid = true) ∧
    ((heardPeer 32).tk.src = .peer 63 ∧ 63 < (heardPeer 32).ports.length ∧ ((heardPeer 32).port 63).time.peerLocked = true ∧ (heardPeer 32).tk.ppsValid = false ∧ ((heardPeer 32).port 63).time.thetas.length = 32) ∧
    (byPeer.tk.src = .peer 63 ∧ (byPeer.port 63).state ≠ .up ∧ byPeer.tk.ppsValid = false ∧ byPeer.tk.state = .locked ∧ ∀ n ∈ List.range 64, (byPeer.port n).candidate = false) ∧
    (onRef.tk.tkref = .mhz10 ∧ onRef.tk.state = .locked) ∧
    (voteCounters [1, 2, 4] = none ∧ up.tk.tkref ≠ .lost ∧ voteCounters [5, 5, 6] = some 5) ∧
    (up.powered = true ∧ ((linksAt (some (4 * tickSec - 3 * tickNs))).links.countP fun k => k.subclass1 && (linksAt (some (4 * tickSec - 3 * tickNs))).sysrefMisaligned k (linksAt (some (4 * tickSec - 3 * tickNs))).now) = 1) := by
  simp only [Accepted, Turn]
  refine ⟨?_, ?_, ?_, ?_, ?_, ?_, ?_, ?_, ?_, ?_, ?_, ?_, ?_, ?_, ?_, ?_⟩ <;> decide +kernel

theorem test_TheTimekeeperKeepsTime_1 : (nx (exec .ppsOutSecond up)).pins.ppsOut = true ∧ (nx (exec .ppsOutEnd (nx (exec .ppsOutSecond up)))).pins.ppsOut = false := by
  decide +kernel

theorem meets_SchedulesFire :
    (Accepted 0x53 scheduleBody .spi true .failed (pkt sch1) (spi sch1 up) ∧ (spi sch1 up).handles.Fit) ∧
    ((withSlot slot0).schedOf 63 = some (entryOf slot0, slot0) ∧ (withSlot slot0).find hs = some (entryOf slot0) ∧ slot0.due ≤ (withSlot slot0).now ∧ (withSlot slot0).now < ({ slot0 with t := up.now + 1 } : SchedSlot).due) ∧
    (withK.schedOf 63 = some (entryOf slot3, slot3) ∧ slot3.due ≤ withK.now ∧ withK.teller.safe = false ∧ withK.kernel? hk = some kern ∧ 15 < withK.clerks.length) ∧
    (withV.schedOf 63 = some (entryOf slot3, slot3) ∧ 1 < withV.vx.ctx.length ∧ (withV.kernel? hk).map (·.vx) = some true ∧ up.schedOf 63 = none) ∧
    (safeK.schedOf 63 = some (entryOf slot3, slot3) ∧ slot3.action ≠ 2 ∧ safeK.teller.safe = true) ∧
    (let s := withSlot slot1; let p := carriedPkt .spi (adj 2 44) up.now s; s.schedOf 63 = some (entryOf slot1, slot1) ∧ slot1.due ≤ s.now ∧ s.teller.safe = false ∧ (slot1.t, 63) ∈ s.readyTurns ∧ (∀ r ∈ s.readyTurns, turnBefore r (slot1.t, 63) = false) ∧ s.canTake .spi p = true ∧ u8 slot1.carried 0 = 0x51 ∧ u8 slot1.carried 16 = 2 ∧ p.refusal (timeAdjustBody p s) s = none ∧ slot1.ends = true) ∧
    (let s := withSlot slotBad; let p := carriedPkt .spi slotBad.carried up.now s; s.schedOf 63 = some (entryOf slotBad, slotBad) ∧ (slotBad.t, 63) ∈ s.readyTurns ∧ s.canTake .spi p = true ∧ (p.refusal (carriedBody p s) s).map (·.status) = some stParam) ∧
    ((pulsing up.now).pins.syncOut.getD 7 none = some up.now ∧ up.now ≤ (pulsing up.now).now ∧ (pulsing (up.now + 1)).now < up.now + 1) := by
  simp only [Accepted, Handles.Fit, Turn]
  refine ⟨?_, ?_, ?_, ?_, ?_, ?_, ?_, ?_⟩ <;> decide +kernel

theorem test_SchedulesFire_1 : (nx (exec (.syncOutPulseEnd 7) (pulsing up.now))).pins.syncOut = up.pins.syncOut ∧ nx (exec (.syncOutPulseEnd 7) (pulsing (up.now + 1))) = pulsing (up.now + 1) := by
  decide +kernel

end Time

namespace Service

def quiet : State := { State.reset with boot := { phase := .quiet } }

def booting : State := { quiet with boot := { phase := .booting }, pins := { vddAo := true, resetN := true, pwrOk := true } }

def image : List Byte := let z := [0x5A, 0x46, 0x57, 0x49] ++ le 4 0 ++ le 4 32 ++ le 4 6 ++ le 4 77 ++ List.replicate 12 0
  patch z 20 (le 4 (crc32 z))

def loaded : State := { booting with boot := { booting.boot with image := some 0 } }

def spd : Spd := { rdimm := true, x4 := true, ranks := 2, density := 16, rating := 6400, capacity := 2 ^ 36, vendor := 3, rfm := true }

def mods : List Training := [.empty, .module spd true, .module { spd with rating := 5600 } true, .module spd false]

def bisted : State := { loaded with boot := { loaded.boot with bistDone := true, trained := true }, teller := up.teller, service := { up.service with flash := { up.service.flash with dies := [{ pages := [9] }, {}] } } }

def hosted : State := { up with host := { up.host with ready := true }, log := { entries := [(6, [1]), (7, [2])], next := 8, mirror := [[2]] } }

def worn : State := { up with teller := { up.teller with channels := up.teller.channels.map fun (c : Channel) => { c with fails := [up.now, up.now] } } }

def twoLeft (x : Channel) : State := { up with teller := { up.teller with channels := [{ st := .lead }, { st := .check }, x] } }

def flowing : State := running .running prod

def hot : List Int := (List.replicate 72 700).set 31 1600

def warm : State := up.updHealth fun h => { h with trigRun := 9 }

def hrd (what : Nat) : List Byte := cmd 0x60 0 (le 1 what ++ List.replicate 23 0)

def hring (what flags : Nat) : List Byte := cmd 0x60 0 (le 1 what ++ le 1 flags ++ le 1 0 ++ le 1 (if what < 2 then 0 else 2) ++ le 4 0 ++ le 8 64 ++ le 4 32 ++ le 4 0)

def counting : State := { up with vault := { up.vault with cnt := [{ corr := 5, passLast := 9 }, { uncorr := 7 }] } }

def hclr : List Byte := cmd 0x60 0 ([2, 1, 1, 1] ++ List.replicate 20 0)

def lrd : List Byte := cmd 0x61 0 (le 4 0 ++ le 2 128 ++ List.replicate 18 0)

def logged : State := { up with log := { entries := [(6, List.replicate 32 1), (7, List.replicate 32 2)], next := 8, mirror := [] } }

def lring : List Byte := cmd 0x61 0 (le 4 0 ++ le 2 128 ++ le 2 0 ++ le 8 64 ++ le 4 32 ++ le 4 0)

def mon : List Byte := cmd 0x64 0 (le 2 1 ++ le 2 0 ++ [1, 31, 1, 0] ++ le 2 1600 ++ le 2 64896)

def stale : State := { up with ledger := { up.ledger with dirty := true }, host := { up.host with msix := List.replicate 64 { masked := false } } }

def unsaved : State := { up with service := { up.service with dirty := true } }

def tapS : State := { up with jtag := { up.jtag with tap := .capDr } }

theorem meets_DeviceBootsAndResets :
    (State.reset.boot.phase = .off ∧ quiet.boot.phase = .quiet ∧ (2 : BitVec 2) ≠ 3) ∧
    (booting.boot.phase = .booting ∧ booting.boot.tkrefDone = false) ∧
    (booting.boot.image = none ∧ booting.boot.forced = none ∧ booting.boot.bootMode = 0 ∧ validImage [] = none ∧ validImage image = some (6, 77)) ∧
    (loaded.boot.image.isSome = true ∧ loaded.boot.bistDone = false ∧ loaded.teller.safe = false ∧ loaded.boot.phase = .booting) ∧
    (loaded.fuse.variant = .a ∧ loaded.boot.trained = false ∧ mods[1]? = some (.module spd true) ∧ mods[4]? = none ∧ spdAccepted spd = true) ∧
    (bisted.boot.bistDone = true ∧ bisted.boot.trained = true ∧ bisted.ledger.firstDone = false ∧ bisted.teller.safe = false ∧ bisted.boot.phase = .booting) ∧
    (loaded.boot.bootMode = 0 ∧ loaded.boot.testMode = false ∧ loaded.boot.image = some 0 ∧ loaded.boot.fallback = false) ∧
    (hosted.powered = true ∧ hosted.hostReaches = true ∧ bits (0x52530002 : BitVec 32).toNat 31 16 = 0x5253 ∧ bits (0x52530002 : BitVec 32).toNat 1 0 = 2 ∧ bits (0x52530001 : BitVec 32).toNat 1 0 = 1) ∧
    (bits (0x52520001 : BitVec 32).toNat 31 16 ≠ 0x5253) := by
  refine ⟨?_, ?_, ?_, ?_, ?_, ?_, ?_, ?_, ?_⟩ <;> decide +kernel

theorem test_DeviceBootsAndResets_1 : nx (exec (.tellerRestart 0x52520001) hosted) = hosted ∧ nx (exec (.deviceReset 2) hosted) = hosted := by
  decide +kernel

theorem meets_TheTellerSurvivesAndReports :
    (up.tellerRuns = true ∧ up.teller.safe = false ∧ up.teller.channels.length = 3 ∧ (∀ n ∈ List.range 3, up.usable 4 n = true) ∧ up.health.stalled.contains 17 = false ∧ (up.channel 2).active = true ∧ (up.channel 2).st ≠ .lead ∧ (up.channel 2).fails = [] ∧ up.voting = 3 ∧ (up.channel 0).st = .lead ∧ (up.channel 1).st = .check ∧ (up.channel 2).st = .check ∧ (up.channel 0).fails = []) ∧
    ((worn.channel 1).fails = [up.now, up.now] ∧ worn.now < up.now + tickDay ∧ (worn.channel 1).active = true) ∧
    ((twoLeft { st := .rejoining }).tellerRuns = true ∧ (twoLeft { st := .rejoining }).voting = 2 ∧ ((twoLeft { st := .rejoining }).channel 1).active = true) ∧
    (((twoLeft { st := .rejoining }).channel 2).st = .rejoining ∧ 2 < (twoLeft { st := .rejoining }).teller.channels.length ∧ ((twoLeft { st := .rejoining }).channel 2).transfer = false ∧ ((twoLeft { st := .rejoining, transfer := true }).channel 2).transfer = true ∧ up.ledger.usable.teller.length = 3 ∧ ((twoLeft { st := .failed }).channel 2).st = .failed ∧ ((twoLeft { st := .failed }).channel 2).latched = false) ∧
    (up.teller.safe = false ∧ ({ up with teller := { up.teller with safe := true } } : State).teller.safe = true) ∧
    (flowing.teller.safe = false ∧ flowing.stalled 12 = false ∧ (flowing.octet (8 / 8)).isEgress = true ∧ flowing.laneRuns 8 = true ∧ flowing.healthDue 8 = true) ∧
    (warm.fuse.variant = .a ∧ hot.length = 72 ∧ warm.health.sensors.length = 72 ∧ hot.getD 31 0 ≥ 1600 ∧ (∀ i ∈ List.range 32, hot.getD i 0 < 1760) ∧ (∀ i ∈ List.range 8, hot.getD (32 + i) 0 ≥ 690) ∧ warm.health.trigRun = 9 ∧ warm.health.throttle < 3) ∧
    (0 < (up.updHealth fun h => { h with throttle := 3, cool := 1000 }).health.throttle ∧ 1000 ≤ (up.updHealth fun h => { h with throttle := 3, cool := 1000 }).health.cool) ∧
    (Accepted 0x60 healthReadBody .spi true .failed (pkt (hrd 0)) (spi (hrd 0) up) ∧ u8 (hrd 0) 16 = 0 ∧ u8 (hrd 0) 17 = 0 ∧ Accepted 0x60 healthReadBody .spi false .failed { pkt (hrd 1) with wr := false } (spi (hrd 1) up) ∧ up.health.statement.length = 256) ∧
    (Accepted 0x60 healthReadBody .ring true .failed (rpkt (hring 2 0)) (onRing (hring 2 0) up) ∧ u8 (hring 2 0) 16 ≠ 0 ∧ min (u32 (hring 2 0) 32) (up.healthData 2 0 2).length = 32 ∧ Accepted 0x60 healthReadBody .ring false .failed { rpkt (hring 2 1) with wr := false } (onRing (hring 2 1) up)) ∧
    (Accepted 0x60 healthReadBody .spi true .failed (pkt hclr) (spi hclr counting) ∧ (counting.healthData 2 1 1).length ≤ 4096 ∧ bit (u8 hclr 17) 0 = true) ∧
    (Accepted 0x61 logReadBody .spi true .failed (pkt lrd) (spi lrd logged) ∧ max (u32 lrd 16) (((logged.log.entries.head?).map (·.1)).getD 0) = 6) ∧
    (Accepted 0x61 logReadBody .ring true .failed (rpkt lring) (onRing lring logged) ∧ Accepted 0x61 logReadBody .ring false .failed { rpkt lring with wr := false } (onRing lring logged)) ∧
    (Accepted 0x64 monitorSetBody .spi true .failed (pkt mon) (spi mon up) ∧ u16 mon 16 = 1) ∧
    (stale.ledger.dirty = true ∧ stale.teller.safe = false ∧ stale.host.linkUp = true ∧ (stale.host.msix.getD 3 {}).masked = false) ∧
    (unsaved.service.dirty = true ∧ unsaved.health.stalled.contains 16 = false) ∧
    (up.powered = true ∧ islandPresent up.fuse.variant 13 = true ∧ up.stalled 17 = false ∧ up.stalled 13 = false) ∧
    (tapS.boot.phase ≠ .off ∧ tapS.jtag.tap = .capDr ∧ tapS.jtag.ir = 0x01) := by
  simp only [Accepted, Turn]
  refine ⟨?_, ?_, ?_, ?_, ?_, ?_, ?_, ?_, ?_, ?_, ?_, ?_, ?_, ?_, ?_, ?_, ?_, ?_⟩ <;> decide +kernel

theorem test_TheTellerSurvivesAndReports_1 : (nx (exec (.tapClock false false true) tapS)).jtag.dr = 0x1C4046BD ∧ (nx (exec (.tapClock true true true) tapS)).jtag.tap = .reset ∧ (nx (exec (.tapClock false false true) { up with jtag := { up.jtag with tap := .updIr, irShift := 7 } })).jtag.ir = 7 := by
  decide +kernel

end Service

namespace Lanes

def lset : List Byte := cmd 0x10 0 (le 2 2 ++ le 2 0 ++ le 1 1 ++ [0] ++ le 2 63 ++ le 4 0x0B ++ List.replicate 16 0 ++ le 1 2 ++ [0] ++ le 2 511 ++ le 4 0x0000_0010 ++ List.replicate 16 0)

def lstat : List Byte := cmd 0x11 0 (le 2 511 ++ le 2 1 ++ List.replicate 20 0)

def lstatc (f : Nat) : List Byte := cmd 0x11 0 (le 2 511 ++ le 2 1 ++ le 1 f ++ List.replicate 19 0)

def counted : State := { up with lanes := up.lanes.set 511 { word := 0x5000, slips := 7 } }

def testing (x : LaneTest) : State := { up with octets := up.octets.set 63 { role := 3 }, lanes := up.lanes.set 511 { word := 0, rx := if x.on then .test else .aligned, test := x } }

def ltest (action gen eye : Nat) : List Byte := cmd 0x12 0 (le 2 511 ++ le 2 1 ++ le 1 action ++ [0] ++ le 1 gen ++ [0, 0] ++ le 1 eye ++ le 1 (20 * eye) ++ [0])

def lckd : State := testing { on := true, chk := 1, errors := 3, bits := 9, chkLocked := true }

def waiter (op : Nat) (w : Wait) : Deferred := { src := .spi, op := op, tag := 3, notify := false, handle := 0, seq := 1, wait := w, lost := false }

def scanning : State := { testing { eye := true } with teller := { up.teller with deferred := [waiter 0x12 (.eyeScan 511)] } }

def egr (h : Handle) (lane : Nat) : List Byte := cmd 0x14 h.toNat (le 2 lane ++ [1, 0, 64, 0] ++ le 2 0 ++ List.replicate 12 5 ++ [1, 2, 3, 4, 5, 6, 7, 8] ++ le 4 0 ++ le 2 9000 ++ le 2 0)

def egr0 : List Byte := cmd 0x14 hx.toNat (le 2 9 ++ List.replicate 34 0)

def twoPorts : State := let s := running .stopped prod
  { s with egress := [(8, { mtu := 9000 }), (9, { mtu := 9000 })] }

def des (h : Handle) : List Byte := cmd 0x3F h.toNat []

def hs : Handle := mkHandle 6 1 0

def sched : SchedSlot := { t := 0, period := 0, count := 0, endless := false, action := 2, syncMask := 1, kernel := 0, carried := [], src := .spi }

def withSlot : State := { up with handles := { virgin := 1, live := [{ h := hs, st := .stopped, obj := .schedule 63 sched }] } }

def hkey : Handle := mkHandle 7 1 15

def keyed : State := { up with ledger := { up.ledger with keys := List.replicate 15 {} ++ [{ state := 1, usage := 1, key := List.replicate 16 7, handle := hkey }] }, handles := { virgin := 1, live := [{ h := hkey, st := .created, obj := .keySlot 15 }] } }

def rst (t : Nat) : List Byte := cmd 0x08 t []

def retrying : State := { up with ledger := { up.ledger with usable := { allUsable with clerks := List.replicate 16 false } }, teller := { up.teller with deferred := [waiter 0x08 (.resetUnit [⟨2, 15⟩])] } }

def bad16 : State := { retrying with teller := { retrying.teller with deferred := [waiter 0x08 (.resetUnit [⟨2, 14⟩, ⟨2, 15⟩])] } }

def chan6 : State := { retrying with teller := { retrying.teller with deferred := [waiter 0x08 (.resetUnit [⟨6, 7⟩])] } }

def laneAt (role : BitVec 2) (l : Lane) : State := { up with octets := up.octets.set 63 { role := role }, lanes := up.lanes.set 511 l }

def plls : State := { up with octets := (up.octets.map fun o => { o with pll := .waiting }).set 0 { pll := .starting, pllStart := up.now } }

def starting (n : Nat) : State := { up with octets := up.octets.set 63 { role := 2, pll := .starting, pllStart := up.now - n } }

def acq : Lane := { word := 0, rx := .acquire, pllUnlock := true }

def lockAt (role : BitVec 2) (l : Lane) : State := { laneAt role l with octets := up.octets.set 63 { role := role, pll := .starting } }

def goodStream (pos : Nat) : Nat := ((List.range 65).map fun i => 2 ^ (pos + 66 * i)).sum

def lck : Lane := { word := 0, rx := .locked, lockLoss := 65535 }

def slipping : State := let s := sampling {}
  { s with octets := s.octets.set 0 { role := 1 }, lanes := s.lanes.map fun l => { l with rx := .aligned } }

def resuming : Lane := { word := 0, rx := .standby, rxResume := true, txResume := true, held := true }

def fab : State := { up with octets := up.octets.set 63 { role := 2, width := 3 }, lanes := up.lanes.set 511 lck }

def goodMark (s : State) : BitVec 64 := BitVec.ofNat 64 (0x5C + 7 * 256 + (s.octet 63).width.toNat * 4096 + 9 * 2 ^ 48 + 0xA5 * 2 ^ 56)

def oldMark (c b good : Nat) : MarkerSeen := { markerOfPayload (goodMark fab).toNat with mcount := c, mismatch := b, good := good }

def marked (c b good : Nat) (al : Bool) : State := { fab with
  octets := up.octets.set 63 { role := 2, width := 3, pll := .locked }
  lanes := (List.range 512).map fun i => if 504 ≤ i then lck else up.lane i
  ports := up.ports.set 63 { up.port 63 with aligned := al, markers := ((List.range 7).map fun j => (504 + j, { oldMark 9 0 2 with index := j })) ++ [(511, oldMark c b good)] } }

def inTest (x : LaneTest) : Lane := { word := 0, rx := .test, test := { x with on := true, chk := 1 } }

def prbs7 : Nat := (lfsrRun 7 6 135 1).1

def whole : List Byte := List.replicate 60 7 ++ le 4 (crc32 (List.replicate 60 7))

def linked0 : State := let s := sampling {}
  { s with links := s.links.map fun k => { k with aligned := false }, lanes := s.lanes.map fun l => { l with rx := .locked } }

def linked1 (al : Bool) (lemc : Option Nat) : State := { linked0 with links := linked0.links.map fun k => { k with aligned := al, lemc := lemc } }

def linked2 : State := { linked0 with links := linked0.links.map fun k => { k with aligned := true, subclass1 := true, lemc := none } }

theorem meets_LaneAndUnitCommandsAct :
    (Accepted 0x10 laneSetBody .spi true .failed (pkt lset) (spi lset up) ∧ (spi lset up).lanes.length = 512 ∧ (spi lset up).octets.length = 64) ∧
    (Accepted 0x11 laneStatusBody .spi true .failed (pkt lstat) (spi lstat up) ∧ u8 lstat 20 = 0) ∧
    (Accepted 0x11 laneStatusBody .spi true .failed (pkt (lstatc 1)) (spi (lstatc 1) counted) ∧ bit (u8 (lstatc 1) 20) 0 = true) ∧
    (Accepted 0x11 laneStatusBody .spi true .failed (pkt (lstatc 4)) (spi (lstatc 4) counted)) ∧
    (Accepted 0x12 laneTestBody .spi true .failed (pkt (ltest 0 3 1)) (spi (ltest 0 3 1) (testing {})) ∧ bit (u8 (ltest 0 3 1) 25) 0 = true ∧ u16 (ltest 0 3 1) 18 = 1) ∧
    (Accepted 0x12 laneTestBody .spi true .failed (pkt (ltest 0 3 0)) (spi (ltest 0 3 0) (testing {})) ∧ Accepted 0x12 laneTestBody .spi true .failed (pkt (ltest 1 0 0)) (spi (ltest 1 0 0) (testing { on := true })) ∧ Accepted 0x12 laneTestBody .spi true .failed (pkt (ltest 2 0 0)) (spi (ltest 2 0 0) (testing { on := true, errors := 3, bits := 2 ^ 33 })) ∧ ((testing { on := true, errors := 3, bits := 2 ^ 33 }).lane 511).test.chkLocked = false) ∧
    (Accepted 0x12 laneTestBody .spi true .failed (pkt (ltest 3 0 0)) (spi (ltest 3 0 0) lckd) ∧ (lckd.lane 511).test.chkLocked = true) ∧
    ((scanning.lane 511).test.eye = true ∧ scanning.teller.deferred = [waiter 0x12 (.eyeScan 511)]) ∧
    (([33, 31] : List Byte).map BitVec.toNat = [33, 31] ∧ (scanning.lane 511).test.eye = true) ∧
    (Accepted 0x14 egressSetBody .spi true .failed (pkt (egr 0 9)) (spi (egr 0 9) (running .stopped prod)) ∧ (pkt (egr 0 9)).target = 0) ∧
    (Accepted 0x14 egressSetBody .spi true .failed (pkt egr0) (spi egr0 twoPorts) ∧ (pkt egr0).target ≠ 0 ∧ (spi egr0 twoPorts).xprod? hx = some prod) ∧
    (Accepted 0x3F destroyBody .spi true .failed (pkt (des hx)) (spi (des hx) (running .stopped prod)) ∧ ((spi (des hx) (running .stopped prod)).find hx).isSome = true) ∧
    (Accepted 0x3F destroyBody .spi true .failed (pkt (des hs)) (spi (des hs) withSlot) ∧ (spi (des hs) withSlot).find hs = some { h := hs, st := .stopped, obj := .schedule 63 sched }) ∧
    (Accepted 0x3F destroyBody .spi true .failed (pkt (des hkey)) (spi (des hkey) keyed) ∧ (spi (des hkey) keyed).find hkey = some { h := hkey, st := .created, obj := .keySlot 15 }) ∧
    (Accepted 0x08 resetUnitBody .spi true .failed (pkt (rst 0x2FFFF)) (spi (rst 0x2FFFF) { up with clerks := List.replicate 16 {} })) ∧
    (bad16.teller.safe = false ∧ ([14, 15] : List Nat).Nodup ∧ bad16.teller.deferred = [waiter 0x08 (.resetUnit (([14, 15] : List Nat).map fun n => ⟨2, n⟩))]) ∧
    (chan6.teller.deferred = [waiter 0x08 (.resetUnit (([7] : List Nat).map fun n => ⟨6, n⟩))] ∧ chan6.ledger.usable.resCh.length = 8 ∧ chan6.reserve.ch.length = 8) ∧
    (({ up with teller := { up.teller with safe := true } } : State).teller.safe = true ∧ up.teller.deferred = []) ∧
    (retrying.teller.safe = false ∧ retrying.present 2 15 = true ∧ retrying.ledger.usable.clerks.length = 16 ∧ retrying.teller.deferred = [waiter 0x08 (.resetUnit [⟨2, 15⟩])]) := by
  simp only [Accepted, Turn]
  refine ⟨?_, ?_, ?_, ?_, ?_, ?_, ?_, ?_, ?_, ?_, ?_, ?_, ?_, ?_, ?_, ?_, ?_, ?_, ?_⟩ <;> decide +kernel

theorem meets_LanesLockAndLose :
    (plls.lanes.length = 512 ∧ plls.octets.length = 64 ∧ plls.ports.length = 64 ∧ (plls.octet 3).pll = .waiting ∧ ((List.range 3).filter fun m => (plls.octet m).pll == .waiting).length < 4 ∧ (plls.octet 5).pll = .waiting ∧ ((List.range 5).filter fun m => (plls.octet m).pll == .waiting).length = 4 ∧ (∀ n ∈ List.range 64, (plls.octet n).pll ≠ .failed) ∧ plls.groupOver false = false) ∧
    (((starting (20000 * tickNs)).octet 63).pll = .starting ∧ ((starting (20000 * tickNs)).octet 63).pllStart + 20000 * tickNs ≤ (starting (20000 * tickNs)).now ∧ ((starting (20000 * tickNs - 1)).octet 63).pllStart + 20000 * tickNs > up.now) ∧
    (findLock (goodStream 5) searchBlocks 0 0 = some 4 ∧ findLock 0 searchBlocks 0 0 = none ∧ ((lockAt 2 acq).lane 511).rx = .acquire ∧ ((lockAt 2 acq).lane 511).rxPower = 0 ∧ ((lockAt 2 acq).lane 511).rxResume = false ∧ (lockAt 2 acq).pllRuns 63 = true ∧ ((lockAt 2 acq).octet (511 / 8)).isFabric = true ∧ ((lockAt 3 acq).octet (511 / 8)).isEgress = true ∧ ((lockAt 1 acq).octet (511 / 8)).isIngest = true) ∧
    (((lockAt 3 acq).lane 511).faultClear = true ∧ ((lockAt 3 { acq with faultClear := false }).lane 511).faultClear = false) ∧
    (((laneAt 2 acq).lane 511).rx = .acquire ∧ (laneAt 2 acq).pllRuns 63 = false) ∧
    (((laneAt 2 lck).lane 511).hasLock = true ∧ ((laneAt 2 lck).octet (511 / 8)).isIngest = false ∧ ((laneAt 1 lck).octet (511 / 8)).isIngest = true) ∧
    (((laneAt 2 acq).lane 511).hasLock = false) ∧
    ((slipping.lane 0).hasLock = true ∧ (slipping.octet 0).isIngest = true ∧ (slipping.linkOfLane 0).map (fun k => (k.first, k.aligned)) = some (0, true)) ∧
    (((lockAt 2 resuming).lane 511).rxResume = true ∧ ((lockAt 2 resuming).lane 511).rx = .standby ∧ (lockAt 2 resuming).pllRuns 63 = true ∧ ((lockAt 3 resuming).octet (511 / 8)).isFabric = false) ∧
    (((laneAt 2 lck).lane 511).rxResume = false ∧ ((laneAt 2 { lck with rxResume := true }).lane 511).rx ≠ .standby) ∧
    ((fab.octet (511 / 8)).isFabric = true ∧ (fab.portLanes (511 / 8)).contains 511 = true ∧ (fab.lane 511).hasLock = true ∧ (fab.port (511 / 8)).markerOn 511 = none ∧ fab.markerFits 511 (goodMark fab).toNat 48 = true ∧ fab.markerFits 511 (goodMark fab).toNat 49 = false) ∧
    ((up.octet (511 / 8)).isFabric = false) ∧
    (((marked 8 0 1 false).port 63).markerOn 511 = some (oldMark 8 0 1) ∧ (markerOfPayload (goodMark fab).toNat).mcount = 9 ∧ (marked 8 0 1 false).markerFits 511 (goodMark fab).toNat 0 = true ∧ (marked 8 0 1 false).portAwake 63 = true ∧ ((marked 8 0 1 false).portLanes 63).all (fun i => i == 511 || ((marked 8 0 1 false).lane i).hasLock) = true) ∧
    (((marked 9 3 2 true).port 63).markerOn 511 = some (oldMark 9 3 2) ∧ (marked 9 3 2 true).markerFits 511 (goodMark fab).toNat 0 = true ∧ (markerOfPayload (goodMark fab).toNat).mcount ≠ (9 + 1) % 256) ∧
    ((laneAt 2 (inTest { inject := 5 })).strikes 511 = true ∧ (laneAt 2 lck).strikes 511 = false ∧ (laneAt 2 (inTest { inject := 2, injK := 10, struck := some (laneAt 2 lck).now })).strikes 511 = false) ∧
    (((laneAt 2 { inTest { inject := 9, loop := 1 } with invalidSh := 4 }).lane 511).loops = true ∧ ((laneAt 2 (inTest { inject := 1, loop := 1, chkLocked := true })).lane 511).test.chkLocked = true) ∧
    (((laneAt 2 (inTest {})).lane 511).checking = true ∧ prbsLocks 1 false prbs7 = true ∧ prbsLocks 1 false (prbs7 ^^^ 2 ^ 100) = false ∧ prbsLocks 1 true (prbs7 ^^^ (2 ^ 135 - 1)) = true) ∧
    (((laneAt 2 (inTest { chkLocked := true })).lane 511).test.cleared = false ∧ ((laneAt 2 (inTest { chkLocked := true, cleared := true })).lane 511).checking = true) ∧
    (((laneAt 3 lck).octet (511 / 8)).isEgress = true ∧ ((laneAt 3 { lck with faultClear := false }).lane 511).faultClear = false ∧ ((laneAt 3 { lck with faultClear := false }).lane 511).rx = .locked ∧ fcsOk whole = true ∧ fcsOk [1, 2] = false) ∧
    (((laneAt 3 { lck with slip := some true }).lane 511).slip = some true ∧ ((laneAt 3 lck).lane 511).slip = none) ∧
    ((up.octet (511 / 8)).isEgress = false) ∧
    ((linked0.linkNamed 0).map (fun k => (k.subclass1, k.lanes, k.e, k.aligned)) = some (false, [0], 1, false) ∧ (linked0.lane 0).hasLock = true ∧ ([true] : List Bool).getD 0 false = true) ∧
    ((linked2.linkNamed 0).map (fun k => (k.subclass1, k.lemc, k.aligned)) = some (true, none, true) ∧ ((linked1 true (some 0)).linkNamed 0).map (fun k => (k.lemc, k.aligned)) = some (some 0, true) ∧ (linked1 true (some 0)).teller.safe = false ∧ ((linked1 true (some 0)).input 0).map.map (·.link) = some 0) := by
  refine ⟨?_, ?_, ?_, ?_, ?_, ?_, ?_, ?_, ?_, ?_, ?_, ?_, ?_, ?_, ?_, ?_, ?_, ?_, ?_, ?_, ?_, ?_, ?_⟩ <;> decide +kernel

theorem test_LanesLockAndLose_1 : nx (exec (.injectStrike 511) (laneAt 2 (inTest { inject := 5 }))) = laneAt 2 (inTest { inject := 4, strike := true, struck := some (laneAt 2 lck).now }) ∧ nx (exec (.injectStrike 511) (laneAt 2 lck)) = laneAt 2 lck := by
  decide +kernel

end Lanes

namespace Block

def stepped (s : State) : Option State := match step s with | .next t => some t | _ => none

def held : State := match ({} : Handles).alloc (.keySlot 3) with | some e => { up with handles := e.2 } | none => up

theorem meets_StepRunsTheFrontCommand :
    (up.pending = []) := by
  decide +kernel

theorem meets_MemoriesStayCanonical :
    (up.Canonical ∧ (stepped up).isSome = true) := by
  simp only [State.Canonical]
  decide +kernel

theorem meets_HandlesStayApart :
    (held.handles.Fit ∧ held.handles.live.length = 1 ∧ (stepped held).isSome = true) := by
  simp only [Handles.Fit]
  decide +kernel

end Block

end Sys2Proof.Tests
end

section
/-! SUPPORT. How one word of the vector engine runs (R256, R260): what an update of a context leaves alone, the outcome of a word
by what it issues, and the registers that a word leaves behind. -/
namespace Sys2Proof.Proofs
open Sys2Proof.Machine Sys2Proof.Laws

/-! ### Commands that move an engine only -/

/-- An effect within the engines and the counter of free values raises no event and starts no rewrite. -/
theorem settleFlags_engines (s t : State) (h : t = { s with vx := t.vx, clerks := t.clerks, freeCtr := t.freeCtr }) :
    settleFlags s t = .next t := by
  have flags : t.eventFlags = s.eventFlags := by
    apply eventFlags_congr <;> rw [h]
  have same : settled s t = t := by
    rw [settled_same s t (by rw [h]), h]
  rw [settleFlags, settle, noticeFlags_same s t flags, same]

/-- A program word without inverted bits is read as it is (R305). -/
theorem readCode_clean {m : Mem (List Nat)} {a : Nat} (note : Bool → State → State) (fix : Mem (List Nat) → State → State)
    (s : State) (h : Memory.get [] m a = []) : s.readCode m a note fix = (true, s) := by
  rw [State.readCode, h]
  rfl

/-! ### Contexts -/

theorem ctx_updCtx_same {s : State} {c : Nat} (f : VxCtx → VxCtx) (h : c < s.vx.ctx.length) :
    (s.updCtx c f).ctx c = f (s.ctx c) := by
  simp [State.ctx, State.updCtx, h]

theorem ctx_updCtx_other (s : State) {c n : Nat} (f : VxCtx → VxCtx) (h : n ≠ c) : (s.updCtx c f).ctx n = s.ctx n := by
  simp [State.ctx, State.updCtx, List.getD_eq_getElem?_getD, Ne.symm h]

/-- A context beyond the engine's does not run. -/
theorem lt_length_of_running {s : State} {c : Nat} (h : (s.ctx c).running = true) : c < s.vx.ctx.length := by
  refine Nat.lt_of_not_le fun beyond => ?_
  rw [State.ctx, List.getD_eq_getElem?_getD, List.getElem?_eq_none beyond] at h
  exact absurd h (by decide)

/-- What holds of a word that is the next of its context. -/
theorem vxNext_spec {s : State} {c op : Nat} {slot : Slot} {w : VxWord} (h : s.vxNext c slot op w = true) :
    (s.ctx c).running = true ∧ (s.ctx c).wait = none ∧ (s.ctx c).slot = slotNumber slot := by
  simp only [State.vxNext, Bool.and_eq_true, beq_iff_eq, Option.isNone_iff_eq_none] at h
  obtain ⟨⟨⟨⟨⟨-, running⟩, wait⟩, slot⟩, -⟩, -⟩ := h
  exact ⟨running, wait, slot⟩

theorem vxLive_spec {s : State} {c op : Nat} {slot : Slot} {w : VxWord} {r : VxRegs} (h : VxLive c slot op w s r) :
    (s.ctx c).running = true ∧ (s.ctx c).wait = none ∧ (s.ctx c).slot = slotNumber slot := by
  obtain ⟨next, -⟩ := h
  exact vxNext_spec next

/-! ### The state between two words of a bundle -/

/-- `u` is the state `s` in the middle of a word of context c that has the registers `g` by now: of the context, only its registers and
the marks of the bundle have changed, and beside it only the counter of free values. -/
def VxMid (c : Nat) (g : VxRegs) (s u : State) : Prop :=
  u = { s with vx := u.vx, freeCtr := u.freeCtr } ∧ (∀ n, n ≠ c → u.ctx n = s.ctx n) ∧ u.vx.data = s.vx.data ∧ u.vx.prog = s.vx.prog ∧
    u.vx.ctx.length = s.vx.ctx.length ∧
    u.ctx c = { s.ctx c with regs := g, issue := (u.ctx c).issue, wrote := (u.ctx c).wrote }

theorem vxMid_refl (c : Nat) (s : State) : VxMid c (s.ctx c).regs s s := ⟨rfl, fun _ _ => rfl, rfl, rfl, rfl, rfl⟩

theorem vxMid_updCtx {c : Nat} {g g' : VxRegs} {s u : State} {f : VxCtx → VxCtx} (running : (s.ctx c).running = true)
    (h : VxMid c g s u) (hf : ∀ x : VxCtx, x.regs = g → f x = { x with regs := g', issue := (f x).issue, wrote := (f x).wrote }) :
    VxMid c g' s (u.updCtx c f) := by
  obtain ⟨frame, others, data, prog, len, own⟩ := h
  have hc : c < u.vx.ctx.length := len ▸ lt_length_of_running running
  refine ⟨?_, fun n hn => ?_, data, prog, ?_, ?_⟩
  · rw [State.updCtx, frame]
  · rw [ctx_updCtx_other u f hn, others n hn]
  · simpa [State.updCtx] using len
  · rw [ctx_updCtx_same f hc, hf _ (by rw [own]), own]

/-- The L slot's word fixes what its bundle reads and changes no register. -/
theorem vxMid_beginBundle {c : Nat} {s : State} (slot : Slot) (running : (s.ctx c).running = true) :
    VxMid c (s.ctx c).regs s (s.beginBundle c slot) := by
  unfold State.beginBundle
  split
  · exact vxMid_updCtx running (vxMid_refl c s) fun x hx => by rw [← hx]
  · exact vxMid_refl c s

theorem vxMid_updRegs {c : Nat} {g : VxRegs} {s u : State} (f : VxRegs → VxRegs) (running : (s.ctx c).running = true)
    (h : VxMid c g s u) : VxMid c (f g) s (u.updRegs c f) :=
  vxMid_updCtx running h fun x hx => by rw [← hx]

theorem vxMid_noteWrite {c : Nat} {g : VxRegs} {s u : State} (r mask : Nat) (running : (s.ctx c).running = true)
    (h : VxMid c g s u) : VxMid c g s (u.noteWrite c r mask) :=
  vxMid_updCtx running h fun x hx => by rw [← hx]

/-- The context as the L slot's word finds it: what its bundle reads is fixed, and nothing is written yet. -/
theorem ctx_beginBundle_first {c : Nat} {s : State} (h : c < s.vx.ctx.length) :
    (s.beginBundle c .l).ctx c = { s.ctx c with issue := some (s.ctx c).regs, wrote := [] } :=
  ctx_updCtx_same _ h

/-- The end of a word makes of the middle of it what `VxMoved` says. -/
theorem vxMoved_endWord {c : Nat} {slot : Slot} {off : Int} {g : VxRegs} {s u : State} (running : (s.ctx c).running = true)
    (wait : (s.ctx c).wait = none) (h : VxMid c g s u) : VxMoved c slot off g s (u.endWord c slot off) := by
  obtain ⟨frame, others, data, prog, len, own⟩ := h
  have hc : c < u.vx.ctx.length := len ▸ lt_length_of_running running
  refine ⟨?_, fun n hn => ?_, data, prog, ?_⟩
  · rw [State.endWord, State.updCtx, frame]
  · rw [State.endWord, ctx_updCtx_other u _ hn, others n hn]
  · rw [State.endWord, ctx_updCtx_same _ hc, own]
    split <;> simp [running, wait]

theorem settleFlags_vxMoved {c : Nat} {slot : Slot} {off : Int} {g : VxRegs} {s t : State} (h : VxMoved c slot off g s t) :
    settleFlags s t = .next t := by
  obtain ⟨frame, -⟩ := h
  exact settleFlags_engines s t (by rw [frame])

/-! ### The outcome of one word -/

/-- What a word leaves that has issued `i`. -/
def afterIssue (c : Nat) (slot : Slot) (i : Issued) : State :=
  match i with
  | .go s => s.endWord c slot 1
  | .jump off s => s.endWord c slot off
  | .halt code s => (s.endWord c slot 1).vxHalts c code
  | .stop exit s => s.vxFault c exit

/-- A bundle without inverted bits is fetched as it is. -/
theorem fetchVx_clean {s : State} {c : Nat} (h : Memory.get [] (s.vx.progFlips.getD c []) (s.ctx c).pc = []) :
    s.fetchVx c = (true, s) := by
  unfold State.fetchVx
  exact readCode_clean _ _ s h

/-- The registers that the words of a bundle read, once it has begun. -/
theorem beginBundle_reads {s : State} {c : Nat} (slot : Slot) (h : c < s.vx.ctx.length) :
    (((s.beginBundle c slot).ctx c).issue).getD ((s.beginBundle c slot).ctx c).regs = s.vxReads c slot := by
  cases slot with
  | l => rw [ctx_beginBundle_first h]; rfl
  | f | i | x => rfl

/-- A word that is the next of its context, in a bundle that is fetched. -/
theorem vxWord_next {c op : Nat} {slot : Slot} {w : VxWord} {s : State} (f : VxRegs → State → Issued)
    (next : s.vxNext c slot op w = true)
    (clean : slot = .l → Memory.get [] (s.vx.progFlips.getD c []) (s.ctx c).pc = []) :
    s.vxWord c slot op w f = afterIssue c slot
      (if heedsStage slot op && !(s.vxReads c slot).live w.stage.toNat then .go (s.beginBundle c slot)
        else f (s.vxReads c slot) (s.beginBundle c slot)) := by
  obtain ⟨running, -, -⟩ := vxNext_spec next
  have fetched : (if slot = .l then s.fetchVx c else (true, s)) = (true, s) := by
    split
    · exact fetchVx_clean (clean ‹_›)
    · rfl
  unfold State.vxWord
  simp only [next, fetched, beginBundle_reads slot (lt_length_of_running running), Bool.not_true, Bool.false_eq_true, if_false]
  rfl

/-- A live word does what its opcode says. -/
theorem vxWord_live {c op : Nat} {slot : Slot} {w : VxWord} {s : State} {r : VxRegs} (f : VxRegs → State → Issued)
    (h : VxLive c slot op w s r) : s.vxWord c slot op w f = afterIssue c slot (f r (s.beginBundle c slot)) := by
  obtain ⟨next, rfl, live, clean⟩ := h
  have dead : (heedsStage slot op && !(s.vxReads c slot).live w.stage.toNat) = false := by
    cases hs : heedsStage slot op
    · rfl
    · rw [live hs]
      rfl
  rw [vxWord_next f next clean, dead]
  rfl

/-- A live word that ends in the middle state `u` moves its context on. -/
theorem vxRun_moved {c op : Nat} {slot : Slot} {w : VxWord} {s u : State} {r g : VxRegs} {f : VxRegs → State → Issued} {off : Int}
    (h : VxLive c slot op w s r) (ends : afterIssue c slot (f r (s.beginBundle c slot)) = u.endWord c slot off) (mid : VxMid c g s u) :
    ∃ t, vxRun c slot op w f s = .next t ∧ VxMoved c slot off g s t := by
  obtain ⟨running, wait, -⟩ := vxLive_spec h
  have moved := vxMoved_endWord (slot := slot) (off := off) running wait mid
  refine ⟨_, ?_, moved⟩
  rw [vxRun, vxWord_live f h, ends]
  exact settleFlags_vxMoved moved

/-- A word whose stage is not live writes nothing (R260). -/
theorem vxRun_dead {c op : Nat} {slot : Slot} {w : VxWord} {s : State} (f : VxRegs → State → Issued)
    (next : s.vxNext c slot op w = true) (clean : slot = .l → Memory.get [] (s.vx.progFlips.getD c []) (s.ctx c).pc = [])
    (heeds : heedsStage slot op = true) (dead : (s.vxReads c slot).live w.stage.toNat = false) :
    ∃ t, vxRun c slot op w f s = .next t ∧ VxMoved c slot 1 (s.ctx c).regs s t := by
  obtain ⟨running, wait, -⟩ := vxNext_spec next
  have moved := vxMoved_endWord (slot := slot) (off := 1) running wait (vxMid_beginBundle slot running)
  refine ⟨_, ?_, moved⟩
  rw [vxRun, vxWord_next f next clean, heeds, dead]
  exact settleFlags_vxMoved moved

end Sys2Proof.Proofs
end

section
/-! SUPPORT. How a kernel's run ends (R282, R283): what the final replies leave alone, and what is true of the kernel once its run has
ended, by its own halt or by a fault of its engine. -/
namespace Sys2Proof.Proofs
open Sys2Proof.Machine Sys2Proof.Laws

/-! ### Final replies -/

/-- A final reply changes its path only. -/
theorem deferred_post_keeps (d : Deferred) (r : Res) (s : State) :
    (d.post r s).handles = s.handles ∧ (d.post r s).vx = s.vx ∧ (d.post r s).teller = s.teller := by
  unfold Deferred.post
  dsimp only
  rw [post_frame]
  exact ⟨rfl, rfl, rfl⟩

/-- Fences that end leave the order of the commands that still wait. -/
theorem flushFences_keeps (n : Nat) (s : State) :
    (flushFences n s).handles = s.handles ∧ (flushFences n s).vx = s.vx ∧
      ∀ d ∈ (flushFences n s).teller.deferred, d ∈ s.teller.deferred := by
  induction n generalizing s with
  | zero => exact ⟨rfl, rfl, fun d hd => hd⟩
  | succ n ih =>
    unfold flushFences
    split
    next e t waiting =>
      split
      · obtain ⟨handles, vx, rest⟩ := ih (e.post {} (s.updTeller fun x => { x with deferred := t }))
        obtain ⟨handles', vx', teller⟩ := deferred_post_keeps e {} (s.updTeller fun x => { x with deferred := t })
        refine ⟨handles.trans handles', vx.trans vx', fun d hd => ?_⟩
        have := rest d hd
        rw [teller] at this
        rw [waiting]
        exact List.mem_cons_of_mem _ this
      · exact ⟨rfl, rfl, fun d hd => hd⟩
    · exact ⟨rfl, rfl, fun d hd => hd⟩

/-- The commands for which `p` holds wait no more. -/
theorem finish_keeps (p : Deferred → Bool) (r : Res) (s : State) :
    (s.finish p r).handles = s.handles ∧ (s.finish p r).vx = s.vx ∧
      ∀ d ∈ (s.finish p r).teller.deferred, d ∈ s.teller.deferred ∧ p d = false := by
  let left (s : State) : Handles × Vx × Teller := (s.handles, s.vx, s.teller)
  have posts (l : List Deferred) (s : State) : left (l.foldl (fun s d => d.post r s) s) = left s :=
    foldl_keeps left _ (fun s d => by
      obtain ⟨handles, vx, teller⟩ := deferred_post_keeps d r s
      simp [left, handles, vx, teller]) l s
  simp only [left, Prod.mk.injEq] at posts
  unfold State.finish
  dsimp only
  generalize hu : List.foldl (fun s d => Deferred.post d r s) _ _ = u
  obtain ⟨handles, vx, teller⟩ := hu ▸ posts (s.teller.deferred.filter p) _
  obtain ⟨handles', vx', rest⟩ := flushFences_keeps u.teller.deferred.length u
  refine ⟨handles'.trans handles, vx'.trans vx, fun d hd => ?_⟩
  have := rest d hd
  simpa [teller] using this

/-! ### Entries of the handle table -/

/-- An entry changed under its own handle is found changed. -/
theorem find_updEntry (h : Handle) (f : Entry → Entry) (keep : ∀ e, (f e).h = e.h) (s : State) :
    (s.updEntry h f).find h = (s.find h).map f := by
  simp only [State.find, State.updEntry]
  induction s.handles.live with
  | nil => rfl
  | cons e t ih =>
    by_cases he : e.h = h
    · simp [he, keep]
    · simpa [he] using ih

/-- What `updKernel` does to an entry. -/
def mapKernel (f : Kernel → Kernel) (e : Entry) : Entry :=
  match e.obj with
  | .kernel k => { e with obj := .kernel (f k) }
  | _ => e

theorem updKernel_eq (h : Handle) (f : Kernel → Kernel) (s : State) : s.updKernel h f = s.updEntry h (mapKernel f) := rfl

@[simp] theorem mapKernel_h (f : Kernel → Kernel) (e : Entry) : (mapKernel f e).h = e.h := by
  unfold mapKernel; split <;> rfl

@[simp] theorem mapKernel_st (f : Kernel → Kernel) (e : Entry) : (mapKernel f e).st = e.st := by
  unfold mapKernel; split <;> rfl

theorem kernel?_updKernel (h : Handle) (f : Kernel → Kernel) (s : State) :
    (s.updKernel h f).kernel? h = (s.kernel? h).map f := by
  rw [State.kernel?, updKernel_eq, find_updEntry h _ (mapKernel_h f), State.kernel?]
  cases s.find h with
  | none => rfl
  | some e => cases ho : e.obj <;> simp [mapKernel, ho]

theorem hstate_updKernel (h : Handle) (f : Kernel → Kernel) (s : State) : (s.updKernel h f).hstate h = s.hstate h := by
  rw [State.hstate, updKernel_eq, find_updEntry h _ (mapKernel_h f), State.hstate]
  cases s.find h <;> simp

/-- What a handle names depends on the handle table only. -/
theorem kernel?_congr {s t : State} (e : t.handles = s.handles) (h : Handle) : t.kernel? h = s.kernel? h := by
  simp [State.kernel?, State.find, e]

theorem hstate_congr {s t : State} (e : t.handles = s.handles) (h : Handle) : t.hstate h = s.hstate h := by
  simp [State.hstate, State.find, e]

/-! ### The engines of a kernel stop -/

/-- Waits that are cut count cycles only. -/
theorem cutWaits_keeps (l : List Nat) (s : State) : (s.cutWaits l).handles = s.handles ∧ (s.cutWaits l).vx = s.vx := by
  let left (s : State) : Handles × Vx := (s.handles, s.vx)
  have keeps : left (s.cutWaits l) = left s := foldl_keeps left _ (fun s n => by split <;> rfl) l s
  simpa only [left, Prod.mk.injEq] using keeps

/-- Stopping the engines of a kernel leaves the handles, and of the vector engine stops the user context where the kernel holds it. -/
theorem haltEngines_spec (h : Handle) (s : State) : (s.haltEngines h).handles = s.handles ∧
    (s.haltEngines h).vx.ctx = if (s.kernel? h).any Kernel.vx then s.vx.ctx.modify 1 (fun c => { c with running := false, wait := none })
      else s.vx.ctx := by
  unfold State.haltEngines
  dsimp only
  split
  next k hk =>
    change s.kernel? h = some k at hk
    rw [hk]
    cases vx : k.vx <;> simp [vx]
  next hk =>
    change s.kernel? h = none at hk
    simp [hk]

/-- A context that is stopped where it stands does not run. -/
theorem modify_stopped (l : List VxCtx) :
    ((l.modify 1 fun c => { c with running := false, wait := none }).getD 1 {}).running = false := by
  rw [List.getD_eq_getElem?_getD, List.getElem?_modify]
  cases l[1]? <;> rfl

/-- Stopping the engines of a kernel stops the user context that the kernel holds, and starts none. -/
theorem haltEngines_stops {h : Handle} {s : State} (stops : (s.kernel? h).any Kernel.vx = true ∨ (s.ctx 1).running = false) :
    ((s.haltEngines h).ctx 1).running = false := by
  obtain ⟨-, ctx⟩ := haltEngines_spec h s
  rw [State.ctx, ctx]
  split
  · exact modify_stopped _
  · exact stops.resolve_left ‹_›

/-! ### The end of a run -/

/-- The entry of a kernel whose run ends at a time. -/
def endedEntry (time : BitVec 64) (e : Entry) : Entry := { e with st := .stopped, completed := true, doneAt := time }

/-- The end of a run that has not ended: the engines stop, the handle is STOPPED, and the final replies go out. -/
theorem finishRun_eq {h : Handle} {k : Kernel} {s : State} (hk : s.kernel? h = some k) (running : s.hstate h = .running) :
    ∃ time r, s.finishRun h = ((((s.cutWaits k.clerks).haltEngines h).updEntry h (endedEntry time)).finish
      (fun d => d.wait == .kernelRun h) r).finish (fun d => d.wait == .abort h) {} := by
  unfold State.finishRun
  simp only [hk, running, bne_self_eq_false, Bool.false_eq_true, if_false]
  exact ⟨_, _, rfl⟩

/-- A kernel whose entry is that of an ended run. -/
theorem ended_spec {h : Handle} {k : Kernel} {s u : State} {time : BitVec 64} (found : u.find h = (s.find h).map (endedEntry time))
    (hk : s.kernel? h = some k) : u.hstate h = .stopped ∧ u.kernel? h = some k := by
  rw [State.kernel?] at hk
  cases hf : s.find h with
  | none => simp [hf] at hk
  | some e =>
    rw [hf] at hk found
    simp only [State.hstate, State.kernel?, found]
    exact ⟨rfl, hk⟩

/-- A run that has not ended ends so: its kernel is STOPPED, no command waits for it, and the user context does not run where the kernel
holds it or where it did not run before. -/
theorem finishRun_ends {h : Handle} {k : Kernel} {s : State} (hk : s.kernel? h = some k) (running : s.hstate h = .running) :
    (s.finishRun h).hstate h = .stopped ∧ (s.finishRun h).kernel? h = some k ∧
      (∀ d ∈ (s.finishRun h).teller.deferred, d.wait ≠ .kernelRun h) ∧
      (k.vx = true ∨ (s.ctx 1).running = false → ((s.finishRun h).ctx 1).running = false) := by
  obtain ⟨time, r, e⟩ := finishRun_eq hk running
  obtain ⟨cutHandles, cutVx⟩ := cutWaits_keeps k.clerks s
  obtain ⟨haltHandles, -⟩ := haltEngines_spec h (s.cutWaits k.clerks)
  have halts := haltEngines_stops (h := h) (s := s.cutWaits k.clerks)
  rw [kernel?_congr cutHandles, hk, State.ctx, cutVx] at halts
  generalize State.haltEngines h _ = v at *
  have found : (v.updEntry h (endedEntry time)).find h = (s.find h).map (endedEntry time) := by
    rw [find_updEntry h (endedEntry time) (fun _ => rfl), State.find, haltHandles, cutHandles, State.find]
  obtain ⟨stopped, kernel⟩ := ended_spec found hk
  obtain ⟨handles, vx, waits⟩ := finish_keeps (fun d => d.wait == .kernelRun h) r (v.updEntry h (endedEntry time))
  generalize State.finish _ r _ = u at *
  obtain ⟨handles', vx', waits'⟩ := finish_keeps (fun d => d.wait == .abort h) {} u
  rw [← e] at handles' vx' waits'
  have same := handles'.trans handles
  refine ⟨(hstate_congr same h).trans stopped, (kernel?_congr same h).trans kernel, fun d hd => ?_, fun stops => ?_⟩
  · obtain ⟨hd, -⟩ := waits' d hd
    obtain ⟨-, hd⟩ := waits d hd
    simpa using hd
  · rw [State.ctx, vx'.trans vx]
    exact halts stops

/-- A context that does not run does not run after the end of a run. -/
theorem finishRun_stopped (h : Handle) {s : State} (stopped : (s.ctx 1).running = false) :
    ((s.finishRun h).ctx 1).running = false := by
  cases hk : s.kernel? h with
  | none => rwa [State.finishRun, hk]
  | some k =>
    by_cases running : s.hstate h = .running
    · obtain ⟨-, -, -, stops⟩ := finishRun_ends hk running
      exact stops (.inr stopped)
    · simpa [State.finishRun, hk, running] using stopped

/-- A fault of an engine ends a run with its code, where it is the first (R282). -/
theorem faultRun_ends {h : Handle} {k : Kernel} {s : State} (index exit : Nat) (hk : s.kernel? h = some k)
    (running : s.hstate h = .running) (fresh : k.faulted = 0) :
    (s.faultRun h index exit).hstate h = .stopped ∧
      ((s.faultRun h index exit).kernel? h).map (fun k => (k.exit, k.faulted)) =
        some (BitVec.ofNat 32 exit, BitVec.ofNat 32 (2 ^ index)) ∧
      ∀ d ∈ (s.faultRun h index exit).teller.deferred, d.wait ≠ .kernelRun h := by
  unfold State.faultRun
  obtain ⟨stopped, kernel, waits, -⟩ := finishRun_ends ((kernel?_updKernel h _ s).trans (congrArg _ hk))
    ((hstate_updKernel h _ s).trans running)
  refine ⟨stopped, ?_, waits⟩
  rw [kernel]
  simp [fresh]

/-! ### Faults and halts of the user context -/

/-- What is true of a run that has ended does not depend on notices and rewrites of the Ledger. -/
theorem vxEnded_settled {exit : Nat} {s t : State} (h : VxEnded exit s t) : VxEnded exit s (settled s (noticeFlags s t)) := by
  obtain ⟨stopped, ends⟩ := h
  refine ⟨by simpa [State.ctx] using stopped, fun h k hv hk vx running fresh => ?_⟩
  rw [hstate_congr (t := settled s _) (s := t) (by simp), kernel?_congr (t := settled s _) (s := t) (by simp)]
  simpa using ends h k hv hk vx running fresh

/-- A fault of the user context ends the run of its kernel with its code (R282, R283). -/
theorem vxEnded_vxFault (exit : Nat) {s : State} (present : 1 < s.vx.ctx.length) : VxEnded exit s (s.vxFault 1 exit) := by
  have stopped : ((s.updCtx 1 fun x => { x with running := false, wait := none, issue := none }).ctx 1).running = false := by
    rw [ctx_updCtx_same _ present]
  unfold State.vxFault
  simp only [if_true]
  generalize hu : State.updCtx 1 _ s = u at *
  have handles : u.handles = s.handles := by rw [← hu]; rfl
  rw [show u.vxKernel = s.vxKernel by rw [State.vxKernel, handles, State.vxKernel]]
  cases hv : s.vxKernel with
  | none => exact ⟨stopped, fun h k hh => absurd (hv.symm.trans hh) (by simp)⟩
  | some h =>
    refine ⟨finishRun_stopped h stopped, fun h' k hh hk vx running fresh => ?_⟩
    obtain rfl : h = h' := Option.some.inj (hv.symm.trans hh)
    exact faultRun_ends 0 exit (kernel?_congr handles h ▸ hk) (hstate_congr handles h ▸ running) fresh

/-- A word of the X slot of the user context that faults ends the run of its kernel. -/
theorem vxRun_stops {op exit : Nat} {w : VxWord} {s : State} {r : VxRegs} {f : VxRegs → State → Issued}
    (h : VxLive 1 .x op w s r) (stops : f r s = .stop exit s) :
    ∃ t, vxRun 1 .x op w f s = .next t ∧ VxEnded exit s t := by
  obtain ⟨running, -, -⟩ := vxLive_spec h
  refine ⟨_, ?_, vxEnded_settled (vxEnded_vxFault exit (lt_length_of_running running))⟩
  rw [vxRun, vxWord_live f h, show s.beginBundle 1 .x = s from rfl, stops]
  rfl

/-- A halt of the user context ends the run of the kernel that holds it with its code (R282). -/
theorem vxHalts_ends {code : Nat} {h : Handle} {k : Kernel} {s : State} (holds : s.vxKernel = some h) (hk : s.kernel? h = some k)
    (vx : k.vx = true) (running : s.hstate h = .running) :
    (s.vxHalts 1 code).hstate h = .stopped ∧ ((s.vxHalts 1 code).kernel? h).map Kernel.exit = some (BitVec.ofNat 32 code) ∧
      ((s.vxHalts 1 code).ctx 1).running = false ∧ ∀ d ∈ (s.vxHalts 1 code).teller.deferred, d.wait ≠ .kernelRun h := by
  simp only [State.vxHalts, holds, if_true]
  obtain ⟨stopped, kernel, waits, stops⟩ := finishRun_ends (s := s.updKernel h fun k => { k with exit := BitVec.ofNat 32 code })
    (by rw [kernel?_updKernel, hk]; rfl) ((hstate_updKernel h _ s).trans running)
  refine ⟨stopped, ?_, stops (.inl vx), waits⟩
  rw [kernel]
  rfl

end Sys2Proof.Proofs
end

section
/-! The words of the vector engine that move its control (R256, R257, R260, R261, R279, R283). -/
namespace Sys2Proof.Proofs
open Sys2Proof.Machine Sys2Proof.Laws

/-- A branch moves by its bundles when it is taken. -/
theorem vxRun_branch {c op : Nat} {w : VxWord} {s : State} {r : VxRegs} {taken : VxRegs → Bool} (h : VxLive c .x op w s r) :
    ∃ t, vxRun c .x op w (fun r s => vxBranch w (taken r) s) s = .next t ∧
      VxMoved c .x (if taken r then vxImm14 w else 1) (s.ctx c).regs s t := by
  refine vxRun_moved h ?_ (vxMid_refl c s)
  cases taken r <;> rfl

/-- pcyc counts a pass, rotates, and loops while passes are left (R261). -/
theorem execPcyc_moves {c : Nat} {w : VxWord} {s : State} {r : VxRegs} (h : VxLive c .x 0x23 w s r) :
    ∃ t, execPcyc c w s = .next t ∧
      (r.pls = 0 → VxMoved c .x 1 (s.ctx c).regs s t) ∧
      (r.pls ≠ 0 → (r.plp + 1).toNat < r.pln.toNat + r.pls.toNat - 1 →
        VxMoved c .x (vxImm14 w) { (s.ctx c).regs with rot := (s.ctx c).regs.rot + 1, plp := r.plp + 1 } s t) ∧
      (r.pls ≠ 0 → ¬(r.plp + 1).toNat < r.pln.toNat + r.pls.toNat - 1 →
        VxMoved c .x 1 { (s.ctx c).regs with rot := (s.ctx c).regs.rot + 1, plp := 0, pls := 0 } s t) := by
  obtain ⟨running, -, -⟩ := vxLive_spec h
  by_cases idle : r.pls = 0
  · obtain ⟨t, ht, moved⟩ := vxRun_moved (f := vxPcyc c w) (off := 1) h (by rw [vxPcyc, if_pos idle]; rfl) (vxMid_refl c s)
    exact ⟨t, ht, fun _ => moved, fun busy => absurd idle busy, fun busy => absurd idle busy⟩
  · by_cases more : (r.plp + 1).toNat < r.pln.toNat + r.pls.toNat - 1
    · obtain ⟨t, ht, moved⟩ := vxRun_moved (f := vxPcyc c w) (off := vxImm14 w) h
        (by simp only [vxPcyc, if_neg idle, more, vxBranch, if_true, decide_true]; rfl)
        (vxMid_updRegs (fun g => { g with rot := g.rot + 1, plp := r.plp + 1 }) running (vxMid_refl c s))
      exact ⟨t, ht, fun no => absurd no idle, fun _ _ => moved, fun _ no => absurd more no⟩
    · obtain ⟨t, ht, moved⟩ := vxRun_moved (f := vxPcyc c w) (off := 1) h
        (by simp only [vxPcyc, if_neg idle, more, vxBranch, if_false, decide_false]; rfl)
        (vxMid_updRegs (fun g => { g with rot := g.rot + 1, plp := 0, pls := 0 }) running (vxMid_refl c s))
      exact ⟨t, ht, fun no => absurd no idle, fun _ yes => absurd yes more, fun _ _ => moved⟩

/-- setc writes its control register. -/
theorem execSetc_moves {c v : Nat} {w : VxWord} {s : State} {r : VxRegs} (h : VxLive c .x 0x24 w s r) (hv : r.scalar w.a = some v) :
    ∃ t, execSetc c w s = .next t ∧ VxMoved c .x 1 ((s.ctx c).regs.setControl w.imm7.toNat v) s t := by
  obtain ⟨running, -, -⟩ := vxLive_spec h
  exact vxRun_moved (f := vxSetc c w) h (by simp only [vxSetc, hv]; rfl)
    (vxMid_updRegs (·.setControl w.imm7.toNat v) running (vxMid_refl c s))

/-- wait with a mask stops the issue after its bundle (R279). -/
theorem execVxWait_waits {c v : Nat} {w : VxWord} {s : State} {r : VxRegs} (h : VxLive c .x 0x26 w s r) (hv : r.scalar w.a = some v)
    (mask : v ≠ 0) : ∃ t, execVxWait c w s = .next t ∧ t = { s with vx := t.vx } ∧ (t.ctx c).wait = some (BitVec.ofNat 8 v) ∧
      (t.ctx c).running = true ∧ (t.ctx c).slot = 0 ∧ (t.ctx c).pc = ((s.ctx c).pc + 1) % 4096 ∧
      (t.ctx c).regs = { (s.ctx c).regs with cyc := (s.ctx c).regs.cyc + 1 } := by
  obtain ⟨running, -, -⟩ := vxLive_spec h
  have present := lt_length_of_running running
  let waits (x : VxCtx) : VxCtx := { x with wait := some (BitVec.ofNat 8 v) }
  refine ⟨(s.updCtx c waits).endWord c .x 1, ?_, rfl, ?_⟩
  · rw [execVxWait, vxRun, vxWord_live _ h, vxWaits, hv]
    simp only [mask, if_false]
    exact settleFlags_engines s _ rfl
  · rw [State.endWord, ctx_updCtx_same _ (by simpa [State.updCtx] using present), ctx_updCtx_same _ present]
    refine ⟨rfl, running, rfl, ?_, rfl⟩
    show (((s.ctx c).pc + 1 : Int) % 4096).toNat = ((s.ctx c).pc + 1) % 4096
    omega

/-- wait with an empty mask is an illegal instruction (R279). -/
theorem execVxWait_illegal {w : VxWord} {s : State} {r : VxRegs} (h : VxLive 1 .x 0x26 w s r) (hv : r.scalar w.a = some 0) :
    ∃ t, execVxWait 1 w s = .next t ∧ VxEnded exitIllegal s t :=
  vxRun_stops (f := vxWaits 1 w) h (by simp [vxWaits, hv])

theorem vxHaltWord_code {v : Nat} {w : VxWord} {r : VxRegs} (hv : r.scalar w.a = some v) (s : State) :
    vxHaltWord w r s = if 0x7FFFFFFF < v then .stop exitIllegal s else .halt v s := by
  simp [vxHaltWord, hv]

/-- halt of the formatter stops it. -/
theorem execVxHalt_formatter {v : Nat} {w : VxWord} {s : State} {r : VxRegs} (h : VxLive 0 .x 0x27 w s r) (hv : r.scalar w.a = some v)
    (legal : v ≤ 0x7FFFFFFF) : ∃ t, execVxHalt 0 w s = .next t ∧ t = { s with vx := t.vx } ∧ (t.ctx 0).running = false := by
  obtain ⟨running, -, -⟩ := vxLive_spec h
  refine ⟨(s.endWord 0 .x 1).vxHalts 0 v, ?_, rfl, ?_⟩
  · rw [execVxHalt, vxRun, vxWord_live _ h, vxHaltWord_code hv, if_neg (Nat.not_lt.2 legal)]
    exact settleFlags_engines s _ rfl
  · show (((s.endWord 0 .x 1).updCtx 0 _).ctx 0).running = false
    rw [ctx_updCtx_same _ (by simpa [State.endWord, State.updCtx] using lt_length_of_running running)]

/-- halt with a code above 0x7FFF_FFFF is an illegal instruction (R283). -/
theorem execVxHalt_illegal {v : Nat} {w : VxWord} {s : State} {r : VxRegs} (h : VxLive 1 .x 0x27 w s r) (hv : r.scalar w.a = some v)
    (illegal : 0x7FFFFFFF < v) : ∃ t, execVxHalt 1 w s = .next t ∧ VxEnded exitIllegal s t :=
  vxRun_stops (f := vxHaltWord w) h (by rw [vxHaltWord_code hv, if_pos illegal])

/-- halt of the user kernel ends its run with the code (R282). -/
theorem execVxHalt_ends {v : Nat} {hd : Handle} {k : Kernel} {w : VxWord} {s : State} {r : VxRegs} (h : VxLive 1 .x 0x27 w s r)
    (hv : r.scalar w.a = some v) (legal : v ≤ 0x7FFFFFFF) (holds : s.vxKernel = some hd) (hk : s.kernel? hd = some k)
    (vx : k.vx = true) (running : s.hstate hd = .running) :
    ∃ t, execVxHalt 1 w s = .next t ∧ t.hstate hd = .stopped ∧ (t.kernel? hd).map Kernel.exit = some (BitVec.ofNat 32 v) ∧
      (t.ctx 1).running = false ∧ ∀ d ∈ t.teller.deferred, d.wait ≠ .kernelRun hd := by
  obtain ⟨stopped, exit, stops, waits⟩ := vxHalts_ends (code := v) (s := s.endWord 1 .x 1) holds hk vx running
  generalize hu : State.vxHalts 1 v _ = u at *
  refine ⟨settled s (noticeFlags s u), ?_, ?_, ?_, by simpa [State.ctx] using stops, by simpa using waits⟩
  · rw [execVxHalt, vxRun, vxWord_live _ h, vxHaltWord_code hv, if_neg (Nat.not_lt.2 legal), ← hu]
    rfl
  · rwa [hstate_congr (s := u) (by simp)]
  · rwa [kernel?_congr (s := u) (by simp)]

/-- Settles O37, a word at a time by what the word issues: one that goes on or branches by `vxRun_moved`, one that faults by
`vxRun_stops`, and a halt of the user kernel by the end of its run. -/
theorem vectorControlFlows : Obligations.VectorControlFlows := by
  intro c w s r
  refine ⟨fun slot h => ?_, fun next hr dead => ?_, fun h => ?_, fun h => ?_, fun h => ?_, fun h => execPcyc_moves h,
    fun v h hv => execSetc_moves h hv, fun v h hv => ⟨fun mask => execVxWait_waits h hv mask, ?_⟩,
    fun v h hv => ⟨?_, ?_, ?_⟩⟩
  · obtain ⟨running, -, -⟩ := vxLive_spec h
    exact vxRun_moved (f := fun _ s => .go s) h rfl (vxMid_beginBundle slot running)
  · exact vxRun_dead _ next (by simp) rfl (hr ▸ dead)
  · exact vxRun_branch (taken := fun _ => true) h
  · have branch := vxRun_branch (taken := fun r => r.mask w.pred.toNat != 0) h
    simp only [bne_iff_ne, ne_eq, ite_not] at branch
    exact branch
  · have branch := vxRun_branch (taken := fun r => r.mask w.pred.toNat == allLanes) h
    simp only [beq_iff_eq] at branch
    exact branch
  · rintro rfl rfl
    exact execVxWait_illegal h hv
  · rintro legal rfl
    exact execVxHalt_formatter h hv legal
  · rintro illegal rfl
    exact execVxHalt_illegal h hv illegal
  · rintro hd k legal rfl holds hk vx running
    exact execVxHalt_ends h hv legal holds hk vx running

end Sys2Proof.Proofs
end

section
/-! SUPPORT. Words of the vector engine's data memory and the images of its accumulators (R255, R265): where an access goes, what a
list of reads and a list of writes do, and the writing of an accumulator. -/
namespace Sys2Proof.Proofs
open Sys2Proof.Machine Sys2Proof.Laws

/-! ### Places -/

/-- An aligned address within the data memory that a context reaches is that of a word. -/
theorem vxPlace_word {c a : Nat} (s : State) (bells : Bool) (h : a % 4 = 0 ∧ a < 0x200000 ∧ (c = 0 ∨ 0x180000 ≤ a)) :
    s.vxPlace c bells a = some (.word (a / 4)) := by
  obtain ⟨aligned, inside, reach⟩ := h
  simp [State.vxPlace, aligned, inside, reach]

/-- The places of addresses that are all those of words. -/
theorem vxPlaces_words {c : Nat} (s : State) (bells : Bool) (l : List (Nat × Nat))
    (h : ∀ e ∈ l, e.2 % 4 = 0 ∧ e.2 < 0x200000 ∧ (c = 0 ∨ 0x180000 ≤ e.2)) :
    s.vxPlaces c bells l = some (l.map fun e => (e.1, .word (e.2 / 4))) := by
  unfold State.vxPlaces
  induction l with
  | nil => rfl
  | cons e t ih =>
    have first := vxPlace_word s bells (h e (by simp))
    have rest := ih fun x hx => h x (by simp [hx])
    simp [List.mapM_cons, first, rest]

/-! ### Reads -/

/-- A word without inverted bits is read as it is (R305). -/
theorem readVxWord_clean {n : Nat} {s : State} (h : (Memory.get {} s.vx.data n).flips = []) :
    s.readVxWord n = ((Memory.get {} s.vx.data n).data, false, s) := by
  have read : (Memory.get {} s.vx.data n).read s = (0, s) := by
    rw [EccCell.read, h]
    rfl
  unfold State.readVxWord
  dsimp only
  rw [read]
  rfl

theorem vxReadAll_words (l : List Nat) (s : State) (h : ∀ n ∈ l, (Memory.get {} s.vx.data n).flips = []) :
    s.vxReadAll (l.map .word) = (l.map fun n => (Memory.get {} s.vx.data n).data, false, s) := by
  induction l with
  | nil => rfl
  | cons n t ih =>
    have first := readVxWord_clean (h n (by simp))
    have rest := ih fun x hx => h x (by simp [hx])
    simp [State.vxReadAll, State.vxRead, first, rest]

/-! ### Writes -/

/-- Data memory after writes in turn. -/
def writeWords (l : List (Nat × Nat)) (m : Mem EccCell) : Mem EccCell :=
  l.foldl (fun m e => Memory.set {} m e.1 { data := e.2 % 2 ^ 32 }) m

/-- The state with other data memory. -/
def withVxData (m : Mem EccCell) (s : State) : State := { s with vx := { s.vx with data := m } }

theorem foldl_vxStore_words (l : List (Nat × Nat)) (s : State) :
    l.foldl (fun (s : State) e => s.vxStore (.word e.1) e.2) s = withVxData (writeWords l s.vx.data) s := by
  induction l generalizing s with
  | nil => rfl
  | cons e t ih =>
    rw [List.foldl_cons, ih]
    rfl

theorem writeWords_wf (l : List (Nat × Nat)) {m : Mem EccCell} (h : Memory.wf {} m = true) : Memory.wf {} (writeWords l m) = true := by
  induction l generalizing m with
  | nil => exact h
  | cons e t ih => exact ih (memory_set_wf _ m e.1 _ h)

/-- Writes leave the words that they do not name. -/
theorem writeWords_other {l : List (Nat × Nat)} {x : Nat} (m : Mem EccCell) (h : ∀ e ∈ l, e.1 ≠ x) :
    Memory.get {} (writeWords l m) x = Memory.get {} m x := by
  induction l generalizing m with
  | nil => rfl
  | cons e t ih =>
    rw [writeWords, List.foldl_cons, ← writeWords, ih _ fun a ha => h a (by simp [ha]),
      memory_get_set_other _ _ _ _ _ (Ne.symm (h e (by simp)))]

/-- Where all writes of a word agree, it reads as they say. -/
theorem writeWords_written {l : List (Nat × Nat)} {x v : Nat} {m : Mem EccCell} (wf : Memory.wf {} m = true)
    (member : (x, v) ∈ l) (agree : ∀ e ∈ l, e.1 = x → e.2 = v) :
    Memory.get {} (writeWords l m) x = { data := v % 2 ^ 32 } := by
  induction l generalizing m with
  | nil => simp at member
  | cons e t ih =>
    by_cases later : (x, v) ∈ t
    · exact ih (memory_set_wf _ m e.1 _ wf) later fun a ha => agree a (by simp [ha])
    · have last : ∀ a ∈ t, a.1 ≠ x := by
        rintro a ha rfl
        exact later (agree a (by simp [ha]) rfl ▸ ha)
      obtain rfl : (x, v) = e := by simpa [later] using member
      rw [writeWords, List.foldl_cons, ← writeWords, writeWords_other _ last, memory_get_set_same _ _ _ _ wf]

/-! ### Writing an accumulator -/

/-- Lanes that no word of the bundle has written take the values given. -/
theorem freeAcc_none (i : Nat) (l : List AccLane) (s : State) : freeAcc 0 i l s = (l, s) := by
  induction l generalizing i with
  | nil => rfl
  | cons a t ih => simp [freeAcc, ih, bit]

theorem vxMid_writeAcc {c k mask : Nat} {g : VxRegs} {l : List AccLane} {f : Nat → AccLane} {s u : State}
    (running : (s.ctx c).running = true) (h : VxMid c g s u) (unwritten : (u.ctx c).writtenLanes (regX k) = 0)
    (lanes : ∀ i, i < 64 → bit mask i = true → l.getD i { v := 0 } = f i) :
    VxMid c (g.withAcc k mask f) s (u.writeAcc c k mask l) := by
  have regs : (u.ctx c).regs = g := by
    obtain ⟨-, -, -, -, -, own⟩ := h
    rw [own]
  have new : ((List.range 64).map fun i => if bit mask i then l.getD i { v := 0 } else ((u.ctx c).regs.acc k).getD i { v := 0 }) =
      (List.range 64).map fun i => if bit mask i then f i else (g.acc k).getD i { v := 0 } := by
    refine List.map_congr_left fun i hi => ?_
    split
    · exact lanes i (by simpa using hi) ‹_›
    · rw [regs]
  unfold State.writeAcc
  simp only [unwritten, Nat.zero_and, freeAcc_none, new]
  exact vxMid_noteWrite _ _ running (vxMid_updRegs _ running h)

/-! ### Images of an accumulator: ten values of each enabled lane, lane by lane -/

/-- The values of an image in the order of its words. -/
def imageOf {α : Type} (mask : Nat) (g : Nat → Nat → α) : List α :=
  ((List.range 64).filter (bit mask ·)).flatMap fun i => (List.range 10).map (g i)

theorem imageWords_eq {mask : Nat} {base : Int} {at_ : Nat → Nat → Nat}
    (h : ∀ i j : Nat, (at_ i j : Int) = (base + 40 * i + 4 * j) % 2 ^ 32) :
    imageWords mask base = imageOf mask fun i j => (i, at_ i j) := by
  simp only [imageWords, imageOf, ← h, Int.toNat_natCast]

theorem mem_imageOf {α : Type} {mask : Nat} {g : Nat → Nat → α} {x : α} :
    x ∈ imageOf mask g ↔ ∃ i j, i < 64 ∧ j < 10 ∧ bit mask i = true ∧ g i j = x := by
  simp only [imageOf, List.mem_flatMap, List.mem_filter, List.mem_range, List.mem_map]
  constructor
  · rintro ⟨i, ⟨hi, on⟩, j, hj, rfl⟩
    exact ⟨i, j, hi, hj, on, rfl⟩
  · rintro ⟨i, j, hi, hj, on, rfl⟩
    exact ⟨i, ⟨hi, on⟩, j, hj, rfl⟩

theorem imageOf_map {α β : Type} (mask : Nat) (g : Nat → Nat → α) (f : α → β) :
    (imageOf mask g).map f = imageOf mask fun i j => f (g i j) := by
  simp [imageOf, List.map_flatMap, Function.comp_def]

/-- To act on the values of an image in turn is to act on its places in turn. -/
theorem foldl_imageOf {α σ : Type} (mask : Nat) (g : Nat → Nat → α) (f : σ → α → σ) (s : σ) :
    (imageOf mask g).foldl f s = (imageOf mask Prod.mk).foldl (fun s e => f s (g e.1 e.2)) s := by
  rw [← List.foldl_map (f := fun e : Nat × Nat => g e.1 e.2), imageOf_map]

/-- Of an image whose values name their lanes, those of one enabled lane. -/
theorem filter_imageOf {α : Type} {mask i : Nat} (g : Nat → Nat → α) (hi : i < 64) (on : bit mask i = true) :
    (imageOf mask fun i j => (i, g i j)).filter (fun e => e.1 == i) = (List.range 10).map fun j => (i, g i j) := by
  have selected (l : List Nat) (nd : l.Nodup) (mem : i ∈ l) :
      (l.flatMap fun i => (List.range 10).map fun j => (i, g i j)).filter (fun e => e.1 == i) =
        (List.range 10).map fun j => (i, g i j) := by
    have lane (n : Nat) : ((List.range 10).map fun j => (n, g n j)).filter (fun e => e.1 == i) =
        if n = i then (List.range 10).map fun j => (n, g n j) else [] := by
      split <;> simp_all
    have absent (l : List Nat) (no : i ∉ l) :
        (l.flatMap fun i => (List.range 10).map fun j => (i, g i j)).filter (fun e => e.1 == i) = [] := by
      rw [List.filter_flatMap, List.flatMap_eq_nil_iff]
      intro n hn
      rw [lane, if_neg (by rintro rfl; exact no hn)]
    induction l with
    | nil => simp at mem
    | cons n t ih =>
      obtain ⟨fresh, nd⟩ := List.nodup_cons.1 nd
      rw [List.flatMap_cons, List.filter_append, lane]
      by_cases e : n = i
      · subst e
        rw [if_pos rfl, absent t fresh, List.append_nil]
      · rw [if_neg e, List.nil_append, ih nd (by simpa [Ne.symm e] using mem)]
  exact selected _ (List.nodup_range.filter _) (by simp [hi, on])

/-- The place of a value in an image tells which of its lane's ten it is. -/
theorem zipIdx_imageOf {α : Type} (mask : Nat) (g : Nat → Nat → α) :
    (imageOf mask g).zipIdx.map (fun e => (e.1, e.2 % 10)) = imageOf mask fun i j => (g i j, j) := by
  have lanes (l : List Nat) (n : Nat) (hn : n % 10 = 0) :
      ((l.flatMap fun i => (List.range 10).map (g i)).zipIdx n).map (fun e => (e.1, e.2 % 10)) =
        l.flatMap fun i => (List.range 10).map fun j => (g i j, j) := by
    induction l generalizing n with
    | nil => rfl
    | cons i t ih =>
      have lane : (((List.range 10).map (g i)).zipIdx n).map (fun e => (e.1, e.2 % 10)) =
          (List.range 10).map fun j => (g i j, j) := by
        refine List.ext_getElem (by simp) fun j h1 h2 => ?_
        have : j < 10 := by simpa using h1
        simp
        omega
      rw [List.flatMap_cons, List.flatMap_cons, List.zipIdx_append, List.map_append, lane, ih]
      simp [hn]
  exact lanes _ 0 rfl

end Sys2Proof.Proofs
end

section
/-! The words that move the images of an accumulator (R265). -/
namespace Sys2Proof.Proofs
open Sys2Proof.Machine Sys2Proof.Laws

section Image
variable {c base mask : Nat} {w : VxWord} {s : State} {r : VxRegs} {at_ : Nat → Nat → Nat}

/-- The value that an image in data memory holds for lane i: its ten words, lowest first. -/
def imageLane (at_ : Nat → Nat → Nat) (m : Mem EccCell) (i : Nat) : AccLane :=
  { v := sext 320 ((List.range 10).foldr (fun j n => (Memory.get {} m (at_ i j / 4)).data + 2 ^ 32 * n) 0) }

/-- The places of an image that lies in the data memory which the context reaches. -/
theorem vxPlaces_image (s : State)
    (places : ∀ i j : Nat, (at_ i j : Int) = ((base : Int) + vxImm14 w * 256 + 40 * i + 4 * j) % 2 ^ 32)
    (reach : ∀ j, j < 10 → VxReach c mask (at_ · j)) :
    s.vxPlaces c false (imageWords mask (base + vxImm14 w * 256)) = some (imageOf mask fun i j => (i, .word (at_ i j / 4))) := by
  rw [imageWords_eq places, vxPlaces_words, imageOf_map]
  intro e he
  obtain ⟨i, j, hi, hj, on, rfl⟩ := mem_imageOf.1 he
  exact reach j hj i hi on

/-- xld reads the image of each enabled lane. -/
theorem vxLoadAcc_image (hbase : r.scalar w.a = some base) (hmask : mask = r.mask w.pred.toNat)
    (places : ∀ i j : Nat, (at_ i j : Int) = ((base : Int) + vxImm14 w * 256 + 40 * i + 4 * j) % 2 ^ 32)
    (reach : ∀ j, j < 10 → VxReach c mask (at_ · j))
    (clean : ∀ i j, i < 64 → j < 10 → bit mask i = true → (Memory.get {} s.vx.data (at_ i j / 4)).flips = []) :
    ∃ l, vxLoadAcc c w r s = .go (s.writeAcc c (w.d.toNat % 4) mask l) ∧
      ∀ i, i < 64 → bit mask i = true → l.getD i { v := 0 } = imageLane at_ s.vx.data i := by
  have read := vxReadAll_words (imageOf mask fun i j => at_ i j / 4) s fun n hn => by
    obtain ⟨i, j, hi, hj, on, rfl⟩ := mem_imageOf.1 hn
    exact clean i j hi hj on
  rw [imageOf_map, imageOf_map] at read
  unfold vxLoadAcc withBase
  simp only [hbase, ← hmask, vxPlaces_image s places reach, imageOf_map, read, Bool.false_and, Bool.false_eq_true, if_false]
  refine ⟨_, rfl, fun i hi on => ?_⟩
  have zip : (imageOf mask fun i _ => i).zip (imageOf mask fun i j => (Memory.get {} s.vx.data (at_ i j / 4)).data) =
      imageOf mask fun i j => (i, (Memory.get {} s.vx.data (at_ i j / 4)).data) := by
    simpa only [imageOf_map] using List.zip_map' (l := imageOf mask fun i j => (i, at_ i j / 4)) (f := Prod.fst)
      (g := fun e => (Memory.get {} s.vx.data e.2).data)
  rw [zip]
  simp only [List.getD_eq_getElem?_getD, List.getElem?_map, List.getElem?_range hi, Option.map_some, Option.getD_some,
    filter_imageOf _ hi on, List.foldr_map, imageLane]

/-- A word that xst writes: where, and what. -/
def imageStore (acc : List AccLane) (at_ : Nat → Nat → Nat) (i j : Nat) : Nat × Nat :=
  (at_ i j / 4, wrapBits 320 (acc.getD i { v := 0 }).v / 2 ^ (32 * j) % 2 ^ 32)

/-- All words that xst writes, in turn. -/
def imageStores (mask : Nat) (acc : List AccLane) (at_ : Nat → Nat → Nat) : List (Nat × Nat) := imageOf mask (imageStore acc at_)

/-- xst writes the image of each enabled lane. -/
theorem vxStoreAcc_image (hbase : r.scalar w.a = some base) (hmask : mask = r.mask w.pred.toNat)
    (places : ∀ i j : Nat, (at_ i j : Int) = ((base : Int) + vxImm14 w * 256 + 40 * i + 4 * j) % 2 ^ 32)
    (reach : ∀ j, j < 10 → VxReach c mask (at_ · j)) :
    vxStoreAcc c w r s = .go (withVxData (writeWords (imageStores mask (r.acc (w.d.toNat % 4)) at_) s.vx.data) s) := by
  let store (s : State) (e : (Nat × VxPlace) × Nat) : State :=
    s.vxStore e.1.2 (wrapBits 320 ((r.acc (w.d.toNat % 4)).getD e.1.1 { v := 0 }).v / 2 ^ (32 * e.2) % 2 ^ 32)
  unfold vxStoreAcc withBase
  simp only [hbase, ← hmask, vxPlaces_image s places reach]
  congr 1
  calc _ = ((imageOf mask fun i j => (i, VxPlace.word (at_ i j / 4))).zipIdx.map fun e => (e.1, e.2 % 10)).foldl store s := by
        rw [List.foldl_map]
    _ = (imageOf mask fun i j => ((i, VxPlace.word (at_ i j / 4)), j)).foldl store s := by
        rw [zipIdx_imageOf]
    _ = (imageStores mask (r.acc (w.d.toNat % 4)) at_).foldl (fun (s : State) e => s.vxStore (.word e.1) e.2) s :=
        by
        rw [foldl_imageOf, imageStores, foldl_imageOf mask (imageStore _ at_)]
        rfl
    _ = _ := foldl_vxStore_words _ s

/-- No two places of an image share a word. -/
theorem image_apart {i j i' j' : Nat}
    (places : ∀ i j : Nat, (at_ i j : Int) = ((base : Int) + vxImm14 w * 256 + 40 * i + 4 * j) % 2 ^ 32)
    (reach : ∀ j, j < 10 → VxReach c mask (at_ · j)) (hi : i < 64) (hj : j < 10) (on : bit mask i = true)
    (hi' : i' < 64) (hj' : j' < 10) (on' : bit mask i' = true) (same : at_ i j / 4 = at_ i' j' / 4) : i = i' ∧ j = j' := by
  obtain ⟨aligned, -⟩ := reach j hj i hi on
  obtain ⟨aligned', -⟩ := reach j' hj' i' hi' on'
  have p := places i j
  have p' := places i' j'
  generalize (base : Int) + vxImm14 w * 256 = b at p p'
  dsimp only at aligned aligned'
  have : 40 * i + 4 * j = 40 * i' + 4 * j' := by omega
  omega

/-- After xst each word of an enabled lane's image reads as the lane's part. -/
theorem imageStores_written {i j : Nat} {acc : List AccLane} {m : Mem EccCell} (wf : Memory.wf {} m = true)
    (places : ∀ i j : Nat, (at_ i j : Int) = ((base : Int) + vxImm14 w * 256 + 40 * i + 4 * j) % 2 ^ 32)
    (reach : ∀ j, j < 10 → VxReach c mask (at_ · j)) (hi : i < 64) (hj : j < 10) (on : bit mask i = true) :
    Memory.get {} (writeWords (imageStores mask acc at_) m) (at_ i j / 4) =
      { data := wrapBits 320 (acc.getD i { v := 0 }).v / 2 ^ (32 * j) % 2 ^ 32 } := by
  have member : imageStore acc at_ i j ∈ imageStores mask acc at_ := mem_imageOf.2 ⟨i, j, hi, hj, on, rfl⟩
  refine (writeWords_written wf member fun e he same => ?_).trans (by rw [Nat.mod_mod])
  obtain ⟨i', j', hi', hj', on', rfl⟩ := mem_imageOf.1 he
  obtain ⟨rfl, rfl⟩ := image_apart places reach hi hj on hi' hj' on' same.symm
  rfl

/-- xst leaves every word outside the image. -/
theorem imageStores_other {x : Nat} {acc : List AccLane} (m : Mem EccCell)
    (elsewhere : ∀ i j, i < 64 → j < 10 → bit mask i = true → at_ i j / 4 ≠ x) :
    Memory.get {} (writeWords (imageStores mask acc at_) m) x = Memory.get {} m x := by
  refine writeWords_other m fun e he => ?_
  obtain ⟨i, j, hi, hj, on, rfl⟩ := mem_imageOf.1 he
  exact elsewhere i j hi hj on

/-- xld takes each enabled lane from its place of the image. -/
theorem execXld_loads {k : Nat} (hbase : r.scalar w.a = some base) (hk : k = w.d.toNat % 4) (hmask : mask = r.mask w.pred.toNat)
    (places : ∀ i j : Nat, (at_ i j : Int) = ((base : Int) + vxImm14 w * 256 + 40 * i + 4 * j) % 2 ^ 32)
    (reach : ∀ j, j < 10 → VxReach c mask (at_ · j)) (h : VxLive c .l 0x08 w s r)
    (clean : ∀ i j, i < 64 → j < 10 → bit mask i = true → (Memory.get {} s.vx.data (at_ i j / 4)).flips = []) :
    ∃ t, execXld c w s = .next t ∧ VxMoved c .l 1 ((s.ctx c).regs.withAcc k mask (imageLane at_ s.vx.data)) s t := by
  obtain ⟨running, -, -⟩ := vxLive_spec h
  obtain ⟨l, loads, lanes⟩ := vxLoadAcc_image (s := s.beginBundle c .l) hbase hmask places reach clean
  have unwritten : ((s.beginBundle c .l).ctx c).writtenLanes (regX k) = 0 := by
    rw [ctx_beginBundle_first (lt_length_of_running running)]
    rfl
  exact vxRun_moved (f := vxLoadAcc c w) h (by rw [loads, ← hk]; rfl)
    (vxMid_writeAcc running (vxMid_beginBundle .l running) unwritten lanes)

/-- xst puts each enabled lane at its place of the image and leaves every other word. -/
theorem execXst_stores {k : Nat} (hbase : r.scalar w.a = some base) (hk : k = w.d.toNat % 4) (hmask : mask = r.mask w.pred.toNat)
    (places : ∀ i j : Nat, (at_ i j : Int) = ((base : Int) + vxImm14 w * 256 + 40 * i + 4 * j) % 2 ^ 32)
    (reach : ∀ j, j < 10 → VxReach c mask (at_ · j)) (h : VxLive c .l 0x09 w s r) (wf : Memory.wf {} s.vx.data = true) :
    ∃ t, execXst c w s = .next t ∧ t = { s with vx := t.vx } ∧ (t.ctx c).regs = (s.ctx c).regs ∧ (t.ctx c).slot = 1 ∧
      (t.ctx c).pc = (s.ctx c).pc ∧ Memory.wf {} t.vx.data = true ∧
      (∀ i j, i < 64 → j < 10 → bit mask i = true → Memory.get {} t.vx.data (at_ i j / 4) =
        { data := wrapBits 320 ((r.acc k).getD i { v := 0 }).v / 2 ^ (32 * j) % 2 ^ 32 }) ∧
      ∀ x, (∀ i j, i < 64 → j < 10 → bit mask i = true → at_ i j / 4 ≠ x) →
        Memory.get {} t.vx.data x = Memory.get {} s.vx.data x := by
  obtain ⟨running, -, slot⟩ := vxLive_spec h
  have present := lt_length_of_running running
  subst hk
  let m := writeWords (imageStores mask (r.acc (w.d.toNat % 4)) at_) s.vx.data
  have stores : vxStoreAcc c w r (s.beginBundle c .l) = .go (withVxData m (s.beginBundle c .l)) :=
    vxStoreAcc_image hbase hmask places reach
  have own : ((withVxData m (s.beginBundle c .l)).endWord c .l 1).ctx c =
      { s.ctx c with issue := some (s.ctx c).regs, wrote := [], slot := (s.ctx c).slot + 1 } := by
    rw [State.endWord, ctx_updCtx_same _ (by simpa [withVxData, State.beginBundle, State.updCtx] using present),
      show (withVxData m (s.beginBundle c .l)).ctx c = (s.beginBundle c .l).ctx c from rfl, ctx_beginBundle_first present]
    rfl
  refine ⟨(withVxData m (s.beginBundle c .l)).endWord c .l 1, ?_, rfl, by rw [own], by rw [own, slot]; rfl, by rw [own],
    writeWords_wf _ wf, fun i j hi hj on => imageStores_written wf places reach hi hj on,
    fun x elsewhere => imageStores_other _ elsewhere⟩
  rw [execXst, vxRun, vxWord_live _ h, stores]
  exact settleFlags_engines s _ rfl

end Image

/-- Settles O36: the words of an image lie apart, so that each reads back as its own write, and a bundle's first word has written no lane
before. -/
theorem accumulatorImagesMove : Obligations.AccumulatorImagesMove := by
  intro c w s r base k mask at_ hbase hk hmask places reach
  exact ⟨fun h clean => execXld_loads hbase hk hmask places reach h clean,
    fun h wf => execXst_stores hbase hk hmask places reach h wf⟩

end Sys2Proof.Proofs
end

section
/-! SUPPORT. How one word of a clerk without moves runs (R275, R276): what it computes becomes the registers that `ClerkMoved` names. -/
namespace Sys2Proof.Proofs
open Sys2Proof.Machine Sys2Proof.Laws

theorem clerk_updClerk_same {s : State} {n : Nat} (f : Clerk → Clerk) (h : n < s.clerks.length) :
    (s.updClerk n f).clerk n = f (s.clerk n) := by
  simp [State.clerk, State.updClerk, h]

theorem clerk_updClerk_other (s : State) {n m : Nat} (f : Clerk → Clerk) (h : m ≠ n) : (s.updClerk n f).clerk m = s.clerk m := by
  simp [State.clerk, State.updClerk, List.getD_eq_getElem?_getD, Ne.symm h]

/-- An instruction without inverted bits is fetched as it is (R305). -/
theorem fetchClerk_clean {s : State} {n : Nat} (h : Memory.get [] (s.clerk n).progFlips (s.clerk n).pc = []) :
    s.fetchClerk n = (true, s) := by
  unfold State.fetchClerk
  exact readCode_clean _ _ s h

/-- The accumulators that an instruction writes leave everything but accumulators and status. -/
theorem foldl_setAcc_frame (l : List (Nat × Int)) (c : Clerk) :
    l.foldl (fun (c : Clerk) (e : Nat × Int) => c.setAcc e.1 e.2) c =
      { c with a := (l.foldl (fun (c : Clerk) (e : Nat × Int) => c.setAcc e.1 e.2) c).a
               st := (l.foldl (fun (c : Clerk) (e : Nat × Int) => c.setAcc e.1 e.2) c).st } := by
  induction l generalizing c with
  | nil => rfl
  | cons e t ih => rw [List.foldl_cons, ih]; rfl

/-- What an instruction computes leaves its clerk's place, memory and events. -/
theorem apply_keeps (c : Clerk) (o : ClerkOut) (d p : List (Nat × Nat)) :
    (c.apply o d p).pc = c.pc ∧ (c.apply o d p).reps = c.reps ∧ (c.apply o d p).mem = c.mem ∧ (c.apply o d p).evt = c.evt := by
  unfold Clerk.apply
  dsimp only
  rw [foldl_setAcc_frame]
  exact ⟨rfl, rfl, rfl, rfl⟩

/-- One write of a register is that write. -/
theorem settleWrites_short {l : List (Nat × Nat)} (w : Nat) (s : State) (h : l.length ≤ 1) : settleWrites w l s = (l, s) := by
  match l, h with
  | [], _ => rfl
  | [e], _ => rfl

/-- The pointer registers that an instruction writes. -/
def pointerWrites (o : ClerkOut) : List (Nat × Nat) := o.ptr.filterMap fun e => if e.1 = 0 then some e.2 else none

/-- The clerk goes on to the instruction that block repeats name (R277). -/
theorem advance_next (c : Clerk) : ∃ lc, c.advance .next = some { c with
    pc := (repStep c.pc c.reps.reverse).1 % 16384, reps := (repStep c.pc c.reps.reverse).2.reverse, lc := lc } :=
  ⟨_, rfl⟩

/-- The clerk `old` after a word without moves that took the clerk `c` to `c'`: the time is counted, and the accumulators noted that
are in flight (R275, R276). -/
def wordDone (time : ClerkTiming) (c c' old : Clerk) : Clerk :=
  { c' with
    mem := old.mem, evt := old.evt, hot := time.hot
    cyc := c.cyc + BitVec.ofNat 48 (1 + time.extra + flagBit (time.uses.any c.hot.contains) 0) }

/-- What a word without moves leaves that computes `o` and goes on. -/
theorem clerkWord_computes {n op : Nat} {w : ClerkWord} (time : ClerkTiming) {s u : State} {o : ClerkOut} {c' : Clerk}
    {f : Clerk → State → ClerkOut × ClerkCtl × State} (h : ClerkTurn n op w s) (hf : f (s.clerk n) s = (o, .next, u))
    (hd : o.d.length ≤ 1) (hp : o.ptr.length ≤ 1)
    (advanced : ((s.clerk n).apply o o.d (pointerWrites o)).advance .next = some c') :
    s.clerkWord n op w time f = u.updClerk n (wordDone time (s.clerk n) c') := by
  obtain ⟨next, present, mx, my, clean⟩ := h
  have writes : settleWrites 24 o.d u = (o.d, u) := settleWrites_short 24 u hd
  have pointers : settleWrites 24 (pointerWrites o) u = (pointerWrites o, u) :=
    settleWrites_short 24 u (Nat.le_trans (List.length_filterMap_le _ _) hp)
  rw [pointerWrites] at pointers advanced
  unfold State.clerkWord
  rw [next, fetchClerk_clean clean, mx, my]
  dsimp only
  rw [hf]
  simp only [show moveOf 0 = none from rfl, show moveIllegal 0 = false from rfl, State.moveFault, State.clerkLoads, Clerk.ptrWrites,
    List.filterMap_cons, List.filterMap_nil, Option.bind_none, List.append_nil, writes, pointers, advanced]
  rfl

/-- A word without moves that computes `o` and goes on moves its clerk by the registers of `o`. -/
theorem clerkRun_moved {n op : Nat} {w : ClerkWord} {time : ClerkTiming} {s u : State} {o : ClerkOut}
    {f : Clerk → State → ClerkOut × ClerkCtl × State} (h : ClerkTurn n op w s) (hf : f (s.clerk n) s = (o, .next, u))
    (hu : u = { s with freeCtr := u.freeCtr }) (hd : o.d.length ≤ 1) (hp : o.ptr.length ≤ 1) :
    ∃ t, clerkRun n op w time f s = .next t ∧ ClerkMoved n s t fun c => c.apply o o.d (pointerWrites o) := by
  obtain ⟨lc, advanced⟩ := advance_next ((s.clerk n).apply o o.d (pointerWrites o))
  have ⟨_, present, _⟩ := h
  have clerks : ∀ m, u.clerk m = s.clerk m := fun m => by rw [hu]; rfl
  have outcome := clerkWord_computes time h hf hd hp advanced
  refine ⟨_, (congrArg (settleFlags s) outcome).trans (settleFlags_engines s _ (by rw [hu]; rfl)), ?_, fun m hm => (clerk_updClerk_other u _ hm).trans (clerks m), ?_⟩
  · rw [hu]; rfl
  · obtain ⟨pc, reps, mem, evt⟩ := apply_keeps (s.clerk n) o o.d (pointerWrites o)
    rw [clerk_updClerk_same _ (by rw [hu]; exact present), clerks n]
    simp only [wordDone, pc, reps, mem, evt]

end Sys2Proof.Proofs
end

section
/-! The accumulator words of the clerks (R270, R271, R276). -/
namespace Sys2Proof.Proofs
open Sys2Proof.Machine Sys2Proof.Laws

section Word
variable {n op : Nat} {w : ClerkWord} {time : ClerkTiming} {s u : State} {f : Clerk → State → ClerkOut × ClerkCtl × State}

/-- A word that computes one accumulator. -/
theorem clerkRun_acc {i : Nat} {v : Int} (h : ClerkTurn n op w s) (hf : f (s.clerk n) s = ({ a := [(i, v)] }, .next, u))
    (hu : u = { s with freeCtr := u.freeCtr }) :
    ∃ t, clerkRun n op w time f s = .next t ∧ ClerkMoved n s t fun c => c.setAcc i v :=
  clerkRun_moved h hf hu (by simp) (by simp)

/-- A word that computes two accumulators. -/
theorem clerkRun_accs {i j : Nat} {v x : Int} (h : ClerkTurn n op w s)
    (hf : f (s.clerk n) s = ({ a := [(i, v), (j, x)] }, .next, u)) (hu : u = { s with freeCtr := u.freeCtr }) :
    ∃ t, clerkRun n op w time f s = .next t ∧ ClerkMoved n s t fun c => (c.setAcc i v).setAcc j x :=
  clerkRun_moved h hf hu (by simp) (by simp)

/-- A word that computes one data register, and SAT. -/
theorem clerkRun_data {r v : Nat} {sat : Bool} (h : ClerkTurn n op w s)
    (hf : f (s.clerk n) s = ({ d := [(r, v)], sat := sat }, .next, u)) (hu : u = { s with freeCtr := u.freeCtr }) :
    ∃ t, clerkRun n op w time f s = .next t ∧ ClerkMoved n s t fun c =>
      { c with d := c.d.set r (BitVec.ofNat 24 v), st := if sat then c.st ||| 1 else c.st } :=
  clerkRun_moved h hf hu (by simp) (by simp)

end Word

/-- R271: what a write of an accumulator does. -/
theorem setAcc_eq (c : Clerk) {i : Nat} (hi : i < 4) (v : Int) : c.setAcc i v = { c with
    a := c.a.set i (BitVec.ofInt 56 (if c.mode.getLsbD 1 then clampBits 56 v else v))
    st := if -(2 ^ 55) ≤ v ∧ v < 2 ^ 55 then c.st else c.st ||| BitVec.ofNat 16 (2 ^ (1 + i)) } := by
  have saturates : c.saturates = c.mode.getLsbD 1 := by
    simp [Clerk.saturates, bit, BitVec.getLsbD, Nat.testBit, Nat.and_comm 1, Nat.and_one_is_mod]
  have overflow : (clampBits 56 v != v) = !decide (-(2 ^ 55) ≤ v ∧ v < 2 ^ 55) := by
    rw [Bool.eq_iff_iff]
    simp only [clampBits, bne_iff_ne, Bool.not_eq_true', decide_eq_false_iff_not, ne_eq]
    omega
  unfold Clerk.setAcc
  simp only [Nat.mod_eq_of_lt hi, saturates, overflow, Bool.not_eq_true', decide_eq_false_iff_not, ite_not]

/-- cmac of even registers is the complex product; of odd ones it writes some values. -/
theorem cmacOut_accs (w : ClerkWord) (c : Clerk) (s : State) : ∃ p q t, cmacOut w c s =
    ({ a := [(w.dst.toNat % 4, p), ((w.dst.toNat % 4 + 1) % 4, q)] }, .next, t) ∧ t = { s with freeCtr := t.freeCtr } ∧
    (∀ im, im = (if bit w.imm.toNat 0 then -c.di (w.s2.toNat + 1) else c.di (w.s2.toNat + 1)) →
      w.dst.toNat % 2 = 0 → w.s1.toNat % 2 = 0 → w.s2.toNat % 2 = 0 →
      p = c.ai (w.dst.toNat % 4) + (c.di w.s1.toNat * c.di w.s2.toNat * 4) - (c.di (w.s1.toNat + 1) * im * 4) ∧
      q = c.ai ((w.dst.toNat % 4 + 1) % 4) + (c.di w.s1.toNat * im * 4) + (c.di (w.s1.toNat + 1) * c.di w.s2.toNat * 4)) := by
  by_cases odd : w.dst.toNat % 2 = 1 ∨ w.s1.toNat % 2 = 1 ∨ w.s2.toNat % 2 = 1
  · refine ⟨_, _, _, by simp only [cmacOut, odd, Bool.or_eq_true, decide_eq_true_eq, or_assoc, if_true]; rfl, rfl, ?_⟩
    omega
  · refine ⟨_, _, _, by simp only [cmacOut, odd, Bool.or_eq_true, decide_eq_true_eq, or_assoc, if_false]; rfl, rfl, ?_⟩
    rintro im rfl - - -
    exact ⟨rfl, rfl⟩

/-- mva gives one part of an accumulator; its fourth part is open. -/
theorem mvaOut_data (w : ClerkWord) (c : Clerk) (s : State) : ∃ v t, mvaOut w c s =
    ({ d := [(w.dst.toNat, v)] }, .next, t) ∧ t = { s with freeCtr := t.freeCtr } ∧
    ∀ a, a = (c.a.getD (w.s1.toNat % 4) 0).toNat →
      (w.imm.toNat % 4 = 0 → v = a % 2 ^ 24) ∧ (w.imm.toNat % 4 = 1 → v = a / 2 ^ 24 % 2 ^ 24) ∧
        (w.imm.toNat % 4 = 2 → v = wrapBits 24 (sext 8 (a / 2 ^ 48))) := by
  have part : w.imm.toNat % 4 = 0 ∨ w.imm.toNat % 4 = 1 ∨ w.imm.toNat % 4 = 2 ∨ w.imm.toNat % 4 = 3 := by omega
  obtain e | e | e | e := part
  all_goals
    refine ⟨_, _, by simp only [mvaOut, e]; rfl, rfl, ?_⟩
    rintro a rfl
    simp [e, accS]

/-- asha shifts by its count; a count beyond 56 writes some value. -/
theorem ashaOut_acc (w : ClerkWord) (c : Clerk) (s : State) : ∃ v t, ashaOut w c s =
    ({ a := [(w.dst.toNat % 4, v)] }, .next, t) ∧ t = { s with freeCtr := t.freeCtr } ∧
    (w.imm.toInt.natAbs ≤ 56 →
      v = if (if Config.ashaLeft then decide (0 ≤ w.imm.toInt) else decide (w.imm.toInt < 0))
        then c.ai (w.s1.toNat % 4) * 2 ^ w.imm.toInt.natAbs else c.ai (w.s1.toNat % 4) / 2 ^ w.imm.toInt.natAbs) := by
  by_cases far : 56 < w.imm.toInt.natAbs
  · refine ⟨_, _, by simp only [ashaOut, far, if_true]; rfl, rfl, fun near => absurd near (Nat.not_le.2 far)⟩
  · refine ⟨_, _, by simp only [ashaOut, far, if_false]; rfl, rfl, fun _ => ?_⟩
    cases Config.ashaLeft <;> simp [accS]

/-- Settles O38: each word computes one register or two, which `clerkRun_acc`, `clerkRun_accs` and `clerkRun_data` carry to the outcome
of the command; what a word leaves open is a free value. -/
theorem clerkAccumulatorsCompute : Obligations.ClerkAccumulatorsCompute := by
  rintro n w s k i j x y rfl rfl rfl rfl rfl
  refine ⟨fun c v => setAcc_eq c (Nat.mod_lt _ (by decide)) v, fun h => clerkRun_acc h rfl rfl, fun h => clerkRun_acc h rfl rfl,
    fun im h him => ?_, fun v h hv => ?_, fun a h ha => ?_, fun h => clerkRun_acc h rfl rfl, fun h => clerkRun_acc h rfl rfl,
    fun h => ?_, fun h => clerkRun_acc h rfl rfl⟩
  · obtain ⟨p, q, u, computes, hu, even⟩ := cmacOut_accs w (s.clerk n) s
    obtain ⟨t, ht, moved⟩ := clerkRun_accs h computes hu
    exact ⟨t, p, q, ht, moved, even im him⟩
  · subst hv
    exact clerkRun_data h rfl rfl
  · obtain ⟨v, u, computes, hu, parts⟩ := mvaOut_data w (s.clerk n) s
    obtain ⟨t, ht, moved⟩ := clerkRun_data h computes hu
    exact ⟨t, v, ht, moved, parts a ha⟩
  · obtain ⟨v, u, computes, hu, near⟩ := ashaOut_acc w (s.clerk n) s
    obtain ⟨t, ht, moved⟩ := clerkRun_acc h computes hu
    exact ⟨t, v, ht, moved, near⟩

end Sys2Proof.Proofs
end

section
/-! How a command of a source ends by the first of its checks that fails, and the commands of the device that act on nothing else
(R340, R361, R362, R363, R48, R412). -/
namespace Sys2Proof.Proofs
open Sys2Proof.Machine Sys2Proof.Laws

/-! ### The first check that fails (R340) -/

section Refusal
variable {p : Pkt} {body : Body} {s : State}

/-- While the bus matrix runs, the first failure of a command stands. -/
theorem stallRefusal_running (op : Nat) (r : Option Res) : stallRefusal false op r = r := rfl

/-- An opcode that is not implemented is refused whatever else the packet holds. -/
theorem refusal_badOpcode (length : p.sourceLengthOk = true) (unknown : opcodes.contains p.op = false)
    (running : s.health.stalled.contains 13 = false) : p.refusal body s = some { status := stOpcode } := by
  rw [Pkt.refusal, running, stallRefusal_running]
  simp only [length, unknown]
  rfl

/-- A LENGTH other than the opcode's is refused before anything else is looked at. -/
theorem refusal_badLength (length : p.sourceLengthOk = true) (known : opcodes.contains p.op = true)
    (running : s.health.stalled.contains 13 = false) (other : p.len ≠ body.words + if p.auth then 2 else 0) :
    p.refusal body s = some { status := stLength } := by
  have differs : (p.len != body.words + if p.auth then 2 else 0) = true := bne_iff_ne.2 other
  rw [Pkt.refusal, running, stallRefusal_running]
  simp only [length, known, differs]
  rfl

/-- A command that completes at once and passes each check is not refused. -/
theorem refusal_none (length : p.sourceLengthOk = true) (known : opcodes.contains p.op = true)
    (running : s.health.stalled.contains 13 = false) (words : p.len = body.words + if p.auth then 2 else 0)
    (safe : (s.teller.safe && !servedSafe p.op) = false) (early : (!s.ledger.firstDone && !servedEarly p.op) = false)
    (header : p.headerBad = false) (checks : ∀ c ∈ body.checks, c = none) (done : body.deferred = false) :
    p.refusal body s = none := by
  have same : (p.len != body.words + if p.auth then 2 else 0) = false := bne_eq_false_iff_eq.2 words
  rw [Pkt.refusal, running, stallRefusal_running, firstFailure, List.findSome?_eq_none_iff]
  have implemented : p.op ∈ opcodes := List.contains_iff_mem.1 known
  simpa [length, implemented, same, safe, early, header, done, failIf, or_imp, forall_and] using checks

end Refusal

/-- The packet of a turn carries its opcode. -/
theorem turn_op {op : Nat} {src : Source} {wr : Bool} {image : ReadResult} {p : Pkt} {s : State} (h : Turn op src wr image p s) :
    p.op = op := by
  obtain ⟨-, carries, -, -⟩ := h
  exact carries

/-- The outcome of a command that a check refuses. -/
theorem refused_outcome {op : Nat} {body : Pkt → State → Body} {src : Source} {wr : Bool} {image : ReadResult} {p : Pkt} {s : State}
    {r : Res} (h : Turn op src wr image p s) (refused : p.refusal (body p (s.pop src)) (s.pop src) = some r) :
    settleFlags s (runOp op body src wr image s) = .next (replied s p r (s.pop src)) := by
  rw [runOp_turn h, Pkt.run, refused]
  rfl

@[simp] theorem pop_health (src : Source) (s : State) : (s.pop src).health = s.health := by cases src <;> rfl
@[simp] theorem pop_deferred (src : Source) (s : State) : (s.pop src).teller.deferred = s.teller.deferred := by cases src <;> rfl

/-! ### NOP, IDENTIFY, LEDGER_READ and BAD_OPCODE -/

section Commands
variable {src : Source} {wr : Bool} {image : ReadResult} {p : Pkt} {s : State}

/-- A command that has no parameters is refused when its packet has some. -/
theorem badLength_outcome {op : Nat} {body : Pkt → State → Body} (h : Turn op src wr image p s) (known : opcodes.contains op = true)
    (length : p.sourceLengthOk = true) (auth : p.auth = false) (running : s.health.stalled.contains 13 = false)
    (other : p.len ≠ (body p (s.pop src)).words) :
    settleFlags s (runOp op body src wr image s) = .next (replied s p { status := stLength } (s.pop src)) := by
  exact refused_outcome h (refusal_badLength length (by rw [turn_op h, known]) (by rwa [pop_health]) (by simpa [auth] using other))

/-- NOP is served in SAFE_STATE as out of it. -/
theorem nop_accepted (h : Turn 0x00 src wr image p s) (length : p.sourceLengthOk = true) (auth : p.auth = false)
    (running : s.health.stalled.contains 13 = false) (words : p.len = 4) (header : p.headerBad = false) (target : p.target = 0)
    (first : s.ledger.firstDone = true) : Accepted 0x00 nopBody src wr image p s := by
  have untargeted : p.noTarget = none := by simp [Pkt.noTarget, failIf, target]
  refine ⟨h, refusal_none length (by rw [turn_op h]; rfl) (by rwa [pop_health]) (by simp [nopBody, words, auth]) ?_ ?_ header ?_ rfl⟩
  · rw [turn_op h]
    exact Bool.and_false _
  · rw [pop_ledger, first]
    rfl
  · simpa [nopBody] using untargeted

/-- A delivery that does not fail is the reply of the bulk read; nothing is cleared after it. -/
theorem bulk_delivered {oa ol r0 : Nat} {part : List Byte} (delivers : (p.deliver oa ol part s).2.2.2 = false) :
    p.bulk oa ol part r0 id s = ((p.deliver oa ol part s).1,
      { r0 := r0, r1 := min (p.room ol) part.length, r2 := part.length - min (p.room ol) part.length }, .done) := by
  obtain ⟨-, -, written, omitted⟩ := deliver_spec p oa ol part s delivers
  simp [Pkt.bulk, delivers, written, omitted]

/-- LEDGER_READ delivers the image from OFFSET on. -/
theorem ledgerRead_effect (delivers : (p.deliver 24 32 (s.ledgerImage.drop (u32 p.b 16)) (s.pop src)).2.2.2 = false) :
    (ledgerReadBody p (s.pop src)).effect (s.pop src) = ((p.deliver 24 32 (s.ledgerImage.drop (u32 p.b 16)) (s.pop src)).1,
      { r0 := s.ledger.generation.toNat, r1 := min (p.room 32) (s.ledgerImage.drop (u32 p.b 16)).length
        r2 := (s.ledgerImage.drop (u32 p.b 16)).length - min (p.room 32) (s.ledgerImage.drop (u32 p.b 16)).length }, .done) := by
  simp only [ledgerReadBody, pop_ledgerImage, pop_ledger]
  exact bulk_delivered delivers

/-- A source whose head carries an opcode that is not implemented gets BAD_OPCODE. -/
theorem execBadOpcode_outcome (head : s.pktOf src true .failed = some p) (here : p.isForward = false)
    (takes : s.canTake src p = true) (length : p.sourceLengthOk = true) (running : s.health.stalled.contains 13 = false)
    (unknown : opcodes.contains p.op = false) :
    execBadOpcode src s = .next (replied s p { status := stOpcode } (s.pop src)) := by
  have refused : p.refusal (badOpcodeBody p (s.pop src)) (s.pop src) = some { status := stOpcode } :=
    refusal_badOpcode length unknown (by rwa [pop_health])
  simp only [execBadOpcode, head, here, takes, unknown, Bool.not_false, Bool.and_true, if_true, Pkt.run, refused]
  exact ran_outcome

end Commands

/-! ### FENCE -/

/-- A fence that joins no waiting command ends (R348). -/
theorem flushFences_alone {d : Deferred} {s t : State} (joins : t = s.updTeller fun x => { x with deferred := x.deferred ++ [d] })
    (idle : s.teller.deferred = []) (fence : d.wait = .fence) : (flushFences t.teller.deferred.length t).teller.deferred = [] := by
  have alone : t.teller.deferred = [d] := by simp [joins, State.updTeller, idle]
  simp only [alone, List.length_singleton, flushFences, fence, beq_self_eq_true, if_true, Deferred.post, post_teller]
  rfl

/-- A fence that commits with no command waiting leaves none. -/
theorem queued_fence_alone (s : State) (p : Pkt) (r : Res) {u : State} (idle : u.teller.deferred = []) :
    (queued s p r .fence u).teller.deferred = [] := by
  rw [queued, settled_teller, noticeFlags_teller]
  exact flushFences_alone rfl (by rwa [reply_teller]) rfl

/-- Settles O2: NOP, IDENTIFY, LEDGER_READ and FENCE by the outcome of an accepted command and its effect, BAD_LENGTH and BAD_OPCODE
as the first check that fails. -/
theorem deviceCommandsReply : Obligations.DeviceCommandsReply := by
  intro s src p
  refine ⟨fun h => done_outcome h rfl, fun h length auth running => ⟨fun words header target first _ => ?_, fun other => ?_⟩,
    fun h length auth running other => ?_, fun h => ?_, fun wr part h hpart delivers => ?_,
    fun head forward takes length running unknown => ?_, fun h idle => ⟨wait_outcome h rfl, ?_⟩⟩
  · exact done_outcome (nop_accepted h length auth running words header target first) rfl
  · exact badLength_outcome (body := nopBody) h rfl length auth running other
  · exact badLength_outcome (body := identifyBody) h rfl length auth running other
  · exact done_outcome h (by simp only [identifyBody, pop_ledger, pop_plane])
  · subst hpart
    exact done_outcome h (ledgerRead_effect delivers)
  · exact execBadOpcode_outcome head forward takes length running unknown
  · exact queued_fence_alone s p {} ((pop_deferred src s).trans idle)

end Sys2Proof.Proofs
end

section
/-! SUPPORT. The Timekeeper's time and loop (R413, R414, R419, R421, R422): what three equal counters show, how far a move of the counters
moves the time, what a change of the Timekeeper leaves alone, and what a phase error does to the loop. -/
namespace Sys2Proof.Proofs
open Sys2Proof.Machine Sys2Proof.Laws

/-! ### The voted time (R413) -/

theorem majority_same (a : Nat) : majority a a a = some a := by simp [majority]

/-- A counter is the sum of its four fields. -/
theorem cntField_sum (c : Nat) :
    (cntField 0 c * 1000000000 + cntField 1 c) * 2 ^ 64 + cntField 2 c * 2 ^ 48 + cntField 3 c = c := by
  simp only [cntField]
  omega

theorem voteCounters_same (c : Nat) : voteCounters [c, c, c] = some c := by
  simp only [voteCounters, List.getD_cons_zero, List.getD_cons_succ, majority_same, cntField_sum]

theorem voted_same {k : Tk} {c : Nat} (h : k.cnt = [c, c, c]) : k.voted = c := by
  rw [Tk.voted, h, voteCounters_same, Option.getD_some]

theorem voted_congr {k l : Tk} (h : l.cnt = k.cnt) : l.voted = k.voted := by rw [Tk.voted, Tk.voted, h]

theorem now_congr {k l : Tk} (h : l.cnt = k.cnt) : l.now = k.now := by rw [Tk.now, Tk.now, voted_congr h]

/-- Counters set to a time in ticks show it. -/
theorem now_setCnt {k : Tk} {t : Nat} (h : k.cnt = [t * 2 ^ 48, t * 2 ^ 48, t * 2 ^ 48]) : k.now = t := by
  rw [Tk.now, voted_same h, Nat.mul_div_cancel _ (Nat.two_pow_pos 48)]

/-- A move of the counters that does not reach back beyond the epoch moves the time by as many ticks (R422). -/
theorem now_move {k l : Tk} {d : Int} (h : l.cnt = (k.move d).cnt) (after : 0 ≤ (k.now : Int) + d) :
    (l.now : Int) = (k.now : Int) + d := by
  have moved : l.voted = ((k.voted : Int) + d * 2 ^ 48).toNat := voted_same h
  simp only [Tk.now, moved] at *
  omega

/-! ### A change of the Timekeeper that may move the time -/

section Step
variable (f : Tk → Tk) (s : State)

theorem stepTk_frame : s.stepTk f = { s with tk := f s.tk, links := (s.stepTk f).links } := by
  unfold State.stepTk
  dsimp only
  split <;> rfl

@[simp] theorem stepTk_tk : (s.stepTk f).tk = f s.tk := by rw [stepTk_frame]
@[simp] theorem stepTk_handles : (s.stepTk f).handles = s.handles := by rw [stepTk_frame]
@[simp] theorem stepTk_ports : (s.stepTk f).ports = s.ports := by rw [stepTk_frame]
@[simp] theorem stepTk_now : (s.stepTk f).now = (f s.tk).now := by rw [State.now, stepTk_tk]

/-- Where the counters stay, the links' boundaries do too. -/
theorem stepTk_still (h : (f s.tk).cnt = s.tk.cnt) : s.stepTk f = s.updTk f := by
  have still : ((s.updTk f).now : Int) - s.now = 0 := by
    rw [State.now, State.now, updTk_tk, now_congr h, Int.sub_self]
  rw [State.stepTk, still]
  rfl

end Step

/-! ### Events and their notice -/

section Noticed
variable (s u : State)

theorem settleFlags_eq : settleFlags s u = .next (noticed s u) := rfl

@[simp] theorem noticed_tk : (noticed s u).tk = u.tk := by simp [noticed]
@[simp] theorem noticed_handles : (noticed s u).handles = u.handles := by simp [noticed]
@[simp] theorem noticed_teller : (noticed s u).teller = u.teller := by simp [noticed]
@[simp] theorem noticed_ports : (noticed s u).ports = u.ports := by simp [noticed]
@[simp] theorem noticed_links : (noticed s u).links = u.links := by simp [noticed]
@[simp] theorem noticed_health : (noticed s u).health = u.health := by simp [noticed]
@[simp] theorem noticed_now : (noticed s u).now = u.now := by rw [State.now, noticed_tk, State.now]

end Noticed

/-- A change within the Timekeeper and the pins that keeps the discipline state raises no event and starts no rewrite. -/
theorem settleFlags_time {s u : State} (within : u = { s with tk := u.tk, pins := u.pins }) (still : u.tk.state = s.tk.state) :
    settleFlags s u = .next u := by
  have flags : u.eventFlags = s.eventFlags := by
    refine eventFlags_congr s u ?_ ?_ ?_ ?_ still ?_ ?_ <;> rw [within]
  have same : settled s u = u := by
    rw [settled_same s u (by rw [within]), within]
  rw [settleFlags, settle, noticeFlags_same s u flags, same]

theorem settleFlags_idle (s : State) : settleFlags s s = .next s := settleFlags_time rfl rfl

/-- A raised event stands in EVENT_FLAGS (R449). -/
theorem raise_event {i : Nat} (s : State) (h : i < 32) : (s.raise i).health.events.getLsbD i = true := by
  rw [raise_health, BitVec.getLsbD_or, BitVec.getLsbD_ofNat, Nat.testBit_two_pow_self]
  simp [h]

/-! ### Final replies -/

/-- A final reply does not touch the Timekeeper. -/
theorem deferred_post_tk (d : Deferred) (r : Res) (s : State) : (d.post r s).tk = s.tk := by
  unfold Deferred.post
  dsimp only
  rw [post_frame]

theorem flushFences_tk (n : Nat) (s : State) : (flushFences n s).tk = s.tk := by
  induction n generalizing s with
  | zero => rfl
  | succ n ih =>
    unfold flushFences
    split
    · split
      · rw [ih, deferred_post_tk, updTeller_tk]
      · rfl
    · rfl

@[simp] theorem finish_tk (p : Deferred → Bool) (r : Res) (s : State) : (s.finish p r).tk = s.tk := by
  rw [State.finish, flushFences_tk, foldl_keeps State.tk _ fun s d => deferred_post_tk d r s, updTeller_tk]

/-- TIME_SET commands that got their final reply wait no more (R399). -/
theorem finish_timeSet (r : Res) (s : State) :
    ∀ d ∈ (s.finish (fun d => d.wait == .timeSet) r).teller.deferred, d.wait ≠ .timeSet := by
  obtain ⟨-, -, rest⟩ := finish_keeps (fun d => d.wait == .timeSet) r s
  intro d hd
  obtain ⟨-, other⟩ := rest d hd
  exact beq_eq_false_iff_ne.1 other

/-! ### The loop (R419, R421) -/

/-- The Timekeeper without its discipline state and what is kept with it (R419, R423). -/
def besideState (k : Tk) : Tk :=
  { k with state := .freerun, lockRun := 0, unlockRun := 0, lockLoss := 0, lastLock := 0, lockSince := 0, ys := [], yls := [] }

theorem eq_of_besideState {k l : Tk} (h : besideState l = besideState k) : l = { k with
    state := l.state, lockRun := l.lockRun, unlockRun := l.unlockRun, lockLoss := l.lockLoss, lastLock := l.lastLock
    lockSince := l.lockSince, ys := l.ys, yls := l.yls } := by
  cases k
  cases l
  simpa [besideState] using h

theorem leaveLocked_beside (k : Tk) : besideState k.leaveLocked = besideState k := by
  unfold Tk.leaveLocked
  split <;> rfl

theorem toAcquire_beside (k : Tk) : besideState k.toAcquire = besideState k := leaveLocked_beside k

theorem lockStep_beside (k : Tk) (e : Int) : besideState (k.lockStep e) = besideState k := by
  unfold Tk.lockStep
  dsimp only
  generalize (if e.natAbs ≤ k.src.lockLimit then k.lockRun + 1 else 0) = near
  generalize (if e.natAbs > k.src.unlockLimit then k.unlockRun + 1 else 0) = far
  split
  · rfl
  · split
    · exact toAcquire_beside _
    · rfl

@[simp] theorem toAcquire_cnt (k : Tk) : k.toAcquire.cnt = k.cnt := by rw [eq_of_besideState (toAcquire_beside k)]
@[simp] theorem toAcquire_yI (k : Tk) : k.toAcquire.yI = k.yI := by rw [eq_of_besideState (toAcquire_beside k)]
@[simp] theorem toAcquire_ppsOffset (k : Tk) : k.toAcquire.ppsOffset = k.ppsOffset := by rw [eq_of_besideState (toAcquire_beside k)]
@[simp] theorem toAcquire_slewLeft (k : Tk) : k.toAcquire.slewLeft = k.slewLeft := by rw [eq_of_besideState (toAcquire_beside k)]
@[simp] theorem toAcquire_timeFault (k : Tk) : k.toAcquire.timeFault = k.timeFault := by rw [eq_of_besideState (toAcquire_beside k)]

@[simp] theorem lockStep_cnt (k : Tk) (e : Int) : (k.lockStep e).cnt = k.cnt := by rw [eq_of_besideState (lockStep_beside k e)]
@[simp] theorem lockStep_yI (k : Tk) (e : Int) : (k.lockStep e).yI = k.yI := by rw [eq_of_besideState (lockStep_beside k e)]
@[simp] theorem lockStep_src (k : Tk) (e : Int) : (k.lockStep e).src = k.src := by rw [eq_of_besideState (lockStep_beside k e)]
@[simp] theorem lockStep_phaseErr (k : Tk) (e : Int) : (k.lockStep e).phaseErr = k.phaseErr := by
  rw [eq_of_besideState (lockStep_beside k e)]
@[simp] theorem lockStep_ppsValid (k : Tk) (e : Int) : (k.lockStep e).ppsValid = k.ppsValid := by
  rw [eq_of_besideState (lockStep_beside k e)]
@[simp] theorem lockStep_lastEdge (k : Tk) (e : Int) : (k.lockStep e).lastEdge = k.lastEdge := by
  rw [eq_of_besideState (lockStep_beside k e)]

/-- A phase error beyond 1,000 ns steps an idle device in ACQUIRE (R421). -/
theorem loop_steps {k : Tk} {e : Int} (acquire : k.state = .acquire) (large : tickUs < e.natAbs) :
    k.loop true e = { k.move (-e) with phaseErr := e, errs := lastN 64 (k.errs ++ [e]), lockRun := 0 } := by
  simp [Tk.loop, acquire, large, Tk.move, Tk.setCnt, Tk.voted]

/-- A phase error that does not step the time leaves the counters, and the integral term moves by a small one only (R421). -/
theorem loop_steers {k : Tk} {idle : Bool} {e : Int} (steers : e.natAbs ≤ tickUs ∨ k.state ≠ .acquire ∨ idle = false) :
    (k.loop idle e).cnt = k.cnt ∧ (k.loop idle e).lastEdge = k.lastEdge ∧
      (k.loop idle e).yI = if e.natAbs ≤ tickUs then k.yI - divOpen (e * 1000000000) (65536 * 256) else k.yI := by
  have stays : ¬(k.state == .acquire && decide (e.natAbs > tickUs) && idle) = true := by
    simp only [Bool.and_eq_true, beq_iff_eq, decide_eq_true_eq]
    grind
  unfold Tk.loop
  dsimp only
  rw [if_neg stays]
  refine ⟨lockStep_cnt _ _, lockStep_lastEdge _ _, ?_⟩
  rw [lockStep_yI]
  grind

/-- What each phase error leaves, and that it is noted. -/
theorem loop_keeps (k : Tk) (idle : Bool) (e : Int) : (k.loop idle e).phaseErr = e ∧ (k.loop idle e).ppsValid = k.ppsValid ∧
    (k.loop idle e).src = k.src := by
  unfold Tk.loop
  dsimp only
  split
  · exact ⟨rfl, rfl, rfl⟩
  · exact ⟨lockStep_phaseErr _ _, lockStep_ppsValid _ _, lockStep_src _ _⟩

/-- Loss of the source from ACQUIRE or LOCKED leads to HOLDOVER (R423). -/
theorem toHoldover_state {k : Tk} (h : k.state = .locked ∨ k.state = .acquire) : k.toHoldover.state = .holdover := by
  have steered : (k.state == .acquire || k.state == .locked) = true := by
    rcases h with h | h <;> rw [h] <;> rfl
  rw [Tk.toHoldover, if_pos steered]

/-- Loss of the source leaves no source, and the time as it is. -/
theorem toHoldover_keeps (k : Tk) : k.toHoldover.src = .none ∧ k.toHoldover.hop = 15 ∧ k.toHoldover.cnt = k.cnt ∧
    k.toHoldover.ppsValid = k.ppsValid ∧ k.toHoldover.tkref = k.tkref := by
  unfold Tk.toHoldover
  dsimp only
  split
  · rw [eq_of_besideState (leaveLocked_beside k)]
    exact ⟨rfl, rfl, rfl, rfl, rfl⟩
  · exact ⟨rfl, rfl, rfl, rfl, rfl⟩

/-- The histories of R423 and R428 touch nothing else. -/
theorem history_frame (k : Tk) (link : Option Nat) :
    k.history link = { k with ys := (k.history link).ys, yls := (k.history link).yls, links := (k.history link).links } := by
  unfold Tk.history
  dsimp only
  split <;> split <;> rfl

@[simp] theorem history_cnt (k : Tk) (link : Option Nat) : (k.history link).cnt = k.cnt := by rw [history_frame]
@[simp] theorem history_yI (k : Tk) (link : Option Nat) : (k.history link).yI = k.yI := by rw [history_frame]
@[simp] theorem history_src (k : Tk) (link : Option Nat) : (k.history link).src = k.src := by rw [history_frame]
@[simp] theorem history_hop (k : Tk) (link : Option Nat) : (k.history link).hop = k.hop := by rw [history_frame]
@[simp] theorem history_state (k : Tk) (link : Option Nat) : (k.history link).state = k.state := by rw [history_frame]
@[simp] theorem history_phaseErr (k : Tk) (link : Option Nat) : (k.history link).phaseErr = k.phaseErr := by rw [history_frame]

end Sys2Proof.Proofs
end

section
/-! The Timekeeper's commands, edges and losses, and its second (R399, R400, R401, R414–R418, R420–R423, R430). -/
namespace Sys2Proof.Proofs
open Sys2Proof.Machine Sys2Proof.Laws

/-! ### TIME_SET (R399) -/

@[simp] theorem pop_tk (src : Source) (s : State) : (s.pop src).tk = s.tk := by cases src <;> rfl

/-- What a time set at commit leaves (R399, R422). -/
theorem setAtCommit_spec (k : Tk) (t : Nat) : (k.setAtCommit t).now = t ∧ (k.setAtCommit t).ppsOffset = 0 ∧
    (k.setAtCommit t).slewLeft = 0 ∧ (k.setAtCommit t).state = if k.state = .locked then .acquire else k.state := by
  unfold Tk.setAtCommit
  dsimp only [Tk.setCnt, Tk.move]
  by_cases locked : k.state = .locked
  · simp only [locked, beq_self_eq_true, if_true]
    exact ⟨now_setCnt (toAcquire_cnt _), toAcquire_ppsOffset _, toAcquire_slewLeft _, rfl⟩
  · rw [if_neg (by simpa using locked), if_neg locked]
    exact ⟨now_setCnt rfl, rfl, rfl, rfl⟩

section TimeSet
variable {src : Source} {p : Pkt} {s : State} {t : Nat}

/-- MODE 1 sets the time at commit. -/
theorem timeSet_atCommit (h : Accepted 0x50 timeSetBody src true .failed p s) (target : fullOf p.b 24 = some t) (mode : u8 p.b 16 = 1) :
    ∃ u, exec (.timeSet src) s = .next (repliedTwice s p {} {} u) ∧ u.now = t ∧ u.tk.ppsOffset = 0 ∧ u.tk.slewLeft = 0 ∧
      u.tk.state = (if s.tk.state = .locked then .acquire else s.tk.state) ∧ u.handles = s.handles := by
  refine ⟨(s.pop src).stepTk fun k => k.setAtCommit t, final_outcome h (by simp [timeSetBody, mode, target]), ?_⟩
  obtain ⟨now, ppsOffset, slewLeft, state⟩ := setAtCommit_spec s.tk t
  rw [stepTk_now, stepTk_tk, stepTk_handles, pop_handles, pop_tk]
  exact ⟨now, ppsOffset, slewLeft, state, rfl⟩

/-- MODE 0 waits for the edge. -/
theorem timeSet_waits (h : Accepted 0x50 timeSetBody src true .failed p s) (target : fullOf p.b 24 = some t) (mode : u8 p.b 16 = 0) :
    exec (.timeSet src) s = .next (queued s p {} .timeSet ((s.pop src).updTk fun k => { k with setWait := some t })) :=
  wait_outcome h (by simp [timeSetBody, mode, target])

end TimeSet

/-- A TIME_SET whose edge does not come within 2 s ends. -/
theorem timeSetTimeout_ends {s : State} {t : Nat} (waits : s.tk.setWait = some t) : ∃ u, exec .timeSetTimeout s = .next u ∧
    u.tk = { s.tk with setWait := none } ∧ ∀ d ∈ u.teller.deferred, d.wait ≠ .timeSet := by
  have effect : exec .timeSetTimeout s = .next (noticed s
      ((s.updTk fun k => { k with setWait := none }).finish (fun d => d.wait == .timeSet) { status := stFault })) := by
    change execTimeSetTimeout s = _
    rw [execTimeSetTimeout, waits]
    rfl
  refine ⟨_, effect, ?_, ?_⟩
  · rw [noticed_tk, finish_tk, updTk_tk]
  · rw [noticed_teller]
    exact finish_timeSet _ _

theorem timeSetTimeout_idle {s : State} (unset : s.tk.setWait = none) : exec .timeSetTimeout s = .next s := by
  change execTimeSetTimeout s = _
  rw [execTimeSetTimeout, unset]
  exact settleFlags_idle s

/-! ### TIME_ADJUST (R400) -/

section TimeAdjust
variable {src : Source} {p : Pkt} {s : State} {v : Int}

theorem timeAdjust_slews (h : Accepted 0x51 timeAdjustBody src true .failed p s) (amount : v = sext 64 (u64 p.b 24))
    (kind : u8 p.b 16 = 0) : exec (.timeAdjust src) s =
      .next (replied s p {} ((s.pop src).updTk fun k => { k with slewLeft := k.slewLeft + v * 1000000 })) := by
  refine done_outcome h ?_
  simp only [timeAdjustBody, okWith, kind, ← amount]
  rw [stepTk_still _ _ rfl]

theorem timeAdjust_offsets (h : Accepted 0x51 timeAdjustBody src true .failed p s) (amount : v = sext 64 (u64 p.b 24))
    (kind : u8 p.b 16 = 2) : exec (.timeAdjust src) s =
      .next (replied s p {} ((s.pop src).updTk fun k => { k with yHost := v })) := by
  refine done_outcome h ?_
  simp only [timeAdjustBody, okWith, kind, ← amount]
  rw [stepTk_still _ _ rfl]

theorem timeAdjust_steps (h : Accepted 0x51 timeAdjustBody src true .failed p s) (amount : v = sext 64 (u64 p.b 24))
    (kind : u8 p.b 16 = 1) : ∃ u, exec (.timeAdjust src) s = .next (replied s p {} u) ∧
      u.tk.ppsOffset = s.tk.ppsOffset + v * 1000000 ∧ (0 ≤ (s.now : Int) + v → (u.now : Int) = (s.now : Int) + v) ∧
      u.handles = s.handles := by
  refine ⟨(s.pop src).stepTk fun k => { k.move v with ppsOffset := k.ppsOffset + v * 1000000 }, done_outcome h ?_, ?_⟩
  · simp only [timeAdjustBody, okWith, kind, ← amount]
  · rw [stepTk_now, stepTk_tk, stepTk_handles, pop_handles, pop_tk]
    exact ⟨rfl, now_move rfl, rfl⟩

end TimeAdjust

/-! ### TIME_STATUS (R401) -/

/-- The packet of a turn is written where the turn says. -/
theorem turn_wr {op : Nat} {src : Source} {wr : Bool} {image : ReadResult} {p : Pkt} {s : State}
    (h : Turn op src wr image p s) : p.wr = wr := by
  obtain ⟨head, -, -, -⟩ := h
  rw [State.pktOf, Option.map_eq_some_iff] at head
  obtain ⟨-, -, rfl⟩ := head
  rfl

@[simp] theorem pop_uTotal (src : Source) (s : State) : (s.pop src).uTotal = s.uTotal := by cases src <;> rfl
@[simp] theorem pop_timeRecord (src : Source) (s : State) : (s.pop src).timeRecord = s.timeRecord := by cases src <;> rfl

section TimeStatus
variable {src : Source} {wr : Bool} {p : Pkt} {s : State}

/-- The reply words of TIME_STATUS. -/
def timeStatusWords (s : State) : Res := { r0 := s.tk.state.code, r1 := s.uTotal, r2 := s.tk.lastPps.toNat % 2 ^ 32 }

/-- Without a destination the reply words alone report. -/
theorem timeStatus_words (h : Accepted 0x52 timeStatusBody src wr .failed p s) (other : src ≠ .spi) (nowhere : u64 p.b 16 = 0) :
    exec (.timeStatus src wr) s = .next (replied s p (timeStatusWords s) (s.pop src)) := by
  have ⟨turn, _⟩ := h
  rw [← turn_src turn] at other
  refine done_outcome h ?_
  simp [timeStatusBody, other, nowhere, timeStatusWords]

/-- A named destination and SPI take the record as far as it is delivered. -/
theorem timeStatus_delivers (h : Accepted 0x52 timeStatusBody src wr .failed p s) (named : p.src = .spi ∨ u64 p.b 16 ≠ 0)
    {u : State} {n omitted : Nat} {failed : Bool} {r : Res}
    (delivery : p.deliver 16 24 s.timeRecord (s.pop src) = (u, n, omitted, failed))
    (words : r = if failed then { status := stFault, r0 := 3 } else timeStatusWords s) :
    exec (.timeStatus src wr) s = .next (replied s p r u) := by
  refine done_outcome h ?_
  have named : (p.src == .spi || decide (u64 p.b 16 ≠ 0)) = true := by simpa using named
  simp only [timeStatusBody, named, if_true, pop_timeRecord, delivery, pop_tk, pop_uTotal, timeStatusWords, words]

/-- A destination of the ring has a length (R401). -/
theorem timeStatus_length (h : Accepted 0x52 timeStatusBody .ring wr .failed p s) (named : u64 p.b 16 ≠ 0) : u32 p.b 24 ≠ 0 := by
  obtain ⟨turn, accepted⟩ := h
  intro empty
  have := checks_none accepted
  simp [timeStatusBody, turn_src turn, named, empty, failIf] at this

/-- A fabric source names no destination (R401). -/
theorem timeStatus_unnamed {q : Nat} (h : Accepted 0x52 timeStatusBody (.fabric q) wr .failed p s) : u64 p.b 16 = 0 := by
  obtain ⟨turn, accepted⟩ := h
  obtain ⟨-, -, address, -⟩ : p.noTarget = none ∧ p.reserved [(28, 4)] = none ∧ u64 p.b 16 = 0 ∧ u32 p.b 24 = 0 := by
    simpa [timeStatusBody, turn_src turn, failIf] using checks_none accepted
  exact address

theorem timeRecord_nonempty (s : State) : 0 < s.timeRecord.length := by
  -- The equation lemma of so long a record costs far more than this one look at its last parts.
  delta State.timeRecord
  simp only [List.length_append, List.length_replicate]
  exact Nat.add_pos_left (Nat.add_pos_right _ (by decide)) _

/-- A padded copy of n bytes needs no more than the first n. -/
theorem slice_take (l : List Byte) (n : Nat) : slice (l.take n) 0 n = slice l 0 n := by
  simp only [slice, List.drop_zero, List.take_take, Nat.min_self]

/-- A ring's destination takes the data as far as it has room. -/
theorem deliver_ring (ring : p.src = .ring) (written : p.wr = true) (room : u32 p.b 24 ≠ 0) {data : List Byte}
    (nonempty : 0 < data.length) : ∃ omitted, p.deliver 16 24 data s = (s.emit (.hostWrite (BitVec.ofNat 64 (u64 p.b 16)) (data.take (u32 p.b 24))),
      min (u32 p.b 24) data.length, omitted, false) := by
  have bytes : min (u32 p.b 24) data.length ≠ 0 := by omega
  refine ⟨data.length - min (u32 p.b 24) data.length, ?_⟩
  simp only [Pkt.deliver, Pkt.room, ring, written, if_true, if_neg bytes]
  rw [← List.take_eq_take_min]

theorem timeStatus_ring (h : Accepted 0x52 timeStatusBody .ring true .failed p s) (named : u64 p.b 16 ≠ 0) :
    exec (.timeStatus .ring true) s = .next (replied s p (timeStatusWords s)
      ((s.pop .ring).emit (.hostWrite (BitVec.ofNat 64 (u64 p.b 16)) (s.timeRecord.take (u32 p.b 24))))) := by
  have ⟨turn, _⟩ := h
  obtain ⟨_, delivery⟩ := deliver_ring (s := s.pop .ring) (turn_src turn) (turn_wr turn) (timeStatus_length h named)
    (timeRecord_nonempty s)
  exact timeStatus_delivers h (.inr named) delivery rfl

theorem timeStatus_failed (h : Accepted 0x52 timeStatusBody .ring false .failed p s) (named : u64 p.b 16 ≠ 0) :
    exec (.timeStatus .ring false) s = .next (replied s p { status := stFault, r0 := 3 } (s.pop .ring)) := by
  have ⟨turn, _⟩ := h
  have delivery : p.deliver 16 24 s.timeRecord (s.pop .ring) = (s.pop .ring, 0, s.timeRecord.length, true) := by
    simp [Pkt.deliver, turn_src turn, turn_wr turn]
  exact timeStatus_delivers h (.inr named) delivery rfl

theorem timeStatus_spi (h : Accepted 0x52 timeStatusBody .spi wr .failed p s) : ∃ u,
    exec (.timeStatus .spi wr) s = .next (replied s p (timeStatusWords s) u) ∧
      u.spi.dataBuf = slice s.timeRecord 0 4096 ∧ u.tk = s.tk := by
  have ⟨turn, _⟩ := h
  have spi : p.src = .spi := turn_src turn
  have delivery : p.deliver 16 24 s.timeRecord (s.pop .spi) =
      ({ s.pop .spi with spi := { (s.pop .spi).spi with dataBuf := slice s.timeRecord 0 4096 } }, min 4096 s.timeRecord.length,
        s.timeRecord.length - min 4096 s.timeRecord.length, false) := by
    simp only [Pkt.deliver, Pkt.room, spi]
    rw [← List.take_eq_take_min, slice_take]
  exact ⟨_, timeStatus_delivers h (.inl spi) delivery rfl, rfl, pop_tk _ _⟩

end TimeStatus

/-! ### Edges of PPS_IN (R399, R418, R421) -/

section Edge
variable {s : State} {stamp high : Nat}

/-- An edge that is not accepted counts PPS_REJECT. -/
theorem ppsInEdge_rejected (rejected : s.tk.ppsAccepts stamp high = false) : ∃ u, exec (.ppsInEdge stamp high) s = .next u ∧
    u.tk = { s.tk with ppsReject := satAdd 16 s.tk.ppsReject 1 } ∧ u.health.events.getLsbD evPps = true := by
  have effect : exec (.ppsInEdge stamp high) s =
      .next (noticed s ((s.updTk fun k => { k with ppsReject := satAdd 16 k.ppsReject 1 }).raise evPps)) := by
    change execPpsInEdge stamp high s = _
    rw [execPpsInEdge, rejected]
    rfl
  refine ⟨_, effect, ?_, ?_⟩
  · rw [noticed_tk, raise_tk, updTk_tk]
  · rw [noticed_health]
    exact raise_event _ (by decide)

/-- The state with an accepted edge noted. -/
def edgeNoted (stamp : Nat) (s : State) : State :=
  s.updTk fun k => { k with lastEdge := some stamp, ppsValid := true, lastPps := s.stampAt stamp }

/-- An accepted edge acts on the loop where PPS is the source. -/
theorem ppsInEdge_accepted (accepted : s.tk.ppsAccepts stamp high = true) (unset : s.tk.setWait = none) :
    exec (.ppsInEdge stamp high) s = .next (noticed s (if s.tk.src == .pps then
      (edgeNoted stamp s).stepTk fun k => k.loop s.idleForStep (s.tk.ppsError stamp) else edgeNoted stamp s)) := by
  change execPpsInEdge stamp high s = _
  simp only [execPpsInEdge, accepted, if_true, updTk_tk, unset]
  rfl

/-- An accepted edge is the edge of a TIME_SET that waits for it. -/
theorem ppsInEdge_sets {target : Nat} (accepted : s.tk.ppsAccepts stamp high = true) (waits : s.tk.setWait = some target) :
    exec (.ppsInEdge stamp high) s = .next (noticed s ((edgeNoted stamp s).setAtEdge stamp target)) := by
  change execPpsInEdge stamp high s = _
  simp only [execPpsInEdge, accepted, if_true, updTk_tk, waits]
  rfl

/-- A phase error of an edge steers the loop; the time stays unless a large one steps an idle device in ACQUIRE (R421). -/
theorem ppsInEdge_steers {e : Int} (accepted : s.tk.ppsAccepts stamp high = true) (unset : s.tk.setWait = none) (source : s.tk.src = .pps)
    (error : e = s.tk.ppsError stamp) (steers : e.natAbs ≤ tickUs ∨ s.tk.state ≠ .acquire ∨ s.idleForStep = false) :
    ∃ u, exec (.ppsInEdge stamp high) s = .next u ∧ u.tk.lastEdge = some stamp ∧ u.tk.ppsValid = true ∧ u.tk.phaseErr = e ∧
      u.tk.cnt = s.tk.cnt ∧
      u.tk.yI = if e.natAbs ≤ tickUs then s.tk.yI - divOpen (e * 1000000000) (65536 * 256) else s.tk.yI := by
  refine ⟨_, ppsInEdge_accepted accepted unset, ?_⟩
  rw [noticed_tk, source, ← error, if_pos (beq_self_eq_true _), stepTk_tk]
  obtain ⟨cnt, lastEdge, yI⟩ := loop_steers (k := (edgeNoted stamp s).tk) steers
  obtain ⟨phaseErr, ppsValid, -⟩ := loop_keeps (edgeNoted stamp s).tk s.idleForStep e
  exact ⟨lastEdge, ppsValid, phaseErr, cnt, yI⟩

theorem ppsInEdge_small {e : Int} (accepted : s.tk.ppsAccepts stamp high = true) (unset : s.tk.setWait = none) (source : s.tk.src = .pps)
    (error : e = s.tk.ppsError stamp) (small : e.natAbs ≤ tickUs) : ∃ u, exec (.ppsInEdge stamp high) s = .next u ∧
      u.tk.lastEdge = some stamp ∧ u.tk.ppsValid = true ∧ u.tk.phaseErr = e ∧
      u.tk.yI = s.tk.yI - divOpen (e * 1000000000) (65536 * 256) ∧ u.tk.cnt = s.tk.cnt := by
  obtain ⟨u, effect, lastEdge, ppsValid, phaseErr, cnt, yI⟩ := ppsInEdge_steers accepted unset source error (.inl small)
  exact ⟨u, effect, lastEdge, ppsValid, phaseErr, yI.trans (if_pos small), cnt⟩

/-- A large phase error of an edge steps the time of an idle device in ACQUIRE (R421). -/
theorem ppsInEdge_steps {e : Int} (accepted : s.tk.ppsAccepts stamp high = true) (unset : s.tk.setWait = none) (source : s.tk.src = .pps)
    (error : e = s.tk.ppsError stamp) (large : tickUs < e.natAbs) (acquire : s.tk.state = .acquire) (idle : s.idleForStep = true) :
    ∃ u, exec (.ppsInEdge stamp high) s = .next u ∧ u.tk.phaseErr = e ∧ u.tk.yI = s.tk.yI ∧ u.tk.ppsValid = true ∧
      (0 ≤ (s.now : Int) - e → (u.now : Int) = (s.now : Int) - e) := by
  refine ⟨_, ppsInEdge_accepted accepted unset, ?_⟩
  rw [noticed_tk, noticed_now, source, ← error, if_pos (beq_self_eq_true _), stepTk_tk, stepTk_now, idle,
    loop_steps (k := (edgeNoted stamp s).tk) acquire large]
  exact ⟨rfl, rfl, rfl, now_move (k := (edgeNoted stamp s).tk) rfl⟩

/-- A large phase error of an edge leaves the integral term, and the time too where it does not step (R421). -/
theorem ppsInEdge_large {e : Int} (accepted : s.tk.ppsAccepts stamp high = true) (unset : s.tk.setWait = none) (source : s.tk.src = .pps)
    (error : e = s.tk.ppsError stamp) (large : tickUs < e.natAbs) : ∃ u, exec (.ppsInEdge stamp high) s = .next u ∧
      u.tk.phaseErr = e ∧ u.tk.yI = s.tk.yI ∧ u.tk.ppsValid = true ∧
      (s.tk.state = .acquire → s.idleForStep = true → 0 ≤ (s.now : Int) - e → (u.now : Int) = (s.now : Int) - e) ∧
      ((s.tk.state ≠ .acquire ∨ s.idleForStep = false) → u.tk.cnt = s.tk.cnt) := by
  by_cases steers : s.tk.state ≠ .acquire ∨ s.idleForStep = false
  · obtain ⟨u, effect, -, ppsValid, phaseErr, cnt, yI⟩ := ppsInEdge_steers accepted unset source error (.inr steers)
    refine ⟨u, effect, phaseErr, yI.trans (if_neg (Nat.not_le.2 large)), ppsValid, fun acquire idle => ?_, fun _ => cnt⟩
    simp [acquire, idle] at steers
  · obtain ⟨acquire, idle⟩ : s.tk.state = .acquire ∧ s.idleForStep = true := by simpa using steers
    obtain ⟨u, effect, phaseErr, yI, ppsValid, moved⟩ := ppsInEdge_steps accepted unset source error large acquire idle
    exact ⟨u, effect, phaseErr, yI, ppsValid, fun _ _ => moved, fun stays => absurd stays steers⟩

/-- An accepted edge is noted where the source is another (R418). -/
theorem ppsInEdge_notes (accepted : s.tk.ppsAccepts stamp high = true) (unset : s.tk.setWait = none) (source : s.tk.src ≠ .pps) :
    ∃ u, exec (.ppsInEdge stamp high) s = .next u ∧
      u.tk = { s.tk with lastEdge := some stamp, ppsValid := true, lastPps := s.stampAt stamp } := by
  refine ⟨_, ppsInEdge_accepted accepted unset, ?_⟩
  rw [noticed_tk, if_neg (by simpa using source)]
  rfl

/-- The edge of a TIME_SET that the device has become too busy for. -/
theorem ppsInEdge_busy {target : Nat} (accepted : s.tk.ppsAccepts stamp high = true) (waits : s.tk.setWait = some target)
    (busy : s.idleForStep = false) : ∃ u, exec (.ppsInEdge stamp high) s = .next u ∧ u.tk.cnt = s.tk.cnt ∧ u.tk.setWait = none ∧
      ∀ d ∈ u.teller.deferred, d.wait ≠ .timeSet := by
  have busy : ((edgeNoted stamp s).updTk fun k => { k with setWait := none }).timeBusy = true := congrArg not busy
  refine ⟨_, ppsInEdge_sets accepted waits, ?_⟩
  rw [noticed_tk, noticed_teller, State.setAtEdge]
  dsimp only
  rw [if_pos busy, finish_tk]
  exact ⟨rfl, rfl, finish_timeSet _ _⟩

/-- The edge of a TIME_SET: the time is the one given for the edge and what has passed since (R399, R422). -/
theorem ppsInEdge_setsTime {target : Nat} (accepted : s.tk.ppsAccepts stamp high = true) (waits : s.tk.setWait = some target)
    (idle : s.idleForStep = true) (past : stamp ≤ s.now) : ∃ u, exec (.ppsInEdge stamp high) s = .next u ∧
      u.now = target + (s.now - stamp) ∧ u.tk.ppsOffset = 0 ∧ u.tk.slewLeft = 0 ∧ u.tk.setWait = none ∧ u.tk.state = s.tk.state := by
  have idle : ¬((edgeNoted stamp s).updTk fun k => { k with setWait := none }).timeBusy = true := by
    simpa [State.timeBusy, State.idleForStep, edgeNoted] using idle
  refine ⟨_, ppsInEdge_sets accepted waits, ?_⟩
  rw [noticed_tk, noticed_now, State.setAtEdge]
  dsimp only
  rw [if_neg idle, State.now, finish_tk, stepTk_tk]
  refine ⟨?_, rfl, rfl, rfl, rfl⟩
  rw [State.now] at past ⊢
  refine Int.natCast_inj.1 ((now_move (k := s.tk) (d := (target : Int) - stamp) rfl ?_).trans ?_) <;> omega

end Edge

/-! ### Losses, votes, slews and pulses (R415–R417, R422, R423) -/

section Loss
variable {s : State}

theorem ppsValidExpiry_none (invalid : s.tk.ppsValid = false) : exec .ppsValidExpiry s = .next s := by
  change execPpsValidExpiry s = _
  rw [execPpsValidExpiry, invalid]
  exact settleFlags_idle s

/-- The state with the loss of PPS_IN noted. -/
def edgesLost (s : State) : State := (s.updTk fun k => { k with ppsValid := false }).raise evPps

theorem ppsValidExpiry_loses (valid : s.tk.ppsValid = true) : exec .ppsValidExpiry s =
    .next (noticed s (if s.tk.src == .pps then (edgesLost s).updTk Tk.toHoldover else edgesLost s)) := by
  change execPpsValidExpiry s = _
  rw [execPpsValidExpiry, valid]
  rfl

/-- Losing PPS_IN as the source leads to HOLDOVER (R423). -/
theorem ppsValidExpiry_holdover (valid : s.tk.ppsValid = true) (source : s.tk.src = .pps)
    (steered : s.tk.state = .locked ∨ s.tk.state = .acquire) : ∃ u, exec .ppsValidExpiry s = .next u ∧ u.tk.state = .holdover ∧
      u.tk.ppsValid = false ∧ u.tk.hop = 15 ∧ u.tk.cnt = s.tk.cnt ∧ u.health.events.getLsbD evPps = true := by
  refine ⟨_, ppsValidExpiry_loses valid, ?_⟩
  rw [noticed_tk, noticed_health, source, if_pos (beq_self_eq_true _), updTk_tk, updTk_health]
  obtain ⟨-, hop, cnt, ppsValid, -⟩ := toHoldover_keeps (edgesLost s).tk
  exact ⟨toHoldover_state (k := (edgesLost s).tk) steered, ppsValid, hop, cnt, raise_event _ (by decide)⟩

theorem ppsValidExpiry_notes (valid : s.tk.ppsValid = true) (source : s.tk.src ≠ .pps) : ∃ u, exec .ppsValidExpiry s = .next u ∧
    u.tk = { s.tk with ppsValid := false } ∧ u.health.events.getLsbD evPps = true := by
  refine ⟨_, ppsValidExpiry_loses valid, ?_⟩
  rw [noticed_tk, noticed_health, if_neg (by simpa using source)]
  exact ⟨rfl, raise_event _ (by decide)⟩

/-- Losing TKREF leads to HOLDOVER (R416). -/
theorem tkrefLoss_holdover (present : s.tk.tkref = .mhz10 ∨ s.tk.tkref = .mhz100) (locked : s.tk.state = .locked) :
    ∃ u, exec .tkrefLoss s = .next u ∧ u.tk.state = .holdover ∧ u.tk.tkref = .lost ∧ u.tk.cnt = s.tk.cnt ∧
      u.health.events.getLsbD evTkrefLost = true := by
  have present : (s.tk.tkref == .mhz10 || s.tk.tkref == .mhz100) = true := by simpa using present
  have effect : exec .tkrefLoss s =
      .next (noticed s ((s.updTk fun k => { k.toHoldover with tkref := .lost }).raise evTkrefLost)) := by
    change execTkrefLoss s = _
    rw [execTkrefLoss, if_pos present]
    rfl
  obtain ⟨-, -, cnt, -, -⟩ := toHoldover_keeps s.tk
  refine ⟨_, effect, ?_⟩
  rw [noticed_tk, noticed_health, raise_tk, updTk_tk]
  exact ⟨toHoldover_state (.inl locked), rfl, cnt, raise_event _ (by decide)⟩

theorem tkrefLoss_none (slow : s.tk.tkref ≠ .mhz10) (fast : s.tk.tkref ≠ .mhz100) : exec .tkrefLoss s = .next s := by
  change execTkrefLoss s = _
  rw [execTkrefLoss, if_neg (by simp [slow, fast])]
  exact settleFlags_idle s

/-- Counters with a majority in each field are reloaded by the vote (R415). -/
theorem tkResync_votes {a b c v : Nat} (vote : voteCounters [a, b, c] = some v) : exec (.tkResync [a, b, c]) s = .next { s with
    tk := { s.tk with cnt := [v, v, v], resync := satAdd 16 s.tk.resync ([a, b, c].countP (· != v)) } } := by
  change execTkResync [a, b, c] s = _
  simp only [execTkResync, Tk.resolve, vote]
  exact settleFlags_time rfl rfl

/-- Counters without a majority take the median, and ACQUIRE is entered (R415). -/
theorem tkResync_median {a b c m : Nat} (disagree : voteCounters [a, b, c] = none) (reference : s.tk.tkref ≠ .lost)
    (median : m = median3 a b c) : ∃ u, exec (.tkResync [a, b, c]) s = .next u ∧ u.tk.cnt = [m, m, m] ∧ u.tk.state = .acquire ∧
      u.tk.timeFault = true ∧ u.health.events.getLsbD evTimeFault = true := by
  have effect : exec (.tkResync [a, b, c]) s = .next (noticed s
      ((s.updTk fun k => Tk.toAcquire { k with cnt := [m, m, m], timeFault := true }).raise evTimeFault)) := by
    change execTkResync [a, b, c] s = _
    simp only [execTkResync, Tk.resolve, disagree, reference, median, beq_iff_eq, if_false, if_true]
    rfl
  refine ⟨_, effect, ?_⟩
  rw [noticed_tk, noticed_health, raise_tk, updTk_tk]
  exact ⟨toAcquire_cnt _, rfl, toAcquire_timeFault _, raise_event _ (by decide)⟩

/-- What is left of a slew stands in PPS_OFFSET (R422). -/
theorem slewEnd_offsets (s : State) : ∃ u, exec .slewEnd s = .next u ∧ u.tk.slewLeft = 0 ∧
    u.tk.ppsOffset = s.tk.ppsOffset + s.tk.slewLeft ∧ u = { s with tk := u.tk } :=
  ⟨_, settleFlags_time rfl rfl, rfl, rfl, rfl⟩

theorem ppsOutSecond_rises (s : State) : exec .ppsOutSecond s = .next { s with pins := { s.pins with ppsOut := true } } :=
  settleFlags_time rfl rfl

theorem ppsOutEnd_falls (s : State) : exec .ppsOutEnd s = .next { s with pins := { s.pins with ppsOut := false } } :=
  settleFlags_time rfl rfl

/-- An edge of SYSREF_IN aligns links and is checked against the boundaries of the others (R430). -/
theorem sysrefEdge_aligns {n : Nat} (powered : s.powered = true)
    (off : n = s.links.countP (fun k => k.subclass1 && s.sysrefMisaligned k s.now)) : ∃ u, exec .sysrefEdge s = .next u ∧
      u.tk = { s.tk with sysrefEdges := satAdd 32 s.tk.sysrefEdges 1, sysrefMisalign := satAdd 32 s.tk.sysrefMisalign n } ∧
      u.links = (s.links.map fun k => if k.subclass1 && k.lemc.isNone then { k with lemc := some s.now } else k) ∧
      (0 < n → u.health.events.getLsbD evSysref = true) := by
  refine ⟨_, settleFlags_eq _ _, ?_⟩
  rw [noticed_tk, noticed_links, noticed_health, powered, if_neg (by simp)]
  dsimp only
  rw [← off]
  split
  · exact ⟨rfl, rfl, by omega⟩
  · exact ⟨rfl, rfl, fun _ => raise_event _ (by decide)⟩

theorem sysrefEdge_unpowered (unpowered : s.powered = false) : exec .sysrefEdge s = .next s := by
  change execSysrefEdge s = _
  rw [execSysrefEdge, unpowered]
  exact settleFlags_idle s

end Loss

end Sys2Proof.Proofs
end

section
/-! The second of the Timekeeper: the estimates of its ports, the choice of a source and the loop (R420, R421, R423, R425); and the
statement of its commands, edges and seconds as a whole. -/
namespace Sys2Proof.Proofs
open Sys2Proof.Machine Sys2Proof.Laws

/-! ### Ports at the second (R425) -/

/-- The state whose ports have closed their second. -/
def secondClosed (s : State) : State := { s with ports := s.ports.map fun q => { q with time := q.time.second } }

/-- The state whose ports begin a second without samples. -/
def samplesCleared (s : State) : State :=
  { s with ports := s.ports.map fun q => { q with time := { q.time with thetas := [], deltas := [] } } }

@[simp] theorem samplesCleared_tk (s : State) : (samplesCleared s).tk = s.tk := rfl

theorem port_map (f : Port → Port) (s : State) {n : Nat} (h : n < s.ports.length) :
    ({ s with ports := s.ports.map f } : State).port n = f (s.port n) := by
  simp [State.port, h]

theorem port_secondClosed {s : State} {n : Nat} (h : n < s.ports.length) :
    (secondClosed s).port n = { s.port n with time := (s.port n).time.second } := port_map _ s h

/-- Closing a second changes neither the state of a port nor what its peer shows. -/
theorem secondClosed_keeps (s : State) (n : Nat) : ((secondClosed s).port n).state = (s.port n).state ∧
    ((secondClosed s).port n).candidate = (s.port n).candidate := by
  by_cases h : n < s.ports.length
  · rw [port_secondClosed h]
    exact ⟨rfl, rfl⟩
  · have beyond (t : State) (ht : t.ports.length ≤ n) : t.port n = {} := by simp [State.port, ht]
    rw [beyond s (by omega), beyond (secondClosed s) (by simp [secondClosed]; omega)]
    exact ⟨rfl, rfl⟩

/-- A second of at least 32 values has their median as its estimate (R425). -/
theorem second_estimated {t : PortTime} (enough : 32 ≤ t.thetas.length) : t.second.estimate = some (medianInt t.thetas) ∧
    t.second.lastTheta = medianInt t.thetas ∧ t.second.missed = 0 := by
  simp [PortTime.second, enough]

theorem second_missed {t : PortTime} (few : t.thetas.length < 32) : t.second.estimate = none ∧ t.second.missed = t.missed + 1 := by
  simp [PortTime.second, Nat.not_le.2 few]

/-- A port after the second: its second is closed and its samples are cleared. -/
theorem port_afterSecond {s u : State} {n : Nat} (same : u.ports = (secondClosed s).ports) (h : n < s.ports.length) :
    (noticed s (samplesCleared u)).port n =
      { s.port n with time := { (s.port n).time.second with thetas := [], deltas := [] } } := by
  have present : n < u.ports.length := by rw [same]; simpa [secondClosed] using h
  have closed : u.port n = (secondClosed s).port n := by rw [State.port, same, State.port]
  have cleared : (samplesCleared u).port n = _ := port_map _ u present
  rw [State.port, noticed_ports, ← State.port, cleared, closed, port_secondClosed h]

/-- The peer of an UP port that shows LOCKED is not lost while the port has missed fewer than three seconds (R420). -/
theorem peerLost_secondClosed {s : State} {q : Nat} (present : q < s.ports.length) (up : (s.port q).state = .up)
    (locked : (s.port q).time.peerLocked = true) (heard : (s.port q).time.second.missed < 3) : (secondClosed s).peerLost q = false := by
  have shows : (s.port q).time.second.peerLocked = true := locked
  simp [State.peerLost, port_secondClosed present, up, shows, heard]

/-! ### Choice of a source (R420) -/

section Select
variable {s : State}

theorem selectSource_pps (source : s.tk.src = .pps) : s.selectSource = (s, false) := by
  simp only [State.selectSource, source]
  split
  · rfl
  · split <;> rfl

/-- A peer that is not lost stays the source while there is no PPS. -/
theorem selectSource_keepsPeer {q : Nat} (source : s.tk.src = .peer q) (held : s.peerLost q = false) (invalid : s.tk.ppsValid = false) :
    s.selectSource = (s, false) := by
  simp only [State.selectSource, source, held, Bool.false_eq_true, if_false]
  split
  · rfl
  · simp [invalid]

theorem selectSource_takesPps (source : s.tk.src = .none) (valid : s.tk.ppsValid = true) (reference : s.tk.tkref ≠ .lost) :
    s.selectSource = (s.updTk fun k => (k.toAcquire).takeSource .pps 0, true) := by
  simp [State.selectSource, source, valid, reference]

theorem bestPeer_none (h : ∀ n, n < 64 → (s.port n).candidate = false) : s.bestPeer = none := by
  have empty : (List.range 64).filter (fun n => (s.port n).candidate) = [] := by
    rw [List.filter_eq_nil_iff]
    intro n hn
    rw [h n (List.mem_range.1 hn)]
    decide
  rw [State.bestPeer, empty]
  rfl

/-- A peer that is lost leaves no source where no port is a candidate and there is no PPS. -/
theorem selectSource_losesPeer {q : Nat} (source : s.tk.src = .peer q) (lost : s.peerLost q = true) (invalid : s.tk.ppsValid = false)
    (alone : ∀ n, n < 64 → (s.port n).candidate = false) : s.selectSource = (s.updTk Tk.toHoldover, false) := by
  obtain ⟨src, -, -, ppsValid, -⟩ := toHoldover_keeps s.tk
  have alone : (s.updTk Tk.toHoldover).bestPeer = none := bestPeer_none alone
  simp only [State.selectSource, source, lost, if_true, updTk_tk, src, ppsValid, invalid, alone]
  split <;> rfl

end Select

/-! ### The second (R420, R421, R423) -/

section Second
variable {s t : State}

/-- A second without a peer as the source. -/
theorem disciplineSecond_own {changed : Bool} (chosen : (secondClosed s).selectSource = (t, changed)) (own : ∀ q, t.tk.src ≠ .peer q) :
    exec .disciplineSecond s = .next (noticed s (samplesCleared (t.updTk fun k => k.history none))) := by
  rw [secondClosed] at chosen
  change execDisciplineSecond s = _
  simp only [execDisciplineSecond, chosen]
  cases source : t.tk.src with
  | peer q => exact absurd source (own q)
  | none => rfl
  | pps => rfl

/-- A second with an estimate from the peer that is the source (R421). -/
theorem disciplineSecond_estimated {q : Nat} {e : Int} (chosen : (secondClosed s).selectSource = (t, false)) (source : t.tk.src = .peer q)
    (estimate : (t.port q).time.estimate = some e) : ∃ u link, exec .disciplineSecond s = .next (noticed s (samplesCleared u)) ∧
      u.tk = Tk.history { t.tk.loop t.idleForStep e with hop := (t.port q).time.peerHop + 1 } link ∧ u.ports = t.ports := by
  refine ⟨(t.stepTk fun k => { k.loop t.idleForStep e with hop := (t.port q).time.peerHop + 1 }).updTk fun k =>
    k.history (some (linkTerm ((s.ports.map fun q => q.time.thetas).getD q []))), _, ?_, by rw [updTk_tk, stepTk_tk], stepTk_ports _ _⟩
  rw [secondClosed] at chosen
  change execDisciplineSecond s = _
  simp only [execDisciplineSecond, chosen, source, estimate, Bool.false_eq_true, if_false]
  rfl

/-- A second without an estimate from the peer that is the source (R421). -/
theorem disciplineSecond_missed {q : Nat} (chosen : (secondClosed s).selectSource = (t, false)) (source : t.tk.src = .peer q)
    (missed : (t.port q).time.estimate = none) : ∃ u, exec .disciplineSecond s = .next (noticed s (samplesCleared u)) ∧
      u.tk = { (t.tk.history none).unsteered with lockRun := 0, unlockRun := 0 } ∧ u.ports = t.ports := by
  refine ⟨t.updTk fun k => { (k.history none).unsteered with lockRun := 0, unlockRun := 0 }, ?_, rfl, rfl⟩
  rw [secondClosed] at chosen
  change execDisciplineSecond s = _
  simp only [execDisciplineSecond, chosen, source, missed, Bool.false_eq_true, if_false]
  rfl

theorem disciplineSecond_pps (source : s.tk.src = .pps) : ∃ u, exec .disciplineSecond s = .next u ∧ u.tk = s.tk.history none ∧
    u.handles = s.handles := by
  refine ⟨_, disciplineSecond_own (selectSource_pps source) (fun q peer => nomatch source.symm.trans peer), ?_⟩
  rw [noticed_tk, noticed_handles]
  exact ⟨rfl, rfl⟩

/-- A second with an estimate from the peer steers by it (R421, R424). -/
theorem disciplineSecond_steers {q : Nat} {e : Int} (source : s.tk.src = .peer q) (present : q < s.ports.length)
    (up : (s.port q).state = .up) (locked : (s.port q).time.peerLocked = true) (invalid : s.tk.ppsValid = false)
    (enough : 32 ≤ (s.port q).time.thetas.length) (median : e = medianInt (s.port q).time.thetas) :
    ∃ u, exec .disciplineSecond s = .next u ∧ u.tk.phaseErr = e ∧ u.tk.hop = (s.port q).time.peerHop + 1 ∧ u.tk.src = .peer q ∧
      (u.port q).time.lastTheta = e ∧ (u.port q).time.thetas = [] ∧ (e.natAbs ≤ tickUs →
        u.tk.yI = s.tk.yI - divOpen (e * 1000000000) (65536 * 256) ∧ u.tk.cnt = s.tk.cnt) := by
  obtain ⟨estimate, lastTheta, missed⟩ := second_estimated enough
  rw [← median] at estimate lastTheta
  have held := peerLost_secondClosed present up locked (by rw [missed]; decide)
  have closed := port_secondClosed present
  obtain ⟨u, link, effect, tk, ports⟩ :=
    disciplineSecond_estimated (selectSource_keepsPeer source held invalid) source (by rw [closed, estimate])
  obtain ⟨phaseErr, -, src⟩ := loop_keeps (secondClosed s).tk (secondClosed s).idleForStep e
  refine ⟨_, effect, ?_⟩
  rw [port_afterSecond ports present, noticed_tk, samplesCleared_tk, tk, history_phaseErr, history_hop, history_src, history_yI,
    history_cnt, closed]
  refine ⟨phaseErr, rfl, src.trans source, lastTheta, rfl, fun small => ?_⟩
  obtain ⟨cnt, -, yI⟩ := loop_steers (k := (secondClosed s).tk) (idle := (secondClosed s).idleForStep) (.inl small)
  rw [if_pos small] at yI
  exact ⟨yI, cnt⟩

/-- A second without an estimate holds the proportional term no longer (R421). -/
theorem disciplineSecond_coasts {q : Nat} (source : s.tk.src = .peer q) (present : q < s.ports.length)
    (up : (s.port q).state = .up) (locked : (s.port q).time.peerLocked = true) (invalid : s.tk.ppsValid = false)
    (few : (s.port q).time.thetas.length < 32) (heard : (s.port q).time.missed < 2) :
    ∃ u, exec .disciplineSecond s = .next u ∧ u.tk.src = .peer q ∧ u.tk.yLoop = clampLoop s.tk.yI ∧ u.tk.cnt = s.tk.cnt ∧
      (u.port q).time.missed = (s.port q).time.missed + 1 := by
  obtain ⟨estimate, missed⟩ := second_missed few
  have held := peerLost_secondClosed present up locked (by rw [missed]; omega)
  have closed := port_secondClosed present
  obtain ⟨u, effect, tk, ports⟩ :=
    disciplineSecond_missed (selectSource_keepsPeer source held invalid) source (by rw [closed, estimate])
  refine ⟨_, effect, ?_⟩
  rw [port_afterSecond ports present, noticed_tk, samplesCleared_tk, tk]
  exact ⟨(history_src _ _).trans source, congrArg clampLoop (history_yI _ _), history_cnt _ _, missed⟩

/-- A second takes PPS as its source where there is none (R420). -/
theorem disciplineSecond_takesPps (source : s.tk.src = .none) (valid : s.tk.ppsValid = true) (reference : s.tk.tkref ≠ .lost) :
    ∃ u, exec .disciplineSecond s = .next u ∧ u.tk.src = .pps ∧ u.tk.hop = 0 ∧ u.tk.state = .acquire ∧ u.tk.cnt = s.tk.cnt ∧
      u.tk.yI = s.tk.yI := by
  refine ⟨_, disciplineSecond_own (selectSource_takesPps source valid reference) (fun q => TimeSrc.noConfusion), ?_⟩
  rw [noticed_tk, samplesCleared_tk, updTk_tk, history_src, history_hop, history_state, history_cnt, history_yI, updTk_tk]
  exact ⟨rfl, rfl, rfl, toAcquire_cnt _, toAcquire_yI _⟩

/-- A second whose peer is lost leads to HOLDOVER where there is no other source (R420, R423). -/
theorem disciplineSecond_holdover {q : Nat} (source : s.tk.src = .peer q) (down : (s.port q).state ≠ .up) (invalid : s.tk.ppsValid = false)
    (locked : s.tk.state = .locked) (alone : ∀ n, n < 64 → (s.port n).candidate = false) :
    ∃ u, exec .disciplineSecond s = .next u ∧ u.tk.src = .none ∧ u.tk.hop = 15 ∧ u.tk.state = .holdover ∧ u.tk.cnt = s.tk.cnt := by
  obtain ⟨src, hop, cnt, -, -⟩ := toHoldover_keeps (secondClosed s).tk
  obtain ⟨state, -⟩ := secondClosed_keeps s q
  have lost : (secondClosed s).peerLost q = true := by simp [State.peerLost, state, down]
  have alone : ∀ n, n < 64 → ((secondClosed s).port n).candidate = false := fun n hn => by
    obtain ⟨-, candidate⟩ := secondClosed_keeps s n
    rw [candidate, alone n hn]
  have own : ∀ n, ((secondClosed s).updTk Tk.toHoldover).tk.src ≠ .peer n := fun n peer => nomatch src.symm.trans peer
  refine ⟨_, disciplineSecond_own (selectSource_losesPeer source lost invalid alone) own, ?_⟩
  rw [noticed_tk, samplesCleared_tk, updTk_tk, history_src, history_hop, history_state, history_cnt, updTk_tk]
  exact ⟨src, hop, toHoldover_state (.inl locked), cnt⟩

end Second

/-- Settles O50, a clause at a time: the commands by the outcome of an accepted command and its effect, the edges and the second by what
a phase error does to the loop, the losses by the way into HOLDOVER, and the times by how far the counters move. -/
theorem theTimekeeperKeepsTime : Obligations.TheTimekeeperKeepsTime := by
  intro s
  refine ⟨fun src p t h target => ⟨timeSet_atCommit h target, timeSet_waits h target⟩, fun t => timeSetTimeout_ends,
    fun src p v h amount => ⟨timeAdjust_slews h amount, timeAdjust_steps h amount, timeAdjust_offsets h amount⟩, timeSetTimeout_idle,
    fun src wr p w h words => ?_, fun stamp high => ppsInEdge_rejected, fun stamp high e => ppsInEdge_small,
    fun stamp high => ppsInEdge_notes, fun stamp high e => ppsInEdge_large, fun stamp high target => ppsInEdge_busy,
    fun stamp high target => ppsInEdge_setsTime, ppsValidExpiry_holdover, ppsValidExpiry_none, ppsValidExpiry_notes,
    disciplineSecond_pps, fun q p e source present port => ?_, fun q p source present port => ?_, disciplineSecond_takesPps,
    fun q => disciplineSecond_holdover, tkrefLoss_holdover, tkrefLoss_none, fun a b c v => tkResync_votes,
    fun a b c m => tkResync_median, slewEnd_offsets s, ppsOutSecond_rises s, ppsOutEnd_falls s, fun n => sysrefEdge_aligns,
    sysrefEdge_unpowered⟩
  · subst words
    refine ⟨?_, ?_, ?_, ?_, ?_⟩
    · rintro rfl nowhere
      exact timeStatus_words h Source.noConfusion nowhere
    · rintro rfl named rfl
      exact ⟨_, timeStatus_ring h named, rfl⟩
    · rintro rfl named rfl
      exact timeStatus_failed h named
    · rintro rfl
      exact timeStatus_spi h
    · rintro q rfl
      exact timeStatus_words h Source.noConfusion (timeStatus_unnamed h)
  · subst port
    exact disciplineSecond_steers source present
  · subst port
    exact disciplineSecond_coasts source present

end Sys2Proof.Proofs
end

section
/-! How a granted request that waits at a channel's port can take the run of the channel's kernel before a time-out ends it (R474, R488). -/
namespace Sys2Proof.Proofs
open Sys2Proof.Machine Sys2Proof.Laws

/-- The handle that two live entries carry below: no hypothesis of the statement keeps handles apart (`Handles.Fit` would). -/
def sharedHandle : Handle := mkHandle 5 1 0

/-- A kernel that holds DMA channel 63. -/
def channelKernel : Kernel := { vx := false, clerks := [], channels := [63], regions := [], windows := [], entry := 0 }

/-- A capture whose blocks lie on Reserve channel 0. -/
def reserveCapture : Capture :=
  { format := 2, keep := false, rawshift := 0, stream := 0, units := 1, preMax := 0, postMax := 0, firstGroup := 0, ngroups := 1
    firstBlock := 0, nblocks := 1, tags := [], chans := [0], stripes := [(0, 1)], retentionMs := 0, rateMb := 0 }

/-- A chained channel of the kernel that moves a descriptor at the start of host memory. -/
def ownedChannel : DmaCh :=
  { st := .running, owner := some sharedHandle, chain := true, loaded := true, curDesc := BitVec.ofNat 64 (2 ^ 63) }

/-- A read of the first burst of the Reserve that waits at the port of host memory. -/
def strayRead : MxRequest := { port := 21, m := .teller, write := false, addr := 2 ^ 40, len := 64, since := 0 }

/-- Channel 63 belongs to a running kernel, whose handle a capture carries too. The Reserve channel of the capture is one uncorrectable
burst short of its fault (R316), and the read that waits ahead of the channel's DONE meets that burst. -/
def contested : State :=
  { State.reset with
    ledger := { usable := { dma := [false, false, false, true] } }
    handles := { live := [{ h := sharedHandle, st := .running, obj := .kernel channelKernel },
      { h := sharedHandle, st := .created, obj := .capture reserveCapture }] }
    dma := List.replicate 63 {} ++ [ownedChannel]
    reserve := { ch := [{ state := 1, ranks := 1, capacity := 2 ^ 36, uncorrTimes := List.replicate 63 0 }], bad := [(0, [0, 1], false)] }
    matrix := { waiting := [strayRead] } }

/-- A time-out of a channel that moves a descriptor halts it (R474, R488). -/
theorem matrixTimeout_halts {ch e i : Nat} {addr : BitVec 64} {wr : Bool} {s : State} (here : ch = e * 16 + i % 16)
    (present : s.dmaExists ch = true) (moves : (s.dmaCh ch).st = .running) :
    exec (.matrixTimeout (.dma e) i addr wr) s = .next (noticed s (s.dmaHalt ch causeTimeout wr addr.toNat)) := by
  have row : exec (.matrixTimeout (.dma e) i addr wr) s = execMatrixTimeout (.dma e) i addr wr s := rfl
  simp only [row, execMatrixTimeout, ← here, present, moves, beq_self_eq_true, Bool.true_or, Bool.and_self, if_true]
  exact settleFlags_eq s _

/-- The kernel runs when the time-out comes. -/
theorem contested_runs :
    contested.kernel? sharedHandle = some channelKernel ∧ contested.hstate sharedHandle = .running := by
  decide +kernel

/-- Before the DONE of the halt is written the waiting read is granted: its burst faults the Reserve channel, and with it the handle of
the capture, so that no run is left to end. -/
theorem contested_faults : (contested.dmaHalt 63 causeTimeout false 0).hstate sharedHandle = .faulted := by
  decide +kernel

/-- Refutes O48 in its clause about time-outs: one that halts a channel need not end the run of the kernel that owns it. In `contested` the
write of DONE grants a read that waits ahead of it, whose uncorrectable burst faults the handle of a capture (R316), and the kernel carries
that handle: it is FAULTED, where the clause has it STOPPED with the exit code of a DMA halt. Nothing in the statement bars such a state, in
which two live entries share a handle and a request waits at another port than its address's. -/
theorem not_dmaChannelsMove : ¬ Obligations.DmaChannelsMove := by
  intro moves
  obtain ⟨-, acts⟩ := moves contested 63 ownedChannel (by decide) rfl
  have present : contested.dmaExists 63 = true := by decide
  obtain ⟨-, -, -, -, -, -, -, -, -, -, -, -, -, -, -, -, timesOut⟩ := acts present
  obtain ⟨halts, -⟩ := timesOut 3 15 0 false rfl
  obtain ⟨t, outcome, -, -, -, -, ends⟩ := halts (.inl rfl)
  obtain ⟨kernel, running⟩ := contested_runs
  obtain ⟨stopped, -⟩ := ends sharedHandle channelKernel rfl kernel running
  rw [matrixTimeout_halts rfl present rfl] at outcome
  obtain rfl := Host.Outcome.next.inj outcome
  rw [hstate_congr (noticed_handles _ _)] at stopped
  exact absurd (contested_faults.symm.trans stopped) (by decide)

end Sys2Proof.Proofs
end

section
/-! SUPPORT. What never touches the DMA channels, and how a channel halts (R488): the memories behind the bus matrix, the replies and
the end of a run leave the channels as they are. -/
namespace Sys2Proof.Proofs
open Sys2Proof.Machine Sys2Proof.Laws

/-! ### Records and replies -/

@[simp] theorem logMerge_dma (kind cls unit : Nat) (detail : List Byte) (key : List Nat) (s : State) :
    (s.logMerge kind cls unit detail key).dma = s.dma := by
  unfold State.logMerge
  dsimp only
  split <;> rfl

@[simp] theorem memEvent_dma (cls unit memory off : Nat) (h : Handle) (uncorr planted : Bool) (s : State) :
    (s.memEvent cls unit memory off h uncorr planted).dma = s.dma := by
  unfold State.memEvent
  dsimp only [State.takeFree]
  split
  · rfl
  · exact logMerge_dma _ _ _ _ _ _

theorem deferred_post_dma (d : Deferred) (r : Res) (s : State) : (d.post r s).dma = s.dma := by
  unfold Deferred.post
  dsimp only
  rw [post_frame]

theorem flushFences_dma (n : Nat) (s : State) : (flushFences n s).dma = s.dma := by
  induction n generalizing s with
  | zero => rfl
  | succ n ih =>
    unfold flushFences
    split
    · split
      · rw [ih, deferred_post_dma, updTeller_dma]
      · rfl
    · rfl

@[simp] theorem finish_dma (p : Deferred → Bool) (r : Res) (s : State) : (s.finish p r).dma = s.dma := by
  rw [State.finish, flushFences_dma, foldl_keeps State.dma _ fun s d => deferred_post_dma d r s, updTeller_dma]

/-! ### Runs and faults -/

@[simp] theorem haltEngines_dma (h : Handle) (s : State) : (s.haltEngines h).dma = s.dma := by
  unfold State.haltEngines
  dsimp only
  split
  · split <;> rfl
  · rfl

@[simp] theorem faultHandle_dma (h : Handle) (s : State) : (s.faultHandle h).dma = s.dma := by
  unfold State.faultHandle
  split
  · rfl
  · rw [finish_dma, State.updCapture, updEntry_dma, setState_dma, haltEngines_dma]

@[simp] theorem cutWaits_dma (l : List Nat) (s : State) : (s.cutWaits l).dma = s.dma :=
  foldl_keeps State.dma _ (fun s n => by split <;> rfl) l s

@[simp] theorem finishRun_dma (h : Handle) (s : State) : (s.finishRun h).dma = s.dma := by
  unfold State.finishRun
  split
  · rfl
  · split
    · rfl
    · simp

/-! ### The Vault -/

@[simp] theorem decode_dma (x : VWord) (s : State) : (s.decode x).2.dma = s.dma := by
  unfold State.decode
  dsimp only
  split <;> rfl

@[simp] theorem noteCorrected_dma (w cls src : Nat) (x : VWord) (s : State) : (s.noteCorrected w cls src x).dma = s.dma :=
  logMerge_dma _ _ _ _ _ _

@[simp] theorem readWord_dma (src w : Nat) (s : State) : (s.readWord src w).2.2.dma = s.dma := by
  unfold State.readWord State.readHeld
  have kept := decode_dma (s.vword w) s
  generalize s.decode (s.vword w) = d at kept
  obtain ⟨r, t⟩ := d
  dsimp only at kept ⊢
  split
  · exact kept
  · split
    · exact (noteCorrected_dma ..).trans kept
    · split <;> exact kept

@[simp] theorem readVaultBytes_dma (a len : Nat) (s : State) : (s.readVaultBytes a len).2.2.dma = s.dma :=
  foldl_keeps (fun r : List Byte × Bool × State => r.2.2.dma) _ (fun r _ => readWord_dma _ _ r.2.2) _ _

@[simp] theorem writeVaultWords_dma (a : Nat) (l : List (List Byte × List Bool)) (s : State) :
    (s.writeVaultWords a l).2.dma = s.dma := by
  induction l generalizing a s with
  | nil => rfl
  | cons e t ih =>
    obtain ⟨d, st⟩ := e
    refine (ih ..).trans ?_
    split <;> rfl

/-! ### The memories of the clerks and of the vector engine -/

theorem eccClass_dma (flips : List Nat) (s : State) : (eccClass flips s).2.dma = s.dma := by
  unfold eccClass
  split <;> rfl

theorem readClerkByte_dma (n a : Nat) (s : State) : (s.readClerkByte n a).2.2.dma = s.dma := by
  unfold State.readClerkByte EccCell.read
  dsimp only
  have kept := eccClass_dma (Memory.get {} (s.clerk n).mem a).flips s
  generalize eccClass _ s = d at kept
  obtain ⟨c, t⟩ := d
  dsimp only at kept ⊢
  split
  · exact kept
  · split
    · simpa using kept
    · simpa using kept

@[simp] theorem readClerk_dma (n a len : Nat) (s : State) : (s.readClerk n a len).2.2.dma = s.dma := by
  induction len generalizing a s with
  | zero => rfl
  | succ len ih => exact (ih ..).trans (readClerkByte_dma n a s)

theorem readVxWord_dma (w : Nat) (s : State) : (s.readVxWord w).2.2.dma = s.dma := by
  unfold State.readVxWord EccCell.read
  dsimp only
  have kept := eccClass_dma (Memory.get {} s.vx.data w).flips s
  generalize eccClass _ s = d at kept
  obtain ⟨c, t⟩ := d
  dsimp only at kept ⊢
  split
  · exact kept
  · split
    · simpa using kept
    · simpa using kept

theorem readVx_dma (w len : Nat) (s : State) : (s.readVx w len).2.2.dma = s.dma := by
  induction len generalizing w s with
  | zero => rfl
  | succ len ih => exact (ih ..).trans (readVxWord_dma w s)

@[simp] theorem readVxBytes_dma (a len : Nat) (s : State) : (s.readVxBytes a len).2.2.dma = s.dma := readVx_dma _ _ s

/-! ### The Reserve -/

theorem channelFault_dma (c : Nat) (s : State) : (s.channelFault c).dma = s.dma := by
  unfold State.channelFault
  split
  · rfl
  · dsimp only
    rw [raise_dma, foldl_keeps State.dma _ fun s h => faultHandle_dma h s]
    split
    · unfold State.setUsable
      split <;> rfl
    · rfl

theorem noteResUncorr_dma (c q u src : Nat) (s : State) : (s.noteResUncorr c q u src).dma = s.dma := by
  unfold State.noteResUncorr
  dsimp only
  split
  · exact channelFault_dma _ _
  · rfl

theorem noteResCorr_dma (c q u device src : Nat) (s : State) : (s.noteResCorr c q u device src).dma = s.dma :=
  logMerge_dma _ _ _ _ _ _

theorem activateRow_dma (c : Nat) (p : DimmPos) (n row : Nat) (s : State) : (s.activateRow c p n row).dma = s.dma := by
  induction n generalizing row s with
  | zero => rfl
  | succ n ih =>
    unfold State.activateRow
    dsimp only
    split
    · split
      · rfl
      · exact foldl_keeps State.dma _ (fun s r => ih r s) _ _
    · rfl

@[simp] theorem activate_dma (c : Nat) (p : DimmPos) (s : State) : (s.activate c p).dma = s.dma := activateRow_dma _ _ _ _ _

theorem activateBlock_dma (c q : Nat) (s : State) : (s.activateBlock c q).dma = s.dma :=
  foldl_keeps State.dma _ (fun s _ => activate_dma _ _ s) _ _

theorem payAll_dma (c : Nat) (s : State) : (s.payAll c).dma = s.dma := by
  unfold State.payAll
  dsimp only
  rw [updCh_dma]
  refine foldl_keeps State.dma _ (fun s r => ?_) _ _
  exact foldl_keeps State.dma _ (fun s _ => emit_dma s _) _ _

theorem payDebt_dma (c : Nat) (s : State) : (s.payDebt c).dma = s.dma := by
  unfold State.payDebt
  split
  · exact payAll_dma c s
  · rfl

theorem writeIndex_dma (h : Handle) (pos : Nat) (s : State) : (s.writeIndex h pos).dma = s.dma := by
  unfold State.writeIndex
  split
  · rfl
  · split
    · rfl
    · dsimp only
      split
      · rw [updRes_dma, activate_dma]
      · rfl

theorem writeBursts_dma (c : Nat) (b : TillBlock) (s : State) : (s.writeBursts c b).dma = s.dma := by
  unfold State.writeBursts
  dsimp only [State.takeFree]
  repeat' split
  all_goals simp

theorem tillWrite_dma (c : Nat) (s : State) : (s.tillWrite c).dma = s.dma := by
  unfold State.tillWrite
  split
  · rfl
  · dsimp only
    rw [payDebt_dma, writeIndex_dma, State.updCapture, updEntry_dma, activateBlock_dma, writeBursts_dma, updCh_dma]

theorem inOrder_dma (c q u : Nat) (s : State) : (s.inOrder c q u).dma = s.dma := by
  unfold State.inOrder
  dsimp only
  rw [foldl_keeps State.dma _ fun s _ => tillWrite_dma c s]
  split <;> rfl

theorem markerAt_dma (c q : Nat) (s : State) : (s.markerAt c q).2.dma = s.dma := by
  unfold State.markerAt
  split <;> rfl

theorem readBurst_dma (src c q u : Nat) (s : State) : (s.readBurst src c q u).2.2.dma = s.dma := by
  have reached : ((s.inOrder c q u).activate c (dimmPos (s.ch c).ranks q u)).dma = s.dma := by
    rw [activate_dma, inOrder_dma]
  unfold State.readBurst
  dsimp only
  generalize State.activate _ _ _ = t at reached ⊢
  rw [← reached]
  split
  · rfl
  · exact noteResCorr_dma _ _ _ _ _ t
  · exact (noteResUncorr_dma _ _ _ _ _).trans (markerAt_dma c q t)

@[simp] theorem readReserve_dma (src a len : Nat) (s : State) : (s.readReserve src a len).2.2.dma = s.dma := by
  unfold State.readReserve
  refine foldl_keeps (fun r : List Byte × Bool × State => r.2.2.dma) _ (fun r i => ?_) _ _
  dsimp only
  generalize r.2.2.resLocate _ = place
  obtain ⟨c, q, u⟩ := place
  have kept := readBurst_dma src c q u r.2.2
  generalize State.readBurst src c q u r.2.2 = b at kept
  exact kept

/-! ### The bus matrix -/

@[simp] theorem freeBytes_dma (n : Nat) (s : State) : (s.freeBytes n).2.dma = s.dma := by
  induction n generalizing s with
  | zero => rfl
  | succ n ih => exact ih _

theorem readBeat_dma (m : Master) (a len : Nat) (host : ReadResult) (s : State) : (s.readBeat m a len host).2.2.dma = s.dma := by
  unfold State.readBeat
  dsimp only
  repeat' split
  all_goals simp

theorem hostBytes_dma (o : Nat) (d : List Byte) (st : List Bool) (s : State) : (s.hostBytes o d st).dma = s.dma := by
  unfold State.hostBytes
  split
  · rfl
  · exact foldl_keeps State.dma _ (fun s i => by split <;> rfl) _ _

theorem writeBeat_dma (m : Master) (a : Nat) (d : List Byte) (st : List Bool) (accepts : Bool) (s : State) :
    (s.writeBeat m a d st accepts).2.dma = s.dma := by
  unfold State.writeBeat
  dsimp only
  split
  · rfl
  · split
    · rfl
    · split
      · exact writeVaultWords_dma _ _ s
      · exact foldl_keeps State.dma _ (fun s i => by split <;> rfl) _ _
      · split
        · rfl
        · exact foldl_keeps State.dma _ (fun s e => by split <;> rfl) _ _
      · split
        · exact hostBytes_dma _ _ _ s
        · rfl
      · rfl

theorem readPiece_dma (m : Master) (a len : Nat) (host : ReadResult) (s : State) : (s.readPiece m a len host).2.dma = s.dma :=
  foldl_keeps (fun r : List (Nat × List Byte) × State => r.2.dma) _ (fun r _ => readBeat_dma _ _ _ _ r.2) _ _

theorem writePiece_dma (m : Master) (a : Nat) (d : List Byte) (st : List Bool) (accepts : Bool) (s : State) :
    (s.writePiece m a d st accepts).2.dma = s.dma :=
  foldl_keeps (fun r : List Nat × State => r.2.dma) _ (fun r _ => writeBeat_dma _ _ _ _ _ r.2) _ _

/-- A granted request moves bytes and answers; no channel moves by it. -/
theorem grantRequest_dma (r : MxRequest) (s : State) : (s.grantRequest r).dma = s.dma := by
  unfold State.grantRequest
  dsimp only
  split
  · rw [foldl_keeps State.dma _ fun s e => emit_dma s _]
    exact writePiece_dma _ _ _ _ _ _
  · rw [foldl_keeps State.dma _ fun s e => emit_dma s _]
    exact readPiece_dma _ _ _ _ _

theorem grantAhead_dma (own : MxRequest) (n : Nat) (s : State) : (s.grantAhead own n).dma = s.dma := by
  induction n generalizing s with
  | zero => rfl
  | succ n ih =>
    unfold State.grantAhead
    split
    · split
      · rfl
      · rw [ih, grantRequest_dma]
    · rfl

@[simp] theorem granted_dma (m : Master) (write : Bool) (a n : Nat) (s : State) : (s.granted m write a n).dma = s.dma :=
  grantAhead_dma _ _ s

@[simp] theorem writeDone_dma (ch v : Nat) (accepts : Bool) (s : State) : (s.writeDone ch v accepts).2.dma = s.dma := by
  rw [State.writeDone, writeBeat_dma, granted_dma]

/-! ### A channel halts (R488) -/

@[simp] theorem dmaVector_dma (ch : Nat) (s : State) : (s.dmaVector ch).dma = s.dma := by
  unfold State.dmaVector
  split
  · split
    · exact sendVector_dma s _
    · rfl
  · rfl

/-- A channel that halts with its cause, direction and address. -/
def haltedCh (cause : Nat) (write : Bool) (addr : Nat) (c : DmaCh) : DmaCh :=
  { c with
    st := .halted, errCause := cause, errDir := write, errAddr := BitVec.ofNat 64 addr, shadowValid := false, loaded := false }

/-- A halt changes its own channel only, whatever its DONE, its interrupt and the end of its kernel's run do elsewhere. -/
theorem dmaHalt_dma (ch cause : Nat) (write : Bool) (addr : Nat) (s : State) :
    (s.dmaHalt ch cause write addr).dma = s.dma.modify ch (haltedCh cause write addr) := by
  rw [← updDma_dma]
  unfold State.dmaHalt haltedCh
  generalize State.updDma ch _ s = u
  dsimp only
  repeat' split
  all_goals simp [State.updKernel]

theorem dmaCh_dmaHalt {ch : Nat} (cause : Nat) (write : Bool) (addr : Nat) {s : State} (h : ch < s.dma.length) :
    (s.dmaHalt ch cause write addr).dmaCh ch = haltedCh cause write addr (s.dmaCh ch) := by
  simp [State.dmaCh, dmaHalt_dma, h]

end Sys2Proof.Proofs
end

section
/-! SUPPORT. The outcome of what acts on the host's and the management port (R42, R449): changes within the ports, their queues and the
matrix raise no event. -/
namespace Sys2Proof.Proofs
open Sys2Proof.Machine Sys2Proof.Laws

/-- A change that moves no flag and nothing of the Ledger is an outcome as it is. -/
theorem settleFlags_still {s u : State} (flags : u.eventFlags = s.eventFlags) (ledger : u.ledger = s.ledger) (fuse : u.fuse = s.fuse)
    (pending : u.pending = s.pending) : settleFlags s u = .next u := by
  rw [settleFlags, settle, noticeFlags_same s u flags, settled_same s u (by rw [ledger]), ← fuse, ← pending]

/-- A change within the ports of the device, the queues of the Teller, the DMA channels and the matrix raises no event. -/
theorem settleFlags_ports {s u : State}
    (within : u = { s with
      ring := u.ring, host := u.host, spi := u.spi, teller := u.teller, pins := u.pins, dma := u.dma, matrix := u.matrix, out := u.out
      freeCtr := u.freeCtr })
    (channels : u.teller.channels = s.teller.channels) (safe : u.teller.safe = s.teller.safe) : settleFlags s u = .next u := by
  have flags : u.eventFlags = s.eventFlags := by
    refine eventFlags_congr s u ?_ ?_ channels safe ?_ ?_ ?_ <;> rw [within]
  refine settleFlags_still flags ?_ ?_ ?_ <;> rw [within]

@[simp] theorem noticed_dma (s u : State) : (noticed s u).dma = u.dma := by simp [noticed]

end Sys2Proof.Proofs
end

section
/-! The host's link, its resets and its power states (R333, R497, R498). -/
namespace Sys2Proof.Proofs
open Sys2Proof.Machine Sys2Proof.Laws

section Link
variable (s : State)

/-- R333: the ring stops, and no command under way can reply. -/
theorem ringLost_gives_up :
    s.ringLost.ring = { s.ring with enable := false } ∧ (∀ c ∈ s.ringLost.teller.ringQ, c.lost = true) ∧
      (∀ d ∈ s.ringLost.teller.deferred, d.src = .ring → d.lost = true) ∧
      s.ringLost = { s with ring := s.ringLost.ring, teller := s.ringLost.teller } ∧
      s.ringLost.teller.commits = s.teller.commits := by
  refine ⟨rfl, fun c hc => ?_, fun d hd ring => ?_, rfl, rfl⟩
  · obtain ⟨b, -, rfl⟩ := List.mem_map.1 hc
    rfl
  · obtain ⟨e, -, rfl⟩ := List.mem_map.1 hd
    by_cases he : e.src = .ring
    · simp [he]
    · simp [he] at ring

theorem pcieLinkDown_outcome : exec .pcieLinkDown s = .next { s.ringLost with
    host := { s.host with linkUp := false, linkWidth := 0, linkSpeed := 0, half := none }
    matrix := { s.matrix with waiting := s.matrix.waiting.filter fun r => r.m != .hostPort } } :=
  settleFlags_ports rfl rfl rfl

theorem busMasterClear_outcome : exec .busMasterClear s = .next s.ringLost := settleFlags_ports rfl rfl rfl

theorem perstAssert_outcome : exec .perstAssert s = .next { s.ringLost with
    host := {}, pins := { s.pins with perstN := false }
    matrix := { s.matrix with waiting := s.matrix.waiting.filter fun r => r.m != .hostPort } } :=
  settleFlags_ports rfl rfl rfl

theorem perstDeassert_outcome : exec .perstDeassert s = .next { s with pins := { s.pins with perstN := true } } :=
  settleFlags_ports rfl rfl rfl

theorem d3hotEntry_outcome : exec .d3hotEntry s = .next { s.ringLost with host := { s.host with d3hot := true } } :=
  settleFlags_ports rfl rfl rfl

theorem d3hotExit_outcome : exec .d3hotExit s = .next { s with host := { s.host with d3hot := false } } :=
  settleFlags_ports rfl rfl rfl

variable {s}

/-- R497: a link of a width and speed of the port trains. -/
theorem pcieLinkUp_trains {w v : Nat} (powered : s.powered = true) (ready : s.portReady = true) (width : w = 1 ∨ w = 2 ∨ w = 4 ∨ w = 8)
    (slow : 1 ≤ v) (fast : v ≤ 4) : exec (.pcieLinkUp w v) s =
      .next { s with host := { s.host with ready := true, linkUp := true, linkWidth := w, linkSpeed := v } } := by
  have row : exec (.pcieLinkUp w v) s = execPcieLinkUp w v s := rfl
  have allowed : [1, 2, 4, 8].contains w = true := by simpa using width
  rw [row, execPcieLinkUp, powered, ready, allowed, decide_eq_true slow, decide_eq_true fast]
  exact settleFlags_ports rfl rfl rfl

theorem pcieLinkUp_held (w v : Nat) (held : (s.powered && s.portReady) = false) : exec (.pcieLinkUp w v) s = .next s := by
  have row : exec (.pcieLinkUp w v) s = execPcieLinkUp w v s := rfl
  rw [row, execPcieLinkUp, held]
  exact settleFlags_idle s

/-- A host that does not reach the device resets nothing. -/
theorem functionLevelReset_unreached (unreached : s.hostReaches = false) : exec .functionLevelReset s = .next s := by
  have row : exec .functionLevelReset s = execFunctionLevelReset s := rfl
  rw [row, execFunctionLevelReset, unreached]
  exact settleFlags_idle s

/-- An update that leaves a channel at reset as it is acts alike on channels that are and are not there. -/
theorem dmaCh_updDma {f : DmaCh → DmaCh} (fixes : f {} = {}) (i n : Nat) (t : State) :
    (t.updDma i f).dmaCh n = if n = i then f (t.dmaCh n) else t.dmaCh n := by
  rw [State.dmaCh, updDma_dma, State.dmaCh, List.getD_eq_getElem?_getD, List.getElem?_modify, List.getD_eq_getElem?_getD]
  cases t.dma[n]? with
  | none =>
    change ({} : DmaCh) = if n = i then f {} else {}
    rw [fixes, ite_self]
  | some c =>
    change (if i = n then f c else c) = if n = i then f c else c
    by_cases here : n = i
    · rw [if_pos here, if_pos here.symm]
    · rw [if_neg here, if_neg (Ne.symm here)]

/-- Host channels 0 to n − 1 back at their reset values (R477, R498). -/
def clearChannels (n : Nat) (t : State) : State := (List.range n).foldl (fun t h => t.updDma (56 + h) DmaCh.cleared) t

theorem clearChannels_succ (n : Nat) (t : State) : clearChannels (n + 1) t = (clearChannels n t).updDma (56 + n) DmaCh.cleared := by
  rw [clearChannels, List.range_succ, List.foldl_append]
  rfl

theorem clearChannels_frame (n : Nat) (t : State) : clearChannels n t = { t with dma := (clearChannels n t).dma } := by
  induction n with
  | zero => rfl
  | succ n ih => rw [clearChannels_succ, State.updDma, ih]

theorem dmaCh_clearChannels (n i : Nat) (t : State) :
    (clearChannels n t).dmaCh i = if 56 ≤ i ∧ i < 56 + n then (t.dmaCh i).cleared else t.dmaCh i := by
  induction n with
  | zero => rw [if_neg (by omega), clearChannels]; rfl
  | succ n ih =>
    rw [clearChannels_succ, dmaCh_updDma rfl, ih]
    by_cases last : i = 56 + n
    · rw [if_pos last, if_neg (by omega), if_pos (by omega)]
    · have same : (56 ≤ i ∧ i < 56 + (n + 1)) ↔ (56 ≤ i ∧ i < 56 + n) := by omega
      rw [if_neg last]
      simp only [same]

/-- The device after a function reset, its channels apart. -/
def functionReset (s : State) : State :=
  { s.ringLost with host := { s.host with bar2Sel := 0, msix := List.replicate 64 {}, half := none } }

/-- R498: a function reset stops the ring, and restores the port's registers and the channels of the host. -/
theorem functionLevelReset_restores (reached : s.hostReaches = true) : ∃ t, exec .functionLevelReset s = .next t ∧
    t = { s.ringLost with host := { s.host with bar2Sel := 0, msix := List.replicate 64 {}, half := none }, dma := t.dma } ∧
    (∀ h, h < 8 → t.dmaCh (56 + h) = { owner := (s.dmaCh (56 + h)).owner }) ∧ ∀ n, n < 56 → t.dmaCh n = s.dmaCh n := by
  have row : exec .functionLevelReset s = execFunctionLevelReset s := rfl
  have frame := clearChannels_frame 8 (functionReset s)
  refine ⟨clearChannels 8 (functionReset s), ?_, frame, fun h hh => ?_, fun n hn => ?_⟩
  · rw [row, execFunctionLevelReset, reached, if_pos rfl]
    change settleFlags s (clearChannels 8 (functionReset s)) = _
    rw [frame]
    exact settleFlags_ports rfl rfl rfl
  · rw [dmaCh_clearChannels, if_pos (by omega)]
    rfl
  · rw [dmaCh_clearChannels, if_neg (by omega)]
    rfl

end Link

end Sys2Proof.Proofs
end

section
/-! Vectors and failed completions (R332, R450, R474, R488, R499, R501). -/
namespace Sys2Proof.Proofs
open Sys2Proof.Machine Sys2Proof.Laws

/-! ### Vectors -/

section Vectors
variable {s : State}

theorem sendVector_unmasked {v : Nat} (up : s.host.linkUp = true) (clear : (s.host.msix.getD v {}).masked = false) :
    s.sendVector v = s.emit (.msix v) := by
  rw [State.sendVector, up, clear]
  rfl

/-- A vector without entry holds nothing back. -/
theorem lt_length_of_pending {l : List Msix} {v : Nat} (h : (l.getD v {}).pending = true) : v < l.length := by
  refine Nat.lt_of_not_le fun beyond => ?_
  rw [List.getD_eq_getElem?_getD, List.getElem?_eq_none beyond] at h
  exact absurd h (by decide)

theorem msixUnmask_unreached (v : Nat) (unreached : s.hostReaches = false) : exec (.msixUnmask v) s = .next s := by
  have row : exec (.msixUnmask v) s = execMsixUnmask v s := rfl
  rw [row, execMsixUnmask, unreached]
  exact settleFlags_idle s

theorem linkUp_of_hostReaches (reached : s.hostReaches = true) : s.host.linkUp = true := by
  simp only [State.hostReaches, Bool.and_eq_true] at reached
  obtain ⟨⟨-, up⟩, -⟩ := reached
  exact up

/-- R501: what a masked vector held back goes out when it is unmasked. -/
theorem msixUnmask_sends {v : Nat} (reached : s.hostReaches = true) (masked : (s.host.msix.getD v {}).masked = true)
    (pending : (s.host.msix.getD v {}).pending = true) : exec (.msixUnmask v) s = .next { s with
      host := { s.host with msix := s.host.msix.modify v fun e => { e with masked := false, pending := false } }
      out := s.out ++ [.msix v] } := by
  have row : exec (.msixUnmask v) s = execMsixUnmask v s := rfl
  have present := lt_length_of_pending pending
  have up := linkUp_of_hostReaches reached
  rw [row, execMsixUnmask, reached, if_pos rfl, State.unmask, masked, pending]
  rw [Bool.and_self, if_pos rfl, sendVector_unmasked]
  · exact settleFlags_ports rfl rfl rfl
  · exact up
  · simp [present]

theorem msixUnmask_quiet {v : Nat} (reached : s.hostReaches = true)
    (quiet : (s.host.msix.getD v {}).pending = false ∨ (s.host.msix.getD v {}).masked = false) : exec (.msixUnmask v) s = .next { s with
      host := { s.host with msix := s.host.msix.modify v fun e => { e with masked := false, pending := false } } } := by
  have row : exec (.msixUnmask v) s = execMsixUnmask v s := rfl
  have none : ((s.host.msix.getD v {}).masked && (s.host.msix.getD v {}).pending) = false :=
    Bool.and_eq_false_iff.2 quiet.symm
  rw [row, execMsixUnmask, reached, if_pos rfl, State.unmask, none]
  exact settleFlags_ports rfl rfl rfl

/-- R332: the hold-off of vector 0 ends. -/
theorem msixHoldoffEnd_zero (s : State) : exec (.msixHoldoffEnd 0) s = settleFlags s
    (if s.host.v0Owed then ({ s with host := { s.host with v0Hold := false, v0Owed := false } }).sendVector0
      else { s with host := { s.host with v0Hold := false, v0Owed := false } }) := rfl

/-- R450: the hold-off of vector 2 ends. -/
theorem msixHoldoffEnd_two (s : State) : exec (.msixHoldoffEnd 2) s = settleFlags s
    (if s.host.v2Owed then ({ s with host := { s.host with v2Hold := false, v2Owed := false } }).sendVector2
      else { s with host := { s.host with v2Hold := false, v2Owed := false } }) := rfl

theorem msixHoldoffEnd_zero_free (free : s.host.v0Owed = false) :
    exec (.msixHoldoffEnd 0) s = .next { s with host := { s.host with v0Hold := false, v0Owed := false } } := by
  rw [msixHoldoffEnd_zero, free]
  exact settleFlags_ports rfl rfl rfl

theorem msixHoldoffEnd_zero_owed (up : s.host.linkUp = true) (clear : (s.host.msix.getD 0 {}).masked = false) (owed : s.host.v0Owed = true) :
    exec (.msixHoldoffEnd 0) s =
      .next { s with host := { s.host with v0Hold := true, v0Owed := false }, out := s.out ++ [.msix 0] } := by
  rw [msixHoldoffEnd_zero, owed, if_pos rfl, State.sendVector0, if_neg (by simp)]
  dsimp only
  rw [sendVector_unmasked]
  · exact settleFlags_ports rfl rfl rfl
  · exact up
  · exact clear

theorem msixHoldoffEnd_two_free (free : s.host.v2Owed = false) :
    exec (.msixHoldoffEnd 2) s = .next { s with host := { s.host with v2Hold := false, v2Owed := false } } := by
  rw [msixHoldoffEnd_two, free]
  exact settleFlags_ports rfl rfl rfl

theorem msixHoldoffEnd_two_owed (up : s.host.linkUp = true) (clear : (s.host.msix.getD 2 {}).masked = false) (owed : s.host.v2Owed = true) :
    exec (.msixHoldoffEnd 2) s =
      .next { s with host := { s.host with v2Hold := true, v2Owed := false }, out := s.out ++ [.msix 2] } := by
  rw [msixHoldoffEnd_two, owed, if_pos rfl, State.sendVector2, if_neg (by simp)]
  dsimp only
  rw [sendVector_unmasked]
  · exact settleFlags_ports rfl rfl rfl
  · exact up
  · exact clear

end Vectors

/-! ### Completions -/

section Completions
variable {s : State}

/-- R499: the three ways in which a read of the device fails. -/
theorem pcieCompletion_poisoned (rd : DeviceRead) (s : State) :
    exec (.pcieCompletion rd .poisoned) s = settleFlags s (s.readFails rd true) := rfl
theorem pcieCompletion_failed (rd : DeviceRead) (s : State) :
    exec (.pcieCompletion rd .failed) s = settleFlags s (s.readFails rd false) := rfl
theorem pcieCompletionTimeout_fails (rd : DeviceRead) (s : State) :
    exec (.pcieCompletionTimeout rd) s = settleFlags s (s.readFails rd false) := rfl

theorem pcieCompletion_ok (rd : DeviceRead) (d : List Byte) (s : State) : exec (.pcieCompletion rd (.ok d)) s = .next s :=
  settleFlags_idle s

/-- A failure that ends in `u`, whether poisoned or not. -/
theorem failure_outcome {rd : DeviceRead} {u : State} (fails : ∀ poisoned, s.readFails rd poisoned = u)
    (quiet : settleFlags s u = .next u) : exec (.pcieCompletion rd .poisoned) s = .next u ∧
      exec (.pcieCompletion rd .failed) s = .next u ∧ exec (.pcieCompletionTimeout rd) s = .next u := by
  rw [pcieCompletion_poisoned, pcieCompletion_failed, pcieCompletionTimeout_fails, fails, fails]
  exact ⟨quiet, quiet, quiet⟩

/-- A read that does not concern the device as it stands changes nothing, however it fails. -/
theorem failure_ignored {rd : DeviceRead} (ignored : ∀ poisoned, s.readFails rd poisoned = s) :
    exec (.pcieCompletion rd .poisoned) s = .next s ∧ exec (.pcieCompletion rd .failed) s = .next s ∧
      exec (.pcieCompletionTimeout rd) s = .next s := failure_outcome ignored (settleFlags_idle s)

theorem settleFlags_entryFailed (s : State) : settleFlags s s.entryFailed = .next s.entryFailed := by
  refine settleFlags_ports ?_ ?_ ?_
  · rw [State.entryFailed, sendVector_frame]
  · rw [State.entryFailed, sendVector_teller]
  · rw [State.entryFailed, sendVector_teller]

/-- What a read of the ring that fails comes to: an entry that cannot be read holds the ring, parameters that cannot be read are
marked (R330). -/
theorem ringRead_fails (fetches : s.canFetch = true) :
    exec (.pcieCompletion .ringEntry .failed) s = .next s.entryFailed ∧
    exec (.pcieCompletion .ringEntry .poisoned) s = .next s.entryFailed ∧
    exec (.pcieCompletionTimeout .ringEntry) s = .next s.entryFailed ∧
    exec (.pcieCompletion .indirect .failed) s = .next { s with ring := { s.ring with fetchErr := true } } ∧
    exec (.pcieCompletion .indirect .poisoned) s = .next { s with ring := { s.ring with fetchErr := true } } ∧
    exec (.pcieCompletionTimeout .indirect) s = .next { s with ring := { s.ring with fetchErr := true } } := by
  obtain ⟨poisoned, failed, late⟩ := failure_outcome (rd := .ringEntry) (fun _ => if_pos fetches) (settleFlags_entryFailed s)
  obtain ⟨poisoned', failed', late'⟩ := failure_outcome (rd := .indirect) (fun _ => if_pos fetches) (settleFlags_ports rfl rfl rfl)
  exact ⟨failed, poisoned, late, failed', poisoned', late'⟩

/-- A Teller that fetches nothing has no read of the ring out. -/
theorem ringRead_ignored (closed : s.canFetch = false) :
    (∀ r, exec (.pcieCompletion .ringEntry r) s = .next s ∧ exec (.pcieCompletion .indirect r) s = .next s) ∧
      exec (.pcieCompletionTimeout .ringEntry) s = .next s ∧ exec (.pcieCompletionTimeout .indirect) s = .next s := by
  obtain ⟨poisoned, failed, late⟩ := failure_ignored (rd := .ringEntry) fun _ => if_neg (Bool.eq_false_iff.1 closed)
  obtain ⟨poisoned', failed', late'⟩ := failure_ignored (rd := .indirect) fun _ => if_neg (Bool.eq_false_iff.1 closed)
  refine ⟨fun r => ?_, late, late'⟩
  cases r with
  | ok d => exact ⟨pcieCompletion_ok _ d s, pcieCompletion_ok _ d s⟩
  | poisoned => exact ⟨poisoned, poisoned'⟩
  | failed => exact ⟨failed, failed'⟩

/-- A channel that has a read out halts when the read fails (R488). -/
theorem readFails_dma {ch : Nat} (poisoned : Bool) (present : s.dmaExists ch = true)
    (moves : (s.dmaCh ch).st = .running ∨ (s.dmaCh ch).st = .stopping) : s.readFails (.dma ch) poisoned =
      s.dmaHalt ch (if poisoned then causeUncorr else causeTimeout) false (s.dmaReadAddr ch) := by
  have guard : (s.dmaExists ch && ((s.dmaCh ch).st == .running || (s.dmaCh ch).st == .stopping)) = true := by
    rcases moves with h | h <;> simp [present, h]
  rw [State.readFails, if_pos guard]

theorem readFails_dma_idle {ch : Nat} (poisoned : Bool) (running : (s.dmaCh ch).st ≠ .running) (stopping : (s.dmaCh ch).st ≠ .stopping) :
    s.readFails (.dma ch) poisoned = s := by
  rw [State.readFails, if_neg (by simp [running, stopping])]

/-- What the failed read of a channel leaves of it. -/
theorem dmaRead_halts {ch : Nat} (poisoned : Bool) (present : s.dmaExists ch = true) (here : ch < s.dma.length)
    (moves : (s.dmaCh ch).st = .running ∨ (s.dmaCh ch).st = .stopping) : ∃ t, settleFlags s (s.readFails (.dma ch) poisoned) = .next t ∧
      (t.dmaCh ch).st = .halted ∧ (t.dmaCh ch).errCause = (if poisoned then causeUncorr else causeTimeout) ∧
      (t.dmaCh ch).errDir = false := by
  refine ⟨_, settleFlags_eq _ _, ?_⟩
  rw [State.dmaCh, noticed_dma, ← State.dmaCh, readFails_dma poisoned present moves, dmaCh_dmaHalt _ _ _ here]
  exact ⟨rfl, rfl, rfl⟩

end Completions

end Sys2Proof.Proofs
end

section
/-! SUPPORT. A burst of one beat at a port where nothing waits (R469–R471), and a read of one word of the Vault through the matrix
(R293, R466, R468). -/
namespace Sys2Proof.Proofs
open Sys2Proof.Machine Sys2Proof.Laws

/-! ### Fields -/

@[simp] theorem le_length (n v : Nat) : (le n v).length = n := by
  induction n generalizing v with
  | zero => rfl
  | succ n ih => rw [le, List.length_cons, ih]

/-- A number that fits reads back from its bytes (R5). -/
theorem leNat_le {n v : Nat} (h : v < 256 ^ n) (rest : List Byte) : leNat n (le n v ++ rest) = v := by
  induction n generalizing v with
  | zero => simp only [Nat.pow_zero, Nat.lt_one_iff] at h; rw [h, leNat]
  | succ n ih =>
    rw [le, List.cons_append, leNat, ih (Nat.div_lt_of_lt_mul (by rwa [Nat.pow_succ'] at h)), BitVec.toNat_ofNat]
    omega

theorem slice_all (l : List Byte) : slice l 0 l.length = l := by simp [slice]

/-! ### One beat -/

theorem splitBurst_one {a len : Nat} (pos : 0 < len) (fits : a % 64 + len ≤ 64) : splitBurst a len = [(a, len)] := by
  have whole : min len (min (1024 - a % 1024) (1024 - (a - a / 64 * 64) % 1024)) = len := by omega
  obtain ⟨n, rfl⟩ := Nat.exists_eq_add_of_lt pos
  rw [splitBurst, piecesOf, if_neg (by omega)]
  dsimp only
  rw [whole, Nat.sub_self, piecesOf, if_pos rfl]

theorem beatsOf_one {a len : Nat} (pos : 0 < len) (fits : a % 64 + len ≤ 64) : beatsOf (len + 1) a len = [(a, len)] := by
  have whole : min len (64 - a % 64) = len := by omega
  obtain ⟨n, rfl⟩ := Nat.exists_eq_add_of_lt pos
  rw [beatsOf, if_neg (by omega)]
  dsimp only
  rw [whole, Nat.sub_self, beatsOf, if_pos rfl]

theorem mxWinner_alone (port : Nat) (r : MxRequest) (s : State) : s.mxWinner port [r] = some r := by
  have first : firstOfEach [r] = [r] := rfl
  rw [State.mxWinner, first, List.find?_singleton]
  split
  next h =>
    split at h
    · exact h ▸ rfl
    · contradiction
  next => rfl

/-- R469: an access of a master at a port where nothing waits is granted at once. -/
theorem granted_free {m : Master} {write : Bool} {a n : Nat} {s : State} (free : s.mxWaiting (portOf m write a) = []) :
    s.granted m write a n = s.parkOn (portOf m write a) m n := by
  unfold State.granted
  dsimp only
  cases s.matrix.waiting.length with
  | zero => rfl
  | succ k =>
    rw [State.grantAhead, free, List.nil_append, mxWinner_alone]
    dsimp only
    rw [if_pos (beq_self_eq_true _)]

/-- A read of one beat at a port where nothing waits. -/
theorem readBurstBeats_one {m : Master} {a len : Nat} {s : State} (pos : 0 < len) (fits : a % 64 + len ≤ 64)
    (free : s.mxWaiting (portOf m false a) = []) {resp : Nat} {d : List Byte} {t : State}
    (beat : (s.parkOn (portOf m false a) m len).readBeat m a len .failed = (resp, d, t)) :
    s.readBurstBeats m a len .failed = ([(resp, d)], t) := by
  have piece : (s.parkOn (portOf m false a) m len).readPiece m a len .failed = ([(resp, d)], t) := by
    rw [State.readPiece, beatsOf_one pos fits]
    simp only [List.foldl_cons, List.foldl_nil, hostPart, beat, List.nil_append]
  rw [State.readBurstBeats, splitBurst_one pos fits]
  simp only [List.foldl_cons, List.foldl_nil, granted_free free, hostPart, piece, List.nil_append]

/-! ### The Vault behind the matrix -/

theorem targetOf_vault {a : Nat} (h : a < 2 ^ 32) : targetOf a = .vault a := if_pos h

/-- The host's reads of the Vault go to its port (R468). -/
theorem portOf_vault {a : Nat} (h : a < 2 ^ 32) : portOf .hostPort false a = 0 := by
  rw [portOf, targetOf_vault h]
  rfl

/-- A word without inverted bits is read as it is stored; a poisoned one counts (R292, R293). -/
theorem readWord_clean {src w : Nat} {s : State} (clean : (s.vword w).flips = []) : s.readWord src w =
    ((s.vword w).data, (s.vword w).poison, if (s.vword w).poison then s.notePoison w else s) := by
  rw [State.readWord, State.readHeld, State.decode, clean]
  dsimp only
  cases (s.vword w).poison <;> rfl

/-- An aligned word of the Vault, byte by byte. -/
theorem readVaultBytes_word {a : Nat} {s : State} (aligned : a % 8 = 0) (clean : (s.vword (a / 8)).flips = []) :
    s.readVaultBytes a 8 = (le 8 (s.vword (a / 8)).data.toNat, (s.vword (a / 8)).poison,
      if (s.vword (a / 8)).poison then s.notePoison (a / 8) else s) := by
  have one : (a + 8 + 7) / 8 - a / 8 = 1 := by omega
  rw [State.readVaultBytes]
  dsimp only
  rw [one, aligned, List.range_one, List.foldl_cons, List.foldl_nil, Nat.add_zero]
  simp only [readWord_clean clean, List.nil_append, Bool.false_or, List.drop_zero]
  rw [List.take_of_length_le (Nat.le_of_eq (le_length 8 _))]

section Beat
variable {a len : Nat} (host : ReadResult) {s : State}

/-- A read beat of the host to a die of the Vault that is in service. -/
theorem readBeat_vault (low : a < 2 ^ 32) (usable : s.usable 5 (a / 2 ^ 31) = true) (serves : s.stalled (6 + a / 2 ^ 31) = false) :
    s.readBeat .hostPort a len host =
      if (s.readVaultBytes a len).2.1 then (respTgt, List.replicate len 0, (s.readVaultBytes a len).2.2)
        else (respOk, (s.readVaultBytes a len).1, (s.readVaultBytes a len).2.2) := by
  have state : s.targetState (.vault a) = 0 := by
    change (if s.stalled (6 + a / 2 ^ 31) then 1 else if s.usable 5 (a / 2 ^ 31) then 0 else 2) = 0
    rw [serves, usable]
    rfl
  unfold State.readBeat
  rw [targetOf_vault low]
  dsimp only
  rw [state]
  rfl

theorem readBeat_word (low : a < 2 ^ 32) (usable : s.usable 5 (a / 2 ^ 31) = true) (serves : s.stalled (6 + a / 2 ^ 31) = false)
    (aligned : a % 8 = 0) (clean : (s.vword (a / 8)).flips = []) (sound : (s.vword (a / 8)).poison = false) :
    s.readBeat .hostPort a 8 host = (respOk, le 8 (s.vword (a / 8)).data.toNat, s) := by
  rw [readBeat_vault host low usable serves, readVaultBytes_word aligned clean, sound]
  rfl

theorem readBeat_poisoned (low : a < 2 ^ 32) (usable : s.usable 5 (a / 2 ^ 31) = true) (serves : s.stalled (6 + a / 2 ^ 31) = false)
    (aligned : a % 8 = 0) (clean : (s.vword (a / 8)).flips = []) (poisoned : (s.vword (a / 8)).poison = true) :
    s.readBeat .hostPort a 8 host = (respTgt, List.replicate 8 0, s.notePoison (a / 8)) := by
  rw [readBeat_vault host low usable serves, readVaultBytes_word aligned clean, poisoned]
  rfl

/-- R466: a beat to a die that is not usable is answered DECODE_ERR. -/
theorem readBeat_absent (low : a < 2 ^ 32) (absent : s.usable 5 (a / 2 ^ 31) = false) (serves : s.stalled (6 + a / 2 ^ 31) = false) :
    s.readBeat .hostPort a len host = (respDecode, List.replicate len 0, s) := by
  have state : s.targetState (.vault a) = 2 := by
    change (if s.stalled (6 + a / 2 ^ 31) then 1 else if s.usable 5 (a / 2 ^ 31) then 0 else 2) = 2
    rw [serves, absent]
    rfl
  unfold State.readBeat
  rw [targetOf_vault low]
  dsimp only
  rw [state]
  rfl

end Beat

end Sys2Proof.Proofs
end

section
/-! BAR2 (R503, R504). -/
namespace Sys2Proof.Proofs
open Sys2Proof.Machine Sys2Proof.Laws

variable {s : State} {off len : Nat}

theorem bar2Write_discards (data : List Byte) (reached : s.hostReaches = true) :
    exec (.bar2Write off data) s = .next { s with host := { s.host with bar2Write := true } } := by
  have row : exec (.bar2Write off data) s = execBar2Write off data s := rfl
  rw [row, execBar2Write, reached]
  exact settleFlags_ports rfl rfl rfl

theorem bar2Write_unreached (data : List Byte) (unreached : s.hostReaches = false) : exec (.bar2Write off data) s = .next s := by
  have row : exec (.bar2Write off data) s = execBar2Write off data s := rfl
  rw [row, execBar2Write, unreached]
  exact settleFlags_idle s

/-- A read that the host does not send, or that runs past the BAR, is not answered. -/
theorem bar2Read_ignored (ignored : s.hostReaches = false ∨ 2 ^ 32 < off + len) : exec (.bar2Read off len) s = .next s := by
  have row : exec (.bar2Read off len) s = execBar2Read off len s := rfl
  have guard : (s.hostReaches && decide (off + len ≤ 2 ^ 32)) = false := by
    rcases ignored with h | h
    · rw [h, Bool.false_and]
    · rw [decide_eq_false (by omega), Bool.and_false]
  rw [row, execBar2Read, guard]
  exact settleFlags_idle s

/-- R503: with WINDOW other than 0 no address of the Vault is named. -/
theorem bar2Read_outside (reached : s.hostReaches = true) (inside : off + len ≤ 2 ^ 32) (vault : s.host.bar2Sel.getLsbD 0 = false)
    (window : bits s.host.bar2Sel.toNat 15 8 ≠ 0) : exec (.bar2Read off len) s =
      .next { s with host := { s.host with bar2Err := true }, out := s.out ++ [.completion 2 []] } := by
  have row : exec (.bar2Read off len) s = execBar2Read off len s := rfl
  have low : bit s.host.bar2Sel.toNat 0 = false := by
    rw [← vault, BitVec.getLsbD, Nat.testBit]
    simp [bit]
  have nowhere : s.bar2Addr off = none := by
    unfold State.bar2Addr
    dsimp only
    rw [low, if_neg (by decide), if_neg window]
  rw [row, execBar2Read, reached, decide_eq_true inside, nowhere]
  exact settleFlags_ports rfl rfl rfl

section Beat
variable {resp : Nat} {d : List Byte} {t : State} (reached : s.hostReaches = true) (pos : 0 < len) (inside : off + len ≤ 2 ^ 32)
  (fits : off % 64 + len ≤ 64) (sel : s.host.bar2Sel = 0) (free : s.mxWaiting 0 = [])
include reached pos inside fits sel free

/-- What a read of one beat of the Vault through BAR2 comes to, with BAR2_SEL 0. -/
theorem bar2Read_beat (beat : (s.parkOn 0 .hostPort len).readBeat .hostPort off len .failed = (resp, d, t)) :
    exec (.bar2Read off len) s = settleFlags s (if resp = respOk then t.emit (.completion 0 d)
      else ({ t with host := { t.host with bar2Err := true } }).emit
        (.completion (bar2Kind resp) (if resp = respTgt then List.replicate len 0 else []))) := by
  have row : exec (.bar2Read off len) s = execBar2Read off len s := rfl
  have port := portOf_vault (show off < 2 ^ 32 by omega)
  have addr : s.bar2Addr off = some off := by
    rw [State.bar2Addr, sel]
    rfl
  have read := readBurstBeats_one (m := .hostPort) pos fits (port ▸ free) (port ▸ beat)
  rw [row, execBar2Read, reached, decide_eq_true inside, addr]
  by_cases ok : resp = respOk <;> simp [read, ok]

/-- R466, R504: a read of a die that is not usable is an unsupported request. -/
theorem bar2Read_absent (serves : s.stalled (6 + off / 2 ^ 31) = false) (absent : s.usable 5 (off / 2 ^ 31) = false) :
    ∃ t, exec (.bar2Read off len) s = .next t ∧ t = { s with
      host := { s.host with bar2Err := true }, out := s.out ++ [.completion 2 []], matrix := t.matrix } := by
  have beat := readBeat_absent (len := len) .failed (s := s.parkOn 0 .hostPort len) (by omega) absent serves
  exact ⟨_, (bar2Read_beat reached pos inside fits sel free beat).trans (settleFlags_ports rfl rfl rfl), rfl⟩

end Beat

section Word
variable (reached : s.hostReaches = true) (inside : off + 8 ≤ 2 ^ 32) (aligned : off % 8 = 0) (sel : s.host.bar2Sel = 0)
  (usable : s.usable 5 (off / 2 ^ 31) = true) (serves : s.stalled (6 + off / 2 ^ 31) = false) (free : s.mxWaiting 0 = [])
  (clean : (s.vword (off / 8)).flips = [])
include reached inside aligned sel usable serves free clean

/-- R504: a stored word is returned. -/
theorem bar2Read_word (sound : (s.vword (off / 8)).poison = false) : ∃ t, exec (.bar2Read off 8) s = .next t ∧
    t = { s with out := s.out ++ [.completion 0 (le 8 (s.vword (off / 8)).data.toNat)], matrix := t.matrix } := by
  have beat := readBeat_word .failed (s := s.parkOn 0 .hostPort 8) (by omega) usable serves aligned clean sound
  exact ⟨_, (bar2Read_beat reached (by omega) inside (by omega) sel free beat).trans (settleFlags_ports rfl rfl rfl), rfl⟩

/-- R504: a poisoned word completes with UNCORR and zeros. -/
theorem bar2Read_poisoned (poisoned : (s.vword (off / 8)).poison = true) : ∃ t, exec (.bar2Read off 8) s = .next t ∧
    t.out = s.out ++ [.completion 1 (List.replicate 8 0)] ∧ t.host = { s.host with bar2Err := true } := by
  have beat := readBeat_poisoned .failed (s := s.parkOn 0 .hostPort 8) (by omega) usable serves aligned clean poisoned
  exact ⟨_, (bar2Read_beat reached (by omega) inside (by omega) sel free beat).trans (settleFlags_still rfl rfl rfl rfl), rfl, rfl⟩

end Word

end Sys2Proof.Proofs
end

section
/-! The SPI port (R334, R335). -/
namespace Sys2Proof.Proofs
open Sys2Proof.Machine Sys2Proof.Laws

/-! ### The check of a frame (R96) -/

theorem crcBit_lt {c : Nat} (h : c < 2 ^ 32) : crcBit polyC c < 2 ^ 32 := by
  unfold crcBit
  split
  · exact Nat.xor_lt_two_pow (by omega) (by decide)
  · omega

theorem crcByte_lt {c : Nat} (b : Byte) (h : c < 2 ^ 32) : crcByte polyC c b < 2 ^ 32 := by
  have start : c ^^^ b.toNat < 2 ^ 32 := Nat.xor_lt_two_pow h (by omega)
  exact crcBit_lt (crcBit_lt (crcBit_lt (crcBit_lt (crcBit_lt (crcBit_lt (crcBit_lt (crcBit_lt start)))))))

theorem crcRun_lt {c : Nat} (l : List Byte) (h : c < 2 ^ 32) : crcRun polyC c l < 2 ^ 32 := by
  induction l generalizing c with
  | nil => exact h
  | cons b l ih => exact ih (crcByte_lt b h)

theorem crc32c_lt (l : List Byte) : crc32c l < 2 ^ 32 :=
  Nat.xor_lt_two_pow (crcRun_lt l (by decide)) (by decide)

@[simp] theorem withCrc_length (l : List Byte) : (withCrc l).length = l.length + 4 := by
  rw [withCrc, List.length_append, le_length]

/-- What carries its check passes it. -/
theorem crcLastOk_withCrc (l : List Byte) : crcLastOk (withCrc l) = true := by
  have read : u32 (withCrc l) l.length = crc32c l := by
    rw [u32, field, withCrc, List.drop_left, ← List.append_nil (le 4 _)]
    exact leNat_le (crc32c_lt l) []
  have body : (withCrc l).take l.length = l := by rw [withCrc, List.take_left]
  simp [crcLastOk, read, body]

/-! ### Bytes of the device's own -/

theorem freeBytes_spec (n : Nat) (s : State) :
    (s.freeBytes n).1.length = n ∧ (s.freeBytes n).2 = { s with freeCtr := s.freeCtr + n } := by
  induction n generalizing s with
  | zero => exact ⟨rfl, rfl⟩
  | succ n ih =>
    obtain ⟨length, frame⟩ := ih { s with freeCtr := s.freeCtr + 1 }
    refine ⟨congrArg Nat.succ length, frame.trans ?_⟩
    rw [Nat.add_right_comm]
    rfl

/-! ### The port -/

section Port
variable {s : State}

/-- A port without power, or whose island has stalled, serves no frame. -/
theorem spi_silent (silent : s.powered = false ∨ s.stalled 16 = true) :
    (∀ f, exec (.spiWrite f) s = .next s) ∧ (∀ n, exec (.spiReadReply n) s = .next s) ∧ exec .spiReadStatus s = .next s ∧
      (∀ o n, exec (.spiReadData o n) s = .next s) ∧ ∀ b, exec (.spiUnknownFrame b) s = .next s := by
  have off : (!s.powered || s.stalled 16) = true := by
    rcases silent with h | h <;> simp [h]
  have off' : (s.powered && !s.stalled 16) = false := by
    rcases silent with h | h <;> simp [h]
  refine ⟨fun f => ?_, fun n => ?_, ?_, fun o n => ?_, fun b => ?_⟩
  · rw [show exec (.spiWrite f) s = execSpiWrite f s from rfl, execSpiWrite, off]
    exact settleFlags_idle s
  · rw [show exec (.spiReadReply n) s = execSpiReadReply n s from rfl, execSpiReadReply, off]
    exact settleFlags_idle s
  · rw [show exec .spiReadStatus s = execSpiReadStatus s from rfl, execSpiReadStatus, off]
    exact settleFlags_idle s
  · rw [show exec (.spiReadData o n) s = execSpiReadData o n s from rfl, execSpiReadData, off]
    exact settleFlags_idle s
  · rw [show exec (.spiUnknownFrame b) s = execSpiUnknownFrame b s from rfl, execSpiUnknownFrame, off']
    exact settleFlags_idle s

variable (powered : s.powered = true) (serves : s.stalled 16 = false)
include powered serves

/-- What a WRITE frame comes to. -/
theorem spiWrite_outcome (frame : List Byte) : exec (.spiWrite frame) s = settleFlags s
    (if u16 frame 0 < 16 || u16 frame 0 > 4096 || u16 frame 0 % 4 != 0 || frame.length != u16 frame 0 + 6 || !crcLastOk frame then
      s.frameError
    else if 16 ≤ s.spi.cmdQ.length then { s with spi := { s.spi with overflow := true } }
    else { s with spi := { s.spi with
      cmdQ := s.spi.cmdQ ++ [{ src := .spi, bytes := (frame.drop 2).take (u16 frame 0) }] } }) := by
  rw [show exec (.spiWrite frame) s = execSpiWrite frame s from rfl, execSpiWrite, powered, serves]
  rfl

theorem spiWrite_bad {frame : List Byte} (bad : frame.length ≠ u16 frame 0 + 6 ∨ crcLastOk frame = false) :
    exec (.spiWrite frame) s = .next { s with spi := { s.spi with frameErr := true } } := by
  rw [spiWrite_outcome powered serves, if_pos (by rcases bad with h | h <;> simp [h])]
  exact settleFlags_ports rfl rfl rfl

section Good
variable {pk : List Byte} (long : 16 ≤ pk.length) (short : pk.length ≤ 4096) (words : pk.length % 4 = 0)
include long short words

/-- A frame with its length and its check is sound. -/
theorem spiWrite_good : exec (.spiWrite (withCrc (le 2 pk.length ++ pk))) s = settleFlags s
    (if 16 ≤ s.spi.cmdQ.length then { s with spi := { s.spi with overflow := true } }
    else { s with spi := { s.spi with cmdQ := s.spi.cmdQ ++ [{ src := .spi, bytes := pk }] } }) := by
  have count : u16 (withCrc (le 2 pk.length ++ pk)) 0 = pk.length := by
    rw [u16, field, List.drop_zero, withCrc, List.append_assoc]
    exact leNat_le (by omega) _
  have bytes : ((withCrc (le 2 pk.length ++ pk)).drop 2).take pk.length = pk := by
    rw [withCrc, List.append_assoc, List.drop_left' (le_length 2 _), List.take_left]
  rw [spiWrite_outcome powered serves, count, bytes, crcLastOk_withCrc, if_neg]
  simp only [withCrc_length, List.length_append, le_length, words]
  simp
  omega

theorem spiWrite_queues (room : s.spi.cmdQ.length < 16) : exec (.spiWrite (withCrc (le 2 pk.length ++ pk))) s =
    .next { s with spi := { s.spi with cmdQ := s.spi.cmdQ ++ [{ src := .spi, bytes := pk }] } } := by
  rw [spiWrite_good powered serves long short words, if_neg (by omega)]
  exact settleFlags_ports rfl rfl rfl

theorem spiWrite_overflows (full : 16 ≤ s.spi.cmdQ.length) : exec (.spiWrite (withCrc (le 2 pk.length ++ pk))) s =
    .next { s with spi := { s.spi with overflow := true } } := by
  rw [spiWrite_good powered serves long short words, if_pos full]
  exact settleFlags_ports rfl rfl rfl

end Good

theorem spiUnknownFrame_bad (b : Byte) : exec (.spiUnknownFrame b) s = .next { s with spi := { s.spi with frameErr := true } } := by
  rw [show exec (.spiUnknownFrame b) s = execSpiUnknownFrame b s from rfl, execSpiUnknownFrame, powered, serves]
  exact settleFlags_ports rfl rfl rfl

section Reply
variable {n : Nat} {r : List Byte} {rest : List (List Byte)} (waiting : s.spi.replyQ = r :: rest) (whole : r.length = 32)
include waiting whole

/-- What READ_REPLY comes to while a reply waits. -/
theorem spiReadReply_waiting (n : Nat) : exec (.spiReadReply n) s = settleFlags s
    (if 38 ≤ n then { s with
      spi := { s.spi with replyQ := rest }, out := s.out ++ [.spi ((withCrc (1 :: r)).take (n - 1))] }
    else { s with out := s.out ++ [.spi ((withCrc (1 :: r)).take (n - 1))] }) := by
  have all : slice r 0 32 = r := whole ▸ slice_all r
  rw [show exec (.spiReadReply n) s = execSpiReadReply n s from rfl, execSpiReadReply, powered, serves, waiting]
  dsimp only [State.emit]
  rw [waiting, all]
  rfl

/-- R335: a reply leaves the queue when all of it has been clocked out. -/
theorem spiReadReply_takes (done : 38 ≤ n) : exec (.spiReadReply n) s =
    .next { s with spi := { s.spi with replyQ := rest }, out := s.out ++ [.spi (withCrc (1 :: r))] } := by
  have short : (withCrc (1 :: r)).length ≤ n - 1 := by
    rw [withCrc_length, List.length_cons, whole]
    omega
  rw [spiReadReply_waiting powered serves waiting whole, if_pos done, List.take_of_length_le short]
  exact settleFlags_ports rfl rfl rfl

theorem spiReadReply_leaves (cut : n < 38) : exec (.spiReadReply n) s =
    .next { s with out := s.out ++ [.spi ((withCrc (1 :: r)).take (n - 1))] } := by
  rw [spiReadReply_waiting powered serves waiting whole, if_neg (by omega)]
  exact settleFlags_ports rfl rfl rfl

end Reply

theorem spiReadReply_none (n : Nat) (idle : s.spi.replyQ = []) : exec (.spiReadReply n) s =
    .next { s with out := s.out ++ [.spi ((withCrc (List.replicate 33 0)).take (n - 1))] } := by
  have same : ({ s.spi with replyQ := s.spi.replyQ.drop 1 } : Spi) = s.spi := by rw [idle, List.drop_nil, ← idle]
  rw [show exec (.spiReadReply n) s = execSpiReadReply n s from rfl, execSpiReadReply, powered, serves, idle]
  dsimp only [State.emit]
  rw [same, ite_self]
  exact settleFlags_ports rfl rfl rfl

theorem spiReadStatus_clears : exec .spiReadStatus s = .next { s with
    spi := { s.spi with frameErr := false, overflow := false }
    out := s.out ++ [.spi (le 1 s.spiStatus ++ le 1 s.spi.replyQ.length)] } := by
  rw [show exec .spiReadStatus s = execSpiReadStatus s from rfl, execSpiReadStatus, powered, serves]
  exact settleFlags_ports rfl rfl rfl

/-- What READ_DATA comes to. -/
theorem spiReadData_outcome (o n : Nat) : exec (.spiReadData o n) s = settleFlags s
    (if o % 4 = 0 && n % 4 = 0 && 4 ≤ n && o + n ≤ 4096 then s.emit (.spi (withCrc (slice s.spi.dataBuf o n)))
    else (s.freeBytes n).2.emit (.spi (s.freeBytes n).1)) := by
  rw [show exec (.spiReadData o n) s = execSpiReadData o n s from rfl, execSpiReadData, powered, serves]
  rfl

theorem spiReadData_slice {o n : Nat} (start : o % 4 = 0) (words : n % 4 = 0) (least : 4 ≤ n) (inside : o + n ≤ 4096) :
    exec (.spiReadData o n) s = .next { s with out := s.out ++ [.spi (withCrc (slice s.spi.dataBuf o n))] } := by
  rw [spiReadData_outcome powered serves, if_pos (by simp [start, words, least, inside])]
  exact settleFlags_ports rfl rfl rfl

/-- R334: a frame outside its limits returns as many bytes of the device's own. -/
theorem spiReadData_free {o n : Nat} (outside : ¬(o % 4 = 0 ∧ n % 4 = 0 ∧ 4 ≤ n ∧ o + n ≤ 4096)) : ∃ d, d.length = n ∧
    exec (.spiReadData o n) s = .next { s with out := s.out ++ [.spi d], freeCtr := s.freeCtr + n } := by
  obtain ⟨length, frame⟩ := freeBytes_spec n s
  refine ⟨_, length, ?_⟩
  rw [spiReadData_outcome powered serves, if_neg (by simpa [and_assoc] using outside), frame]
  exact settleFlags_ports rfl rfl rfl

end Port

end Sys2Proof.Proofs
end

section
/-! The host link, vectors, completions, BAR2 and the SPI port, together. -/
namespace Sys2Proof.Proofs
open Sys2Proof.Machine Sys2Proof.Laws

/-- Settles O47. No change of the ports raises an event of EVENT_FLAGS or changes what the Ledger records, so that each row leaves just
what it writes; and of all that a halt sets going on the matrix and in the kernel's run, nothing reaches the channels. -/
theorem hostPortAndSpiAct : Obligations.HostPortAndSpiAct := by
  unfold Obligations.HostPortAndSpiAct
  intro s
  refine ⟨ringLost_gives_up s, pcieLinkDown_outcome s, busMasterClear_outcome s, perstAssert_outcome s, perstDeassert_outcome s,
    d3hotEntry_outcome s, d3hotExit_outcome s, fun _ _ => pcieLinkUp_trains, pcieLinkUp_held,
    fun unreached => ⟨functionLevelReset_unreached unreached, fun v => msixUnmask_unreached v unreached⟩,
    fun reached => ⟨functionLevelReset_restores reached, fun _ => msixUnmask_sends reached, fun _ => msixUnmask_quiet reached⟩,
    msixHoldoffEnd_zero_free, msixHoldoffEnd_zero_owed, msixHoldoffEnd_two_free, msixHoldoffEnd_two_owed,
    fun rd d => pcieCompletion_ok rd d s, fun closed => ringRead_ignored closed, ?_, ?_, ?_,
    fun unreached => ⟨fun _ data => bar2Write_unreached data unreached, fun _ _ => bar2Read_ignored (.inl unreached)⟩, ?_,
    spi_silent, ?_⟩
  · rintro e f rfl rfl fetches
    exact ringRead_fails fetches
  · intro ch present here moves
    obtain ⟨t, poisoned, st, cause, dir⟩ := dmaRead_halts true present here moves
    obtain ⟨u, failed, st', cause', -⟩ := dmaRead_halts false present here moves
    exact ⟨⟨t, poisoned, st, cause, dir⟩, ⟨u, failed, st', cause'⟩, ⟨u, failed, st', cause'⟩⟩
  · intro ch running stopping
    exact failure_ignored fun poisoned => readFails_dma_idle poisoned running stopping
  · intro reached
    refine ⟨fun _ data => bar2Write_discards data reached, ?_,
      fun _ _ pos inside fits sel serves absent free => bar2Read_absent reached pos inside fits sel free serves absent,
      fun _ _ beyond => bar2Read_ignored (.inr beyond), fun _ _ => bar2Read_outside reached⟩
    rintro off x inside aligned sel usable serves free rfl clean
    exact ⟨bar2Read_word reached inside aligned sel usable serves free clean,
      bar2Read_poisoned reached inside aligned sel usable serves free clean⟩
  · intro powered serves
    exact ⟨fun pk long short words => ⟨spiWrite_queues powered serves long short words, spiWrite_overflows powered serves long short words⟩,
      fun _ => spiWrite_bad powered serves, spiUnknownFrame_bad powered serves,
      fun _ _ _ waiting whole => ⟨spiReadReply_takes powered serves waiting whole, spiReadReply_leaves powered serves waiting whole⟩,
      fun n => spiReadReply_none powered serves n, spiReadStatus_clears powered serves,
      fun _ _ => spiReadData_slice powered serves, fun _ _ => spiReadData_free powered serves⟩

end Sys2Proof.Proofs
end
